-- ==== Sys2Proof/Word.lean ====
section
/-! DEFINITION. The word types of the part (R4): bytes, 64-bit words, and a handle's 256 bits (R161). -/

namespace Sys2Proof

/-- One byte of a memory. -/
abbrev Byte := BitVec 8

/-- A scalar register, a control register or a header word. -/
abbrev Word := BitVec 64

/-- A handle register (R161). -/
abbrev HandleBits := BitVec 256

end Sys2Proof
end

