-- ==== Sys2Proof/Syntax.lean ====
section
/-! DEFINITION. The syntax of every step of the part: one constructor for each row of spec/opcode_table.json.
The first 259 are encoded instructions (R90 to R107); a register field is the bits the encoding gives it.
The others are the steps of the units that fetch no instruction (spec/95_what_each_step_holds.md). The table gives
those steps no fields: the unit that moves, the entry of its queue, and what arrives from outside the package stand in
the state's input latch (Machine/Input.lean).

Lean's compiled code holds at most 244 constructors with operands, and 253 rows have fields. The ten rows whose only
operands are literal codes (`rep`, `safe`, `trap`, `brk`, `fence`, `drain`, `gang.lead`, `gang.join`, and the lookahead
counts of `mswap` and `mzero`, which R101 ignores) therefore have constructors without operands: their meanings read the
code from the instruction word in the issue latch (log 1). -/

namespace Sys2Proof

/-- One constructor for each row of the opcode table: the rows with operands in the table's order, then the others. -/
inductive Instr where
  | add (rd : BitVec 6) (ra : BitVec 6) (rb : BitVec 6)
  | sub (rd : BitVec 6) (ra : BitVec 6) (rb : BitVec 6)
  | mul (rd : BitVec 6) (ra : BitVec 6) (rb : BitVec 6)
  | mulh (rd : BitVec 6) (ra : BitVec 6) (rb : BitVec 6)
  | mulhu (rd : BitVec 6) (ra : BitVec 6) (rb : BitVec 6)
  | div (rd : BitVec 6) (ra : BitVec 6) (rb : BitVec 6)
  | divu (rd : BitVec 6) (ra : BitVec 6) (rb : BitVec 6)
  | rem (rd : BitVec 6) (ra : BitVec 6) (rb : BitVec 6)
  | remu (rd : BitVec 6) (ra : BitVec 6) (rb : BitVec 6)
  | and (rd : BitVec 6) (ra : BitVec 6) (rb : BitVec 6)
  | or (rd : BitVec 6) (ra : BitVec 6) (rb : BitVec 6)
  | xor (rd : BitVec 6) (ra : BitVec 6) (rb : BitVec 6)
  | andn (rd : BitVec 6) (ra : BitVec 6) (rb : BitVec 6)
  | shl (rd : BitVec 6) (ra : BitVec 6) (rb : BitVec 6)
  | shr (rd : BitVec 6) (ra : BitVec 6) (rb : BitVec 6)
  | sar (rd : BitVec 6) (ra : BitVec 6) (rb : BitVec 6)
  | rol (rd : BitVec 6) (ra : BitVec 6) (rb : BitVec 6)
  | min (rd : BitVec 6) (ra : BitVec 6) (rb : BitVec 6)
  | max (rd : BitVec 6) (ra : BitVec 6) (rb : BitVec 6)
  | minu (rd : BitVec 6) (ra : BitVec 6) (rb : BitVec 6)
  | maxu (rd : BitVec 6) (ra : BitVec 6) (rb : BitVec 6)
  | slt (rd : BitVec 6) (ra : BitVec 6) (rb : BitVec 6)
  | sltu (rd : BitVec 6) (ra : BitVec 6) (rb : BitVec 6)
  | seq (rd : BitVec 6) (ra : BitVec 6) (rb : BitVec 6)
  | sel (rd : BitVec 6) (ra : BitVec 6) (rb : BitVec 6)
  | clz (rd : BitVec 6) (ra : BitVec 6)
  | ctz (rd : BitVec 6) (ra : BitVec 6)
  | popc (rd : BitVec 6) (ra : BitVec 6)
  | bext (rd : BitVec 6) (ra : BitVec 6) (rb : BitVec 6)
  | bins (rd : BitVec 6) (ra : BitVec 6) (rb : BitVec 6)
  | shli (rd : BitVec 6) (ra : BitVec 6) (k : BitVec 8)
  | shri (rd : BitVec 6) (ra : BitVec 6) (k : BitVec 8)
  | sari (rd : BitVec 6) (ra : BitVec 6) (k : BitVec 8)
  | lea (rd : BitVec 6) (ra : BitVec 6) (k : BitVec 8)
  | addi (rd : BitVec 6) (ra : BitVec 6) (imm : BitVec 13)
  | andi (rd : BitVec 6) (ra : BitVec 6) (imm : BitVec 13)
  | ori (rd : BitVec 6) (ra : BitVec 6) (imm : BitVec 13)
  | xori (rd : BitVec 6) (ra : BitVec 6) (imm : BitVec 13)
  | slti (rd : BitVec 6) (ra : BitVec 6) (imm : BitVec 13)
  | lui (rd : BitVec 6) (imm : BitVec 19)
  | bEq (ra : BitVec 6) (disp : BitVec 16)
  | bNe (ra : BitVec 6) (disp : BitVec 16)
  | bLt (ra : BitVec 6) (disp : BitVec 16)
  | bGe (ra : BitVec 6) (disp : BitVec 16)
  | bLtu (ra : BitVec 6) (disp : BitVec 16)
  | bGeu (ra : BitVec 6) (disp : BitVec 16)
  | j (disp : BitVec 25)
  | jal (disp : BitVec 25)
  | jalr (rd : BitVec 6) (ra : BitVec 6) (imm : BitVec 13)
  | ldk (rd : BitVec 6) (k : BitVec 8)
  | addk (rd : BitVec 6) (ra : BitVec 6) (k : BitVec 8)
  | fadd (fd : BitVec 5) (fa : BitVec 5) (fb : BitVec 5)
  | fsub (fd : BitVec 5) (fa : BitVec 5) (fb : BitVec 5)
  | fmul (fd : BitVec 5) (fa : BitVec 5) (fb : BitVec 5)
  | fdiv (fd : BitVec 5) (fa : BitVec 5) (fb : BitVec 5)
  | ffma (fd : BitVec 5) (fa : BitVec 5) (fb : BitVec 5)
  | fnma (fd : BitVec 5) (fa : BitVec 5) (fb : BitVec 5)
  | fmin (fd : BitVec 5) (fa : BitVec 5) (fb : BitVec 5)
  | fmax (fd : BitVec 5) (fa : BitVec 5) (fb : BitVec 5)
  | fsqrt (fd : BitVec 5) (fa : BitVec 5)
  | fneg (fd : BitVec 5) (fa : BitVec 5)
  | fabs (fd : BitVec 5) (fa : BitVec 5)
  | fclass (rd : BitVec 6) (fa : BitVec 5)
  | fround (fd : BitVec 5) (fa : BitVec 5)
  | fmvX (rd : BitVec 6) (fa : BitVec 5) (j : BitVec 6)
  | fmvF (fd : BitVec 5) (ra : BitVec 6) (j : BitVec 6)
  | fcmpEq (rd : BitVec 6) (fa : BitVec 5) (fb : BitVec 5)
  | fcmpLt (rd : BitVec 6) (fa : BitVec 5) (fb : BitVec 5)
  | fcmpLe (rd : BitVec 6) (fa : BitVec 5) (fb : BitVec 5)
  | fcmpUn (rd : BitVec 6) (fa : BitVec 5) (fb : BitVec 5)
  | fcvtFS (fd : BitVec 5) (ra : BitVec 6)
  | fcvtFU (fd : BitVec 5) (ra : BitVec 6)
  | fcvtSF (rd : BitVec 6) (fa : BitVec 5)
  | fcvtUF (rd : BitVec 6) (fa : BitVec 5)
  | fcvtFH (fd : BitVec 5) (ra : BitVec 6)
  | fcvtHF (rd : BitVec 6) (fa : BitVec 5)
  | fcvtFBf (fd : BitVec 5) (ra : BitVec 6)
  | fcvtBfF (rd : BitVec 6) (fa : BitVec 5)
  | fcvtFW (fd : BitVec 5) (ra : BitVec 6)
  | fcvtWF (rd : BitVec 6) (fa : BitVec 5)
  | fcvtFD (fd : BitVec 5) (ra : BitVec 6)
  | fcvtDF (rd : BitVec 6) (fa : BitVec 5)
  | fld (fd : BitVec 5) (ra : BitVec 6) (imm : BitVec 13)
  | fst (fd : BitVec 5) (ra : BitVec 6) (imm : BitVec 13)
  | fldr (fd : BitVec 5) (ra : BitVec 6) (k : BitVec 8)
  | fstr (fd : BitVec 5) (ra : BitVec 6) (k : BitVec 8)
  | setprecKeep (rd : BitVec 6) (ra : BitVec 6) (k : BitVec 8)
  | setprecClear (rd : BitVec 6) (ra : BitVec 6) (k : BitVec 8)
  | getprec (rd : BitVec 6)
  | hld (hd : BitVec 4) (rs : BitVec 6) (la : BitVec 4)
  | hst (hd : BitVec 4) (rs : BitVec 6) (la : BitVec 4)
  | hadv (hd : BitVec 4) (ha : BitVec 4) (rs : BitVec 6) (la : BitVec 4)
  | hdim (hd : BitVec 4) (ha : BitVec 4) (rs : BitVec 6) (la : BitVec 4)
  | hset (hd : BitVec 4) (ra : BitVec 6) (k : BitVec 8)
  | hget (rd : BitVec 6) (ha : BitVec 4) (k : BitVec 8)
  | vadd16 (hd : BitVec 4) (ha : BitVec 4)
  | vaddR (hd : BitVec 4) (ha : BitVec 4)
  | vaddB (hd : BitVec 4) (ha : BitVec 4)
  | vsub16 (hd : BitVec 4) (ha : BitVec 4)
  | vsubR (hd : BitVec 4) (ha : BitVec 4)
  | vsubB (hd : BitVec 4) (ha : BitVec 4)
  | vmul16 (hd : BitVec 4) (ha : BitVec 4)
  | vmulR (hd : BitVec 4) (ha : BitVec 4)
  | vmulB (hd : BitVec 4) (ha : BitVec 4)
  | vfma16 (hd : BitVec 4) (ha : BitVec 4)
  | vmin16 (hd : BitVec 4) (ha : BitVec 4)
  | vminR (hd : BitVec 4) (ha : BitVec 4)
  | vminB (hd : BitVec 4) (ha : BitVec 4)
  | vmax16 (hd : BitVec 4) (ha : BitVec 4)
  | vmaxR (hd : BitVec 4) (ha : BitVec 4)
  | vmaxB (hd : BitVec 4) (ha : BitVec 4)
  | vabs16 (hd : BitVec 4) (ha : BitVec 4)
  | vneg16 (hd : BitVec 4) (ha : BitVec 4)
  | vcvt16 (hd : BitVec 4) (ha : BitVec 4)
  | vscale16 (hd : BitVec 4) (ha : BitVec 4)
  | vscaleR (hd : BitVec 4) (ha : BitVec 4)
  | vscaleB (hd : BitVec 4) (ha : BitVec 4)
  | vexp16 (hd : BitVec 4) (ha : BitVec 4)
  | vrcp16 (hd : BitVec 4) (ha : BitVec 4)
  | vcopy16 (hd : BitVec 4) (ha : BitVec 4)
  | vbcast16 (hd : BitVec 4) (ha : BitVec 4)
  | vredSum16 (hd : BitVec 4) (ha : BitVec 4)
  | vredSumD1 (hd : BitVec 4) (ha : BitVec 4)
  | vredSumD2 (hd : BitVec 4) (ha : BitVec 4)
  | vredMax16 (hd : BitVec 4) (ha : BitVec 4)
  | vredMaxD1 (hd : BitVec 4) (ha : BitVec 4)
  | vredMaxD2 (hd : BitVec 4) (ha : BitVec 4)
  | vadd (hd : BitVec 4) (ha : BitVec 4) (hb : BitVec 4) (la : BitVec 4)
  | vsub (hd : BitVec 4) (ha : BitVec 4) (hb : BitVec 4) (la : BitVec 4)
  | vmul (hd : BitVec 4) (ha : BitVec 4) (hb : BitVec 4) (la : BitVec 4)
  | vfma (hd : BitVec 4) (ha : BitVec 4) (hb : BitVec 4) (la : BitVec 4)
  | vmin (hd : BitVec 4) (ha : BitVec 4) (hb : BitVec 4) (la : BitVec 4)
  | vmax (hd : BitVec 4) (ha : BitVec 4) (hb : BitVec 4) (la : BitVec 4)
  | vabs (hd : BitVec 4) (ha : BitVec 4) (la : BitVec 4)
  | vneg (hd : BitVec 4) (ha : BitVec 4) (la : BitVec 4)
  | vcvt (hd : BitVec 4) (ha : BitVec 4) (la : BitVec 4)
  | vscale (hd : BitVec 4) (ha : BitVec 4) (hb : BitVec 4) (la : BitVec 4)
  | vexp (hd : BitVec 4) (ha : BitVec 4) (la : BitVec 4)
  | vrcp (hd : BitVec 4) (ha : BitVec 4) (la : BitVec 4)
  | vcopy (hd : BitVec 4) (ha : BitVec 4) (la : BitVec 4)
  | vbcast (hd : BitVec 4) (ha : BitVec 4) (la : BitVec 4)
  | vredSum (hd : BitVec 4) (ha : BitVec 4) (rs : BitVec 6) (la : BitVec 4)
  | vredMax (hd : BitVec 4) (ha : BitVec 4) (rs : BitVec 6) (la : BitVec 4)
  | vand (hd : BitVec 4) (ha : BitVec 4) (hb : BitVec 4) (la : BitVec 4)
  | vor (hd : BitVec 4) (ha : BitVec 4) (hb : BitVec 4) (la : BitVec 4)
  | vxor (hd : BitVec 4) (ha : BitVec 4) (hb : BitVec 4) (la : BitVec 4)
  | vshl (hd : BitVec 4) (ha : BitVec 4) (hb : BitVec 4) (la : BitVec 4)
  | vshr (hd : BitVec 4) (ha : BitVec 4) (hb : BitVec 4) (la : BitVec 4)
  | vrsqrt (hd : BitVec 4) (ha : BitVec 4) (la : BitVec 4)
  | vtanh (hd : BitVec 4) (ha : BitVec 4) (la : BitVec 4)
  | vcmp (hd : BitVec 4) (ha : BitVec 4) (hb : BitVec 4) (rs : BitVec 6) (la : BitVec 4)
  | vsel (hd : BitVec 4) (ha : BitVec 4) (hb : BitVec 4) (rs : BitVec 6) (la : BitVec 4)
  | vcompress (hd : BitVec 4) (ha : BitVec 4) (rs : BitVec 6) (la : BitVec 4)
  | vexpand (hd : BitVec 4) (ha : BitVec 4) (rs : BitVec 6) (la : BitVec 4)
  | vsp24 (hd : BitVec 4) (ha : BitVec 4) (hb : BitVec 4) (la : BitVec 4)
  | vsmx (hd : BitVec 4) (ha : BitVec 4) (la : BitVec 4)
  | vtopk (hd : BitVec 4) (ha : BitVec 4) (rs : BitVec 6) (la : BitVec 4)
  | vgather (hd : BitVec 4) (ha : BitVec 4) (hb : BitVec 4) (rs : BitVec 6) (la : BitVec 4)
  | vscatter (hd : BitVec 4) (ha : BitVec 4) (hb : BitVec 4) (rs : BitVec 6) (la : BitVec 4)
  | viota (hd : BitVec 4) (rs : BitVec 6) (la : BitVec 4)
  | vcvtKeep (hd : BitVec 4) (ha : BitVec 4) (rs : BitVec 6) (la : BitVec 4)
  | mldW (ha : BitVec 4) (la : BitVec 4)
  | mma (ha : BitVec 4) (rs : BitVec 6) (la : BitVec 4)
  | mst (hd : BitVec 4) (rs : BitVec 6) (la : BitVec 4)
  | mstat (rs : BitVec 6) (la : BitVec 4)
  | mldR (ha : BitVec 4) (rs : BitVec 6) (la : BitVec 4)
  | ldB (rd : BitVec 6) (ra : BitVec 6) (rb : BitVec 6) (la : BitVec 4)
  | ldBu (rd : BitVec 6) (ra : BitVec 6) (rb : BitVec 6) (la : BitVec 4)
  | ldH (rd : BitVec 6) (ra : BitVec 6) (rb : BitVec 6) (la : BitVec 4)
  | ldHu (rd : BitVec 6) (ra : BitVec 6) (rb : BitVec 6) (la : BitVec 4)
  | ldW (rd : BitVec 6) (ra : BitVec 6) (rb : BitVec 6) (la : BitVec 4)
  | ldWu (rd : BitVec 6) (ra : BitVec 6) (rb : BitVec 6) (la : BitVec 4)
  | ldD (rd : BitVec 6) (ra : BitVec 6) (rb : BitVec 6) (la : BitVec 4)
  | ldNt (rd : BitVec 6) (ra : BitVec 6) (rb : BitVec 6) (la : BitVec 4)
  | stB (rd : BitVec 6) (ra : BitVec 6) (rb : BitVec 6)
  | stH (rd : BitVec 6) (ra : BitVec 6) (rb : BitVec 6)
  | stW (rd : BitVec 6) (ra : BitVec 6) (rb : BitVec 6)
  | stD (rd : BitVec 6) (ra : BitVec 6) (rb : BitVec 6)
  | stNt (rd : BitVec 6) (ra : BitVec 6) (rb : BitVec 6)
  | pf (ra : BitVec 6) (rb : BitVec 6)
  | amoAdd (rd : BitVec 6) (ra : BitVec 6) (rb : BitVec 6) (la : BitVec 4)
  | amoAnd (rd : BitVec 6) (ra : BitVec 6) (rb : BitVec 6) (la : BitVec 4)
  | amoOr (rd : BitVec 6) (ra : BitVec 6) (rb : BitVec 6) (la : BitVec 4)
  | amoXor (rd : BitVec 6) (ra : BitVec 6) (rb : BitVec 6) (la : BitVec 4)
  | amoMin (rd : BitVec 6) (ra : BitVec 6) (rb : BitVec 6) (la : BitVec 4)
  | amoMax (rd : BitVec 6) (ra : BitVec 6) (rb : BitVec 6) (la : BitVec 4)
  | amoMinu (rd : BitVec 6) (ra : BitVec 6) (rb : BitVec 6) (la : BitVec 4)
  | amoMaxu (rd : BitVec 6) (ra : BitVec 6) (rb : BitVec 6) (la : BitVec 4)
  | amoSwap (rd : BitVec 6) (ra : BitVec 6) (rb : BitVec 6) (la : BitVec 4)
  | amoCas (rd : BitVec 6) (ra : BitVec 6) (rb : BitVec 6) (la : BitVec 4)
  | amoFadd (rd : BitVec 6) (ra : BitVec 6) (rb : BitVec 6) (la : BitVec 4)
  | copy (hd : BitVec 4) (ha : BitVec 4) (rs : BitVec 6) (la : BitVec 4)
  | copyH (hd : BitVec 4) (ha : BitVec 4) (rs : BitVec 6) (la : BitVec 4)
  | copyR (hd : BitVec 4) (ha : BitVec 4) (rs : BitVec 6) (la : BitVec 4)
  | acq (ra : BitVec 6) (k : BitVec 8)
  | rel (ra : BitVec 6) (k : BitVec 8)
  | send (rd : BitVec 6) (ra : BitVec 6) (rb : BitVec 6)
  | sendHi (rd : BitVec 6) (ra : BitVec 6) (rb : BitVec 6)
  | sendMc (rd : BitVec 6) (ra : BitVec 6) (rb : BitVec 6)
  | sendComb (rd : BitVec 6) (ra : BitVec 6) (rb : BitVec 6)
  | sendHold (rd : BitVec 6) (ra : BitVec 6) (rb : BitVec 6)
  | dep (rd : BitVec 6) (ra : BitVec 6) (rb : BitVec 6)
  | reply (rd : BitVec 6) (ra : BitVec 6) (rb : BitVec 6)
  | msgld (rd : BitVec 6) (ra : BitVec 6)
  | commit (rd : BitVec 6)
  | abort (rd : BitVec 6)
  | uewBuild (rd : BitVec 6) (ra : BitVec 6) (rb : BitVec 6)
  | uewPost (rd : BitVec 6) (ra : BitVec 6)
  | cntInc (ra : BitVec 6) (rb : BitVec 6)
  | cntRd (rd : BitVec 6) (ra : BitVec 6)
  | cntWait (rd : BitVec 6) (ra : BitVec 6) (rb : BitVec 6)
  | launch (rd : BitVec 6) (ra : BitVec 6) (rb : BitVec 6)
  | cancel (rd : BitVec 6) (ra : BitVec 6)
  | barSet (ra : BitVec 6)
  | barArrive (rd : BitVec 6)
  | barWait (ra : BitVec 6)
  | wtagAny (rd : BitVec 6) (ra : BitVec 6)
  | wtagAll (rd : BitVec 6) (ra : BitVec 6)
  | ffr (rd : BitVec 6) (ra : BitVec 6)
  | tagClr (ra : BitVec 6)
  | iclk (rd : BitVec 6) (ra : BitVec 6) (rb : BitVec 6)
  | perfRd (rd : BitVec 6) (ra : BitVec 6)
  | iset (ra : BitVec 6) (rb : BitVec 6)
  | iget (rd : BitVec 6) (ra : BitVec 6)
  | isave (ra : BitVec 6)
  | irest (ra : BitVec 6)
  | istep (rd : BitVec 6) (ra : BitVec 6) (rb : BitVec 6)
  | isnap (ra : BitVec 6) (rb : BitVec 6)
  | ibind (ra : BitVec 6) (rb : BitVec 6)
  | iin (ra : BitVec 6) (rb : BitVec 6)
  | mfc (rd : BitVec 6) (csr : BitVec 12)
  | mtc (ra : BitVec 6) (csr : BitVec 12)
  | bindh (rd : BitVec 6) (ra : BitVec 6) (k : BitVec 8)
  | unbindh (rd : BitVec 6) (k : BitVec 8)
  | bind (rd : BitVec 6) (ra : BitVec 6)
  | unbind (rd : BitVec 6) (ra : BitVec 6)
  | publish (rd : BitVec 6)
  | publishDefine (rd : BitVec 6) (ra : BitVec 6)
  | publishRemove (rd : BitVec 6)
  | ipatch (rd : BitVec 6) (ra : BitVec 6) (k : BitVec 8)
  | tlbinv (ra : BitVec 6) (k : BitVec 8)
  | tlbpin (rd : BitVec 6) (ra : BitVec 6) (k : BitVec 8)
  | cmapRd (rd : BitVec 6) (ra : BitVec 6) (k : BitVec 8)
  | laneExecute
  | laneComplete
  | mswap
  | mzero
  | matrixEntryExecute
  | loadDataArrival
  | ntLineWriteOut
  | clusterAtomic
  | copyDone
  | fence
  | drain
  | lockRequest
  | lockRelease
  | lockRetry
  | outboxInject
  | dispatchMessageArrival
  | tipRefill
  | dispatch
  | deposit
  | channelDeposit
  | benchDeposit
  | atomicDeposit
  | counterMessage
  | copyCompletion
  | statusCompletion
  | combiningMessage
  | combineRouterArrival
  | combineHoldExpiry
  | matrixInvoke
  | matrixInvokeRun
  | matrixInvokeReply
  | ueSend
  | ueWrite
  | ueRead
  | ueRecv
  | ueDataPacket
  | ueAcknowledgement
  | ueRetransmitTimeout
  | masterLaunchRequest
  | masterCancelRequest
  | cancelFilterInstall
  | barrierRowToken
  | barrierColumnToken
  | barrierRelease
  | stepClockTick
  | triggerQueueTransfer
  | gangLead
  | gangJoin
  | gangLeave
  | preqWrite
  | restoreStart
  | jobswSave
  | jobswRestore
  | ctxcmdFree
  | ctxcmdFreeFaulted
  | trap
  | eret
  | brk
  | nopW
  | nopShort
  | endShort
  | endW
  | rep
  | safe
  | forcedSave
  | saveComplete
  | supervisorActivation
  | publishExchange
  | pageWalk
  | bindingChangeApply
  | bindingTableFetch
  | regionBindingApply
  | derrickDispatch
  | chunkDeal
  | constantFill
  | launchPromotion
  | deltaFlush
  | sweepStart
  | sweepAcknowledge
  | sweepComplete
  | completionEvent
  | dieFence
  | masterElection
  | coreMapReplace
  | bankFailureMark
  | scrubStripe
  | registerSoftError
  | flitReceive
  | retrain
  | linkDown
  | lostNodeFlit
  | msg
  | ldreq
  | streq
  | amoreq
  | lockreq
  | ldrsp
  | stxlt
  | stdone
  | amorsp
  | lockrsp
  | err
  | requestTimeout
  | writei
  | writed
  | read
  | mailboxLaunch
  | mailboxCancel
  | qready
  | qmeas
  | qcnt
  | asidset
  | importEntry
  | ueset
  | mailboxNop
  | completionRecord
  | hostRegisterWrite
  | getVersion
  | getCapabilities
  | negotiateAlgorithms
  | getDigests
  | getCertificate
  | challenge
  | getMeasurements
  | powerOn
  | functionReady
  | deviceReset
  | coreReset
  | presenceLoss
  | thermalStepDown
  | thermalTrip
  | illegalInstruction
  | matrixFetchReply
  | homeCacheWrite
  | commandWindowWrite
  | launchIdRelease
  | linkResume
  | managementTableWrite
  | counterClear
  deriving DecidableEq, Repr

end Sys2Proof
end

