-- ==== Sys2Proof/WellFormed.lean ====
section
/-! DEFINITION. Which encoded instructions are legal (R97, R107 and the limits each instruction's rule gives its
fields). A field that the formats fix is already gone at decode (Decode.lean). -/

namespace Sys2Proof

/-- How an instruction uses a scalar register field (R97). -/
inductive ScalarUse where
  | source    -- read
  | dest      -- written; s61 pushes
  | load      -- written by a load or an atomic: s60 reserves, s61 pushes
  | result    -- written by an instruction whose rule excludes s60 and s61
  | both      -- read and written
  | cas       -- the compared value and result of `amo.cas` (R241)
  | data      -- the data field of a store (R234)
  | payload   -- the first payload register of a send, legal or not as RN has it (R348)
  deriving DecidableEq, Repr

/-- R97: s60 is a destination only of loads and atomics, and s61 is never read. -/
def ScalarUse.legal (u : ScalarUse) (r : BitVec 6) : Bool :=
  match u with
  | .source => r != 61#6
  | .dest => r != 60#6
  | .load => true
  | .result => r != 60#6 && r != 61#6
  | .both => r != 60#6 && r != 61#6
  | .cas => r != 61#6
  | .data => true
  | .payload => true

/-- The scalar register fields of an instruction, with their uses. -/
def Instr.scalarFields (i : Instr) : List (ScalarUse × BitVec 6) :=
  match i with
  | .add rd ra rb => [(.dest, rd), (.source, ra), (.source, rb)]
  | .sub rd ra rb => [(.dest, rd), (.source, ra), (.source, rb)]
  | .mul rd ra rb => [(.dest, rd), (.source, ra), (.source, rb)]
  | .mulh rd ra rb => [(.dest, rd), (.source, ra), (.source, rb)]
  | .mulhu rd ra rb => [(.dest, rd), (.source, ra), (.source, rb)]
  | .div rd ra rb => [(.dest, rd), (.source, ra), (.source, rb)]
  | .divu rd ra rb => [(.dest, rd), (.source, ra), (.source, rb)]
  | .rem rd ra rb => [(.dest, rd), (.source, ra), (.source, rb)]
  | .remu rd ra rb => [(.dest, rd), (.source, ra), (.source, rb)]
  | .and rd ra rb => [(.dest, rd), (.source, ra), (.source, rb)]
  | .or rd ra rb => [(.dest, rd), (.source, ra), (.source, rb)]
  | .xor rd ra rb => [(.dest, rd), (.source, ra), (.source, rb)]
  | .andn rd ra rb => [(.dest, rd), (.source, ra), (.source, rb)]
  | .shl rd ra rb => [(.dest, rd), (.source, ra), (.source, rb)]
  | .shr rd ra rb => [(.dest, rd), (.source, ra), (.source, rb)]
  | .sar rd ra rb => [(.dest, rd), (.source, ra), (.source, rb)]
  | .rol rd ra rb => [(.dest, rd), (.source, ra), (.source, rb)]
  | .min rd ra rb => [(.dest, rd), (.source, ra), (.source, rb)]
  | .max rd ra rb => [(.dest, rd), (.source, ra), (.source, rb)]
  | .minu rd ra rb => [(.dest, rd), (.source, ra), (.source, rb)]
  | .maxu rd ra rb => [(.dest, rd), (.source, ra), (.source, rb)]
  | .slt rd ra rb => [(.dest, rd), (.source, ra), (.source, rb)]
  | .sltu rd ra rb => [(.dest, rd), (.source, ra), (.source, rb)]
  | .seq rd ra rb => [(.dest, rd), (.source, ra), (.source, rb)]
  | .sel rd ra rb => [(.both, rd), (.source, ra), (.source, rb)]
  | .clz rd ra => [(.dest, rd), (.source, ra)]
  | .ctz rd ra => [(.dest, rd), (.source, ra)]
  | .popc rd ra => [(.dest, rd), (.source, ra)]
  | .bext rd ra rb => [(.dest, rd), (.source, ra), (.source, rb)]
  | .bins rd ra rb => [(.both, rd), (.source, ra), (.source, rb)]
  | .shli rd ra _ => [(.dest, rd), (.source, ra)]
  | .shri rd ra _ => [(.dest, rd), (.source, ra)]
  | .sari rd ra _ => [(.dest, rd), (.source, ra)]
  | .lea rd ra _ => [(.dest, rd), (.source, ra)]
  | .addi rd ra _ => [(.dest, rd), (.source, ra)]
  | .andi rd ra _ => [(.dest, rd), (.source, ra)]
  | .ori rd ra _ => [(.dest, rd), (.source, ra)]
  | .xori rd ra _ => [(.dest, rd), (.source, ra)]
  | .slti rd ra _ => [(.dest, rd), (.source, ra)]
  | .lui rd _ => [(.dest, rd)]
  | .bEq ra _ => [(.source, ra)]
  | .bNe ra _ => [(.source, ra)]
  | .bLt ra _ => [(.source, ra)]
  | .bGe ra _ => [(.source, ra)]
  | .bLtu ra _ => [(.source, ra)]
  | .bGeu ra _ => [(.source, ra)]
  | .j _ => []
  | .jal _ => []
  | .jalr rd ra _ => [(.dest, rd), (.source, ra)]
  | .ldk rd _ => [(.dest, rd)]
  | .addk rd ra _ => [(.dest, rd), (.source, ra)]
  | .fadd _ _ _ => []
  | .fsub _ _ _ => []
  | .fmul _ _ _ => []
  | .fdiv _ _ _ => []
  | .ffma _ _ _ => []
  | .fnma _ _ _ => []
  | .fmin _ _ _ => []
  | .fmax _ _ _ => []
  | .fsqrt _ _ => []
  | .fneg _ _ => []
  | .fabs _ _ => []
  | .fclass rd _ => [(.dest, rd)]
  | .fround _ _ => []
  | .fmvX rd _ _ => [(.dest, rd)]
  | .fmvF _ ra _ => [(.source, ra)]
  | .fcmpEq rd _ _ => [(.dest, rd)]
  | .fcmpLt rd _ _ => [(.dest, rd)]
  | .fcmpLe rd _ _ => [(.dest, rd)]
  | .fcmpUn rd _ _ => [(.dest, rd)]
  | .fcvtFS _ ra => [(.source, ra)]
  | .fcvtFU _ ra => [(.source, ra)]
  | .fcvtSF rd _ => [(.dest, rd)]
  | .fcvtUF rd _ => [(.dest, rd)]
  | .fcvtFH _ ra => [(.source, ra)]
  | .fcvtHF rd _ => [(.dest, rd)]
  | .fcvtFBf _ ra => [(.source, ra)]
  | .fcvtBfF rd _ => [(.dest, rd)]
  | .fcvtFW _ ra => [(.source, ra)]
  | .fcvtWF rd _ => [(.dest, rd)]
  | .fcvtFD _ ra => [(.source, ra)]
  | .fcvtDF rd _ => [(.dest, rd)]
  | .fld _ ra _ => [(.source, ra)]
  | .fst _ ra _ => [(.source, ra)]
  | .fldr _ ra _ => [(.source, ra)]
  | .fstr _ ra _ => [(.source, ra)]
  | .setprecKeep rd ra _ => [(.dest, rd), (.source, ra)]
  | .setprecClear rd ra _ => [(.dest, rd), (.source, ra)]
  | .getprec rd => [(.dest, rd)]
  | .hld _ rs _ => [(.source, rs)]
  | .hst _ rs _ => [(.source, rs)]
  | .hadv _ _ rs _ => [(.source, rs)]
  | .hdim _ _ rs _ => [(.source, rs)]
  | .hset _ ra _ => [(.source, ra)]
  | .hget rd _ _ => [(.dest, rd)]
  | .vadd16 _ _ => []
  | .vaddR _ _ => []
  | .vaddB _ _ => []
  | .vsub16 _ _ => []
  | .vsubR _ _ => []
  | .vsubB _ _ => []
  | .vmul16 _ _ => []
  | .vmulR _ _ => []
  | .vmulB _ _ => []
  | .vfma16 _ _ => []
  | .vmin16 _ _ => []
  | .vminR _ _ => []
  | .vminB _ _ => []
  | .vmax16 _ _ => []
  | .vmaxR _ _ => []
  | .vmaxB _ _ => []
  | .vabs16 _ _ => []
  | .vneg16 _ _ => []
  | .vcvt16 _ _ => []
  | .vscale16 _ _ => []
  | .vscaleR _ _ => []
  | .vscaleB _ _ => []
  | .vexp16 _ _ => []
  | .vrcp16 _ _ => []
  | .vcopy16 _ _ => []
  | .vbcast16 _ _ => []
  | .vredSum16 _ _ => []
  | .vredSumD1 _ _ => []
  | .vredSumD2 _ _ => []
  | .vredMax16 _ _ => []
  | .vredMaxD1 _ _ => []
  | .vredMaxD2 _ _ => []
  | .vadd _ _ _ _ => []
  | .vsub _ _ _ _ => []
  | .vmul _ _ _ _ => []
  | .vfma _ _ _ _ => []
  | .vmin _ _ _ _ => []
  | .vmax _ _ _ _ => []
  | .vabs _ _ _ => []
  | .vneg _ _ _ => []
  | .vcvt _ _ _ => []
  | .vscale _ _ _ _ => []
  | .vexp _ _ _ => []
  | .vrcp _ _ _ => []
  | .vcopy _ _ _ => []
  | .vbcast _ _ _ => []
  | .vredSum _ _ rs _ => [(.source, rs)]
  | .vredMax _ _ rs _ => [(.source, rs)]
  | .vand _ _ _ _ => []
  | .vor _ _ _ _ => []
  | .vxor _ _ _ _ => []
  | .vshl _ _ _ _ => []
  | .vshr _ _ _ _ => []
  | .vrsqrt _ _ _ => []
  | .vtanh _ _ _ => []
  | .vcmp _ _ _ rs _ => [(.source, rs)]
  | .vsel _ _ _ rs _ => [(.source, rs)]
  | .vcompress _ _ rs _ => [(.both, rs)]
  | .vexpand _ _ rs _ => [(.both, rs)]
  | .vsp24 _ _ _ _ => []
  | .vsmx _ _ _ => []
  | .vtopk _ _ rs _ => [(.source, rs)]
  | .vgather _ _ _ rs _ => [(.dest, rs)]
  | .vscatter _ _ _ rs _ => [(.dest, rs)]
  | .viota _ rs _ => [(.source, rs)]
  | .vcvtKeep _ _ rs _ => [(.source, rs)]
  | .laneExecute => []
  | .laneComplete => []
  | .mldW _ _ => []
  | .mswap => []
  | .mma _ rs _ => [(.source, rs)]
  | .mst _ rs _ => [(.source, rs)]
  | .mzero => []
  | .mstat rs _ => [(.result, rs)]
  | .mldR _ rs _ => [(.source, rs)]
  | .matrixEntryExecute => []
  | .ldB rd ra rb _ => [(.load, rd), (.source, ra), (.source, rb)]
  | .ldBu rd ra rb _ => [(.load, rd), (.source, ra), (.source, rb)]
  | .ldH rd ra rb _ => [(.load, rd), (.source, ra), (.source, rb)]
  | .ldHu rd ra rb _ => [(.load, rd), (.source, ra), (.source, rb)]
  | .ldW rd ra rb _ => [(.load, rd), (.source, ra), (.source, rb)]
  | .ldWu rd ra rb _ => [(.load, rd), (.source, ra), (.source, rb)]
  | .ldD rd ra rb _ => [(.load, rd), (.source, ra), (.source, rb)]
  | .ldNt rd ra rb _ => [(.load, rd), (.source, ra), (.source, rb)]
  | .loadDataArrival => []
  | .stB rd ra rb => [(.data, rd), (.source, ra), (.source, rb)]
  | .stH rd ra rb => [(.data, rd), (.source, ra), (.source, rb)]
  | .stW rd ra rb => [(.data, rd), (.source, ra), (.source, rb)]
  | .stD rd ra rb => [(.data, rd), (.source, ra), (.source, rb)]
  | .stNt rd ra rb => [(.data, rd), (.source, ra), (.source, rb)]
  | .ntLineWriteOut => []
  | .pf ra rb => [(.source, ra), (.source, rb)]
  | .amoAdd rd ra rb _ => [(.load, rd), (.source, ra), (.source, rb)]
  | .amoAnd rd ra rb _ => [(.load, rd), (.source, ra), (.source, rb)]
  | .amoOr rd ra rb _ => [(.load, rd), (.source, ra), (.source, rb)]
  | .amoXor rd ra rb _ => [(.load, rd), (.source, ra), (.source, rb)]
  | .amoMin rd ra rb _ => [(.load, rd), (.source, ra), (.source, rb)]
  | .amoMax rd ra rb _ => [(.load, rd), (.source, ra), (.source, rb)]
  | .amoMinu rd ra rb _ => [(.load, rd), (.source, ra), (.source, rb)]
  | .amoMaxu rd ra rb _ => [(.load, rd), (.source, ra), (.source, rb)]
  | .amoSwap rd ra rb _ => [(.load, rd), (.source, ra), (.source, rb)]
  | .amoCas rd ra rb _ => [(.cas, rd), (.source, ra), (.source, rb)]
  | .amoFadd rd ra rb _ => [(.load, rd), (.source, ra), (.source, rb)]
  | .clusterAtomic => []
  | .copy _ _ rs _ => [(.source, rs)]
  | .copyH _ _ rs _ => [(.source, rs)]
  | .copyR _ _ rs _ => [(.source, rs)]
  | .copyDone => []
  | .acq ra _ => [(.source, ra)]
  | .rel ra _ => [(.source, ra)]
  | .fence => []
  | .drain => []
  | .lockRequest => []
  | .lockRelease => []
  | .lockRetry => []
  | .send rd ra rb => [(.source, rd), (.source, ra), (.payload, rb)]
  | .sendHi rd ra rb => [(.source, rd), (.source, ra), (.payload, rb)]
  | .sendMc rd ra rb => [(.source, rd), (.source, ra), (.payload, rb)]
  | .sendComb rd ra rb => [(.source, rd), (.source, ra), (.payload, rb)]
  | .sendHold rd ra rb => [(.source, rd), (.source, ra), (.payload, rb)]
  | .dep rd ra rb => [(.source, rd), (.source, ra), (.payload, rb)]
  | .reply rd ra rb => [(.source, rd), (.source, ra), (.payload, rb)]
  | .msgld rd ra => [(.dest, rd), (.source, ra)]
  | .commit rd => [(.result, rd)]
  | .abort rd => [(.result, rd)]
  | .outboxInject => []
  | .dispatchMessageArrival => []
  | .tipRefill => []
  | .dispatch => []
  | .deposit => []
  | .channelDeposit => []
  | .benchDeposit => []
  | .atomicDeposit => []
  | .counterMessage => []
  | .copyCompletion => []
  | .statusCompletion => []
  | .combiningMessage => []
  | .combineRouterArrival => []
  | .combineHoldExpiry => []
  | .matrixInvoke => []
  | .matrixInvokeRun => []
  | .matrixInvokeReply => []
  | .uewBuild rd ra rb => [(.source, rd), (.source, ra), (.source, rb)]
  | .uewPost rd ra => [(.dest, rd), (.source, ra)]
  | .ueSend => []
  | .ueWrite => []
  | .ueRead => []
  | .ueRecv => []
  | .ueDataPacket => []
  | .ueAcknowledgement => []
  | .ueRetransmitTimeout => []
  | .cntInc ra rb => [(.source, ra), (.source, rb)]
  | .cntRd rd ra => [(.result, rd), (.source, ra)]
  | .cntWait rd ra rb => [(.result, rd), (.source, ra), (.source, rb)]
  | .launch rd ra rb => [(.result, rd), (.source, ra), (.source, rb)]
  | .cancel rd ra => [(.result, rd), (.source, ra)]
  | .masterLaunchRequest => []
  | .masterCancelRequest => []
  | .cancelFilterInstall => []
  | .barSet ra => [(.source, ra)]
  | .barArrive rd => [(.dest, rd)]
  | .barWait ra => [(.source, ra)]
  | .wtagAny rd ra => [(.dest, rd), (.source, ra)]
  | .wtagAll rd ra => [(.dest, rd), (.source, ra)]
  | .ffr rd ra => [(.dest, rd), (.source, ra)]
  | .tagClr ra => [(.source, ra)]
  | .barrierRowToken => []
  | .barrierColumnToken => []
  | .barrierRelease => []
  | .iclk rd ra rb => [(.dest, rd), (.source, ra), (.source, rb)]
  | .perfRd rd ra => [(.dest, rd), (.source, ra)]
  | .iset ra rb => [(.source, ra), (.source, rb)]
  | .iget rd ra => [(.dest, rd), (.source, ra)]
  | .isave ra => [(.source, ra)]
  | .irest ra => [(.source, ra)]
  | .istep rd ra rb => [(.dest, rd), (.source, ra), (.source, rb)]
  | .isnap ra rb => [(.source, ra), (.source, rb)]
  | .ibind ra rb => [(.source, ra), (.source, rb)]
  | .iin ra rb => [(.source, ra), (.source, rb)]
  | .stepClockTick => []
  | .triggerQueueTransfer => []
  | .gangLead => []
  | .gangJoin => []
  | .gangLeave => []
  | .mfc rd _ => [(.dest, rd)]
  | .mtc ra _ => [(.source, ra)]
  | .preqWrite => []
  | .restoreStart => []
  | .jobswSave => []
  | .jobswRestore => []
  | .ctxcmdFree => []
  | .ctxcmdFreeFaulted => []
  | .trap => []
  | .eret => []
  | .brk => []
  | .nopW => []
  | .nopShort => []
  | .endShort => []
  | .endW => []
  | .rep => []
  | .safe => []
  | .forcedSave => []
  | .saveComplete => []
  | .supervisorActivation => []
  | .bindh rd ra _ => [(.source, rd), (.source, ra)]
  | .unbindh rd _ => [(.source, rd)]
  | .bind rd ra => [(.result, rd), (.source, ra)]
  | .unbind rd ra => [(.result, rd), (.source, ra)]
  | .publish rd => [(.source, rd)]
  | .publishDefine rd ra => [(.source, rd), (.source, ra)]
  | .publishRemove rd => [(.source, rd)]
  | .publishExchange => []
  | .ipatch rd ra _ => [(.result, rd), (.source, ra)]
  | .tlbinv ra _ => [(.source, ra)]
  | .tlbpin rd ra _ => [(.result, rd), (.source, ra)]
  | .cmapRd rd ra _ => [(.result, rd), (.source, ra)]
  | .pageWalk => []
  | .bindingChangeApply => []
  | .bindingTableFetch => []
  | .regionBindingApply => []
  | .derrickDispatch => []
  | .chunkDeal => []
  | .constantFill => []
  | .launchPromotion => []
  | .deltaFlush => []
  | .sweepStart => []
  | .sweepAcknowledge => []
  | .sweepComplete => []
  | .completionEvent => []
  | .dieFence => []
  | .masterElection => []
  | .coreMapReplace => []
  | .bankFailureMark => []
  | .scrubStripe => []
  | .registerSoftError => []
  | .flitReceive => []
  | .retrain => []
  | .linkDown => []
  | .lostNodeFlit => []
  | .msg => []
  | .ldreq => []
  | .streq => []
  | .amoreq => []
  | .lockreq => []
  | .ldrsp => []
  | .stxlt => []
  | .stdone => []
  | .amorsp => []
  | .lockrsp => []
  | .err => []
  | .requestTimeout => []
  | .writei => []
  | .writed => []
  | .read => []
  | .mailboxLaunch => []
  | .mailboxCancel => []
  | .qready => []
  | .qmeas => []
  | .qcnt => []
  | .asidset => []
  | .importEntry => []
  | .ueset => []
  | .mailboxNop => []
  | .completionRecord => []
  | .hostRegisterWrite => []
  | .getVersion => []
  | .getCapabilities => []
  | .negotiateAlgorithms => []
  | .getDigests => []
  | .getCertificate => []
  | .challenge => []
  | .getMeasurements => []
  | .powerOn => []
  | .functionReady => []
  | .deviceReset => []
  | .coreReset => []
  | .presenceLoss => []
  | .thermalStepDown => []
  | .thermalTrip => []
  | .illegalInstruction => []
  | .matrixFetchReply => []
  | .homeCacheWrite => []
  | .commandWindowWrite => []
  | .launchIdRelease => []
  | .linkResume => []
  | .managementTableWrite => []
  | .counterClear => []

/-- Why an encoding is illegal, as far as its fields say (R107). -/
inductive IllForm where
  | scalarField     -- s60 or s61 where R97 forbids it
  | zeroHalfword    -- the halfword 0x0000 (R88)
  | shiftCount      -- above 63 (R107, R126)
  | leaSelector     -- neither local nor a peer (R127)
  | wordIndex       -- above 1 in `fmv.x`, `fmv.f` (R155)
  | lengthCode      -- `setprec`, `fldr`, `fstr` (R149, R158)
  | handleSelector  -- `hset`, `hget` (R167)
  | scopeCode       -- above 10 (R106)
  | csrNumber       -- not assigned (R105, R169, R177)
  | csrForm         -- `mfc` to s0 (R105)
  | modeField       -- beyond the modes of R385, or a register in a mode that has none
  deriving DecidableEq, Repr

/-- The CSR numbers that Registers III assigns (R169, R177). -/
def csrAssigned (c : BitVec 12) : Bool :=
  let n := c.toNat
  (0x001 ≤ n && n ≤ 0x00B) || (0x100 ≤ n && n ≤ 0x10F) || (0x800 ≤ n && n ≤ 0x87F) ||
  (0x881 ≤ n && n ≤ 0x88B) || n == 0x900

/-- The selectors of `hset` and `hget` (R167). -/
def handleSelector (k : BitVec 8) : Bool :=
  let n := k.toNat
  n ≤ 5 || (8 ≤ n && n ≤ 19)

/-- The limits that single instructions put on their fields; `none` where a field is within its limits. -/
def Instr.fieldProblem (i : Instr) : Option IllForm :=
  match i with
  | .vadd16 hd ha => if hd = 0 && ha = 0 then some .zeroHalfword else none
  | .shli _ _ k => if k.toNat ≤ 63 then none else some .shiftCount
  | .shri _ _ k => if k.toNat ≤ 63 then none else some .shiftCount
  | .sari _ _ k => if k.toNat ≤ 63 then none else some .shiftCount
  | .lea _ _ k => if k.toNat = 0 || (0x80 ≤ k.toNat && k.toNat ≤ 0x9F) then none else some .leaSelector
  | .fmvX _ _ w => if w.toNat ≤ 1 then none else some .wordIndex
  | .fmvF _ _ w => if w.toNat ≤ 1 then none else some .wordIndex
  | .fldr _ _ k => if 1 ≤ k.toNat && k.toNat ≤ 14 then none else some .lengthCode
  | .fstr _ _ k => if 1 ≤ k.toNat && k.toNat ≤ 14 then none else some .lengthCode
  | .setprecKeep _ ra k =>
    if (1 ≤ k.toNat && k.toNat ≤ 14 && ra = 0) || (k = 0 && ra ≠ 0) then none else some .lengthCode
  | .setprecClear _ ra k =>
    if (1 ≤ k.toNat && k.toNat ≤ 14 && ra = 0) || (k = 0 && ra ≠ 0) then none else some .lengthCode
  | .hset _ _ k => if handleSelector k then none else some .handleSelector
  | .hget _ _ k => if handleSelector k then none else some .handleSelector
  | .acq _ k => if k.toNat ≤ 10 then none else some .scopeCode
  | .rel _ k => if k.toNat ≤ 10 then none else some .scopeCode
  | .mfc rd csr => if rd = 0 then some .csrForm else if csrAssigned csr then none else some .csrNumber
  | .mtc _ csr => if csrAssigned csr then none else some .csrNumber
  | .tlbinv ra k =>
    if k.toNat = 0 || k.toNat = 2 || ((k.toNat = 1 || k.toNat = 3) && ra = 0) then none else some .modeField
  | .tlbpin _ _ k => if k.toNat ≤ 1 then none else some .modeField
  | .cmapRd _ _ k => if k.toNat ≤ 2 then none else some .modeField
  | _ => none

/-- The first rule that an instruction's fields break, if any. -/
def Instr.illForm (i : Instr) : Option IllForm :=
  if i.scalarFields.all (fun (u, r) => u.legal r) then i.fieldProblem else some .scalarField

/-- The instruction is a legal encoding as far as its own fields say. -/
def Instr.wf (i : Instr) : Bool := i.illForm.isNone

end Sys2Proof
end

