-- ==== Sys2Proof/Decode.lean ====
section
/-! DEFINITION. From bits to an instruction or a named refusal (R87 to R107), and the encoder. A word is cut into
the fields of its format (R96) once, here; the fields a row does not use must be zero (R97, R107); what a legal
format says with illegal field values is refused by WellFormed.lean's checks. -/

namespace Sys2Proof

/-- Why a halfword or word is no instruction (R107). -/
inductive DecodeError where
  | permanentlyIllegal            -- the halfword 0x0000, or major 0x3F (R88)
  | reservedShort                 -- a short form with selector 3 to 15 or nonzero bits 14:5 (R92)
  | laneVariant                   -- a 16-bit lane operation with an unlisted variant (R91)
  | reserved                      -- a reserved major, an unassigned function value, or a nonzero reserved field
  | illFormed (why : IllForm)     -- a field that breaks R97 or its instruction's limits
  | truncated                     -- fewer bytes than the length bit asks for
  deriving DecidableEq, Repr

/-- An instruction's bits: 16 when bit 0 is 0, 32 when it is 1 (R87). -/
inductive Code where
  | short (h : BitVec 16)
  | long (w : BitVec 32)
  deriving DecidableEq, Repr

/-- The scope code of `fence` and `drain` is at most 10 (R106). -/
def scope (k : BitVec 8) (i : Option Instr) : Option Instr := if k.toNat ≤ 10 then i else none

/-- A field the instruction does not use is zero (R97). -/
def zero {n : Nat} (r : BitVec n) (k : Option Instr) : Option Instr := if r = 0#n then k else none

/-- A 6-bit field that names a float register holds 0 to 31 (R97). -/
def float (r : BitVec 6) (k : BitVec 5 → Option Instr) : Option Instr :=
  if r < 32#6 then k (r.setWidth 5) else none

/-- A 6-bit field that names a handle holds 0 to 15 (R97). -/
def handle (r : BitVec 6) (k : BitVec 4 → Option Instr) : Option Instr :=
  if r < 16#6 then k (r.setWidth 4) else none

/-- Major 0x00, format RRR: bits 31:25 hold sub and fn (R96, R104). -/
def decodeMajor00 (top : BitVec 7) (rb ra rd : BitVec 6) : Option Instr :=
  match top.toNat with
  | 0 => some (.add rd ra rb)
  | 1 => some (.sub rd ra rb)
  | 2 => some (.mul rd ra rb)
  | 3 => some (.mulh rd ra rb)
  | 4 => some (.mulhu rd ra rb)
  | 5 => some (.div rd ra rb)
  | 6 => some (.divu rd ra rb)
  | 7 => some (.rem rd ra rb)
  | 8 => some (.remu rd ra rb)
  | 9 => some (.and rd ra rb)
  | 10 => some (.or rd ra rb)
  | 11 => some (.xor rd ra rb)
  | 12 => some (.andn rd ra rb)
  | 13 => some (.shl rd ra rb)
  | 14 => some (.shr rd ra rb)
  | 15 => some (.sar rd ra rb)
  | 16 => some (.rol rd ra rb)
  | 17 => some (.min rd ra rb)
  | 18 => some (.max rd ra rb)
  | 19 => some (.minu rd ra rb)
  | 20 => some (.maxu rd ra rb)
  | 21 => some (.slt rd ra rb)
  | 22 => some (.sltu rd ra rb)
  | 23 => some (.seq rd ra rb)
  | 24 => some (.sel rd ra rb)
  | 25 => zero rb <| some (.clz rd ra)
  | 26 => zero rb <| some (.ctz rd ra)
  | 27 => zero rb <| some (.popc rd ra)
  | 28 => some (.bext rd ra rb)
  | 29 => some (.bins rd ra rb)
  | _ => none

/-- Major 0x01, format RRK (R96, R104). -/
def decodeMajor01 (fn5 : BitVec 5) (k : BitVec 8) (ra rd : BitVec 6) : Option Instr :=
  match fn5.toNat with
  | 0 => some (.shli rd ra k)
  | 1 => some (.shri rd ra k)
  | 2 => some (.sari rd ra k)
  | 3 => some (.lea rd ra k)
  | _ => none

/-- Major 0x02, format RRI (R96, R104). -/
def decodeMajor02 (imm : BitVec 13) (ra rd : BitVec 6) : Option Instr :=
  some (.addi rd ra imm)

/-- Major 0x03, format RRI (R96, R104). -/
def decodeMajor03 (imm : BitVec 13) (ra rd : BitVec 6) : Option Instr :=
  some (.andi rd ra imm)

/-- Major 0x04, format RRI (R96, R104). -/
def decodeMajor04 (imm : BitVec 13) (ra rd : BitVec 6) : Option Instr :=
  some (.ori rd ra imm)

/-- Major 0x05, format RRI (R96, R104). -/
def decodeMajor05 (imm : BitVec 13) (ra rd : BitVec 6) : Option Instr :=
  some (.xori rd ra imm)

/-- Major 0x06, format RRI (R96, R104). -/
def decodeMajor06 (imm : BitVec 13) (ra rd : BitVec 6) : Option Instr :=
  some (.slti rd ra imm)

/-- Major 0x08, format B: the condition codes of R99. -/
def decodeMajor08 (disp : BitVec 16) (ra : BitVec 6) (cond : BitVec 3) : Option Instr :=
  match cond.toNat with
  | 0 => some (.bEq ra disp)
  | 1 => some (.bNe ra disp)
  | 2 => some (.bLt ra disp)
  | 3 => some (.bGe ra disp)
  | 4 => some (.bLtu ra disp)
  | 5 => some (.bGeu ra disp)
  | _ => none

/-- Major 0x0B, format RRI (R96, R104). -/
def decodeMajor0B (imm : BitVec 13) (ra rd : BitVec 6) : Option Instr :=
  some (.jalr rd ra imm)

/-- Major 0x0C, format RRK (R96, R104). -/
def decodeMajor0C (fn5 : BitVec 5) (k : BitVec 8) (ra rd : BitVec 6) : Option Instr :=
  match fn5.toNat with
  | 0 => zero ra <| some (.ldk rd k)
  | 1 => some (.addk rd ra k)
  | _ => none

/-- Major 0x10, format RRR: bits 31:25 hold sub and fn (R96, R104). -/
def decodeMajor10 (top : BitVec 7) (rb ra rd : BitVec 6) : Option Instr :=
  match top.toNat with
  | 0 => float rd fun rdf => float ra fun raf => float rb fun rbf => some (.fadd rdf raf rbf)
  | 1 => float rd fun rdf => float ra fun raf => float rb fun rbf => some (.fsub rdf raf rbf)
  | 2 => float rd fun rdf => float ra fun raf => float rb fun rbf => some (.fmul rdf raf rbf)
  | 3 => float rd fun rdf => float ra fun raf => float rb fun rbf => some (.fdiv rdf raf rbf)
  | 4 => float rd fun rdf => float ra fun raf => float rb fun rbf => some (.ffma rdf raf rbf)
  | 5 => float rd fun rdf => float ra fun raf => float rb fun rbf => some (.fnma rdf raf rbf)
  | 6 => float rd fun rdf => float ra fun raf => float rb fun rbf => some (.fmin rdf raf rbf)
  | 7 => float rd fun rdf => float ra fun raf => float rb fun rbf => some (.fmax rdf raf rbf)
  | _ => none

/-- Major 0x11, format RRR: bits 31:25 hold sub and fn (R96, R104). -/
def decodeMajor11 (top : BitVec 7) (rb ra rd : BitVec 6) : Option Instr :=
  match top.toNat with
  | 0 => float rd fun rdf => float ra fun raf => zero rb <| some (.fsqrt rdf raf)
  | 1 => float rd fun rdf => float ra fun raf => zero rb <| some (.fneg rdf raf)
  | 2 => float rd fun rdf => float ra fun raf => zero rb <| some (.fabs rdf raf)
  | 3 => float ra fun raf => zero rb <| some (.fclass rd raf)
  | 4 => float rd fun rdf => float ra fun raf => zero rb <| some (.fround rdf raf)
  | 5 => float ra fun raf => some (.fmvX rd raf rb)
  | 6 => float rd fun rdf => some (.fmvF rdf ra rb)
  | 7 => float ra fun raf => float rb fun rbf => some (.fcmpEq rd raf rbf)
  | 23 => float ra fun raf => float rb fun rbf => some (.fcmpLt rd raf rbf)
  | 39 => float ra fun raf => float rb fun rbf => some (.fcmpLe rd raf rbf)
  | 55 => float ra fun raf => float rb fun rbf => some (.fcmpUn rd raf rbf)
  | _ => none

/-- Major 0x12, format RRR: bits 31:25 hold sub and fn (R96, R104). -/
def decodeMajor12 (top : BitVec 7) (rb ra rd : BitVec 6) : Option Instr :=
  match top.toNat with
  | 0 => float rd fun rdf => zero rb <| some (.fcvtFS rdf ra)
  | 1 => float rd fun rdf => zero rb <| some (.fcvtFU rdf ra)
  | 2 => float ra fun raf => zero rb <| some (.fcvtSF rd raf)
  | 3 => float ra fun raf => zero rb <| some (.fcvtUF rd raf)
  | 4 => float rd fun rdf => zero rb <| some (.fcvtFH rdf ra)
  | 5 => float ra fun raf => zero rb <| some (.fcvtHF rd raf)
  | 6 => float rd fun rdf => zero rb <| some (.fcvtFBf rdf ra)
  | 7 => float ra fun raf => zero rb <| some (.fcvtBfF rd raf)
  | 8 => float rd fun rdf => zero rb <| some (.fcvtFW rdf ra)
  | 9 => float ra fun raf => zero rb <| some (.fcvtWF rd raf)
  | 10 => float rd fun rdf => zero rb <| some (.fcvtFD rdf ra)
  | 11 => float ra fun raf => zero rb <| some (.fcvtDF rd raf)
  | _ => none

/-- Major 0x13, format RRI (R96, R104). -/
def decodeMajor13 (imm : BitVec 13) (ra rd : BitVec 6) : Option Instr :=
  float rd fun rdf => some (.fld rdf ra imm)

/-- Major 0x14, format RRI (R96, R104). -/
def decodeMajor14 (imm : BitVec 13) (ra rd : BitVec 6) : Option Instr :=
  float rd fun rdf => some (.fst rdf ra imm)

/-- Major 0x15, format RRK (R96, R104). -/
def decodeMajor15 (fn5 : BitVec 5) (k : BitVec 8) (ra rd : BitVec 6) : Option Instr :=
  match fn5.toNat with
  | 0 => float rd fun rdf => some (.fldr rdf ra k)
  | 1 => float rd fun rdf => some (.fstr rdf ra k)
  | _ => none

/-- Major 0x16, format RRK (R96, R104). -/
def decodeMajor16 (fn5 : BitVec 5) (k : BitVec 8) (ra rd : BitVec 6) : Option Instr :=
  match fn5.toNat with
  | 0 => some (.setprecKeep rd ra k)
  | 1 => some (.setprecClear rd ra k)
  | 2 => zero k <| zero ra <| some (.getprec rd)
  | _ => none

/-- Major 0x18, format M (R96, R104). -/
def decodeMajor18 (la : BitVec 4) (fn3 : BitVec 3) (rs : BitVec 6) (hb ha hd : BitVec 4) : Option Instr :=
  match fn3.toNat with
  | 0 => zero ha <| zero hb <| some (.hld hd rs la)
  | 1 => zero ha <| zero hb <| some (.hst hd rs la)
  | 2 => zero hb <| some (.hadv hd ha rs la)
  | 3 => zero hb <| some (.hdim hd ha rs la)
  | _ => none

/-- Major 0x19, format RRK (R96, R104). -/
def decodeMajor19 (fn5 : BitVec 5) (k : BitVec 8) (ra rd : BitVec 6) : Option Instr :=
  match fn5.toNat with
  | 0 => handle rd fun rdh => some (.hset rdh ra k)
  | 1 => handle ra fun rah => some (.hget rd rah k)
  | _ => none

/-- Major 0x1C, format M (R96, R104). -/
def decodeMajor1C (la : BitVec 4) (fn3 : BitVec 3) (rs : BitVec 6) (hb ha hd : BitVec 4) : Option Instr :=
  match fn3.toNat with
  | 0 => zero rs <| some (.vadd hd ha hb la)
  | 1 => zero rs <| some (.vsub hd ha hb la)
  | 2 => zero rs <| some (.vmul hd ha hb la)
  | 3 => zero rs <| some (.vfma hd ha hb la)
  | 4 => zero rs <| some (.vmin hd ha hb la)
  | 5 => zero rs <| some (.vmax hd ha hb la)
  | 6 => zero hb <| zero rs <| some (.vabs hd ha la)
  | 7 => zero hb <| zero rs <| some (.vneg hd ha la)
  | _ => none

/-- Major 0x1D, format M (R96, R104). -/
def decodeMajor1D (la : BitVec 4) (fn3 : BitVec 3) (rs : BitVec 6) (hb ha hd : BitVec 4) : Option Instr :=
  match fn3.toNat with
  | 0 => zero hb <| zero rs <| some (.vcvt hd ha la)
  | 1 => zero rs <| some (.vscale hd ha hb la)
  | 2 => zero hb <| zero rs <| some (.vexp hd ha la)
  | 3 => zero hb <| zero rs <| some (.vrcp hd ha la)
  | 4 => zero hb <| zero rs <| some (.vcopy hd ha la)
  | 5 => zero hb <| zero rs <| some (.vbcast hd ha la)
  | 6 => zero hb <| some (.vredSum hd ha rs la)
  | 7 => zero hb <| some (.vredMax hd ha rs la)
  | _ => none

/-- Major 0x1E, format M (R96, R104). -/
def decodeMajor1E (la : BitVec 4) (fn3 : BitVec 3) (rs : BitVec 6) (hb ha hd : BitVec 4) : Option Instr :=
  match fn3.toNat with
  | 0 => zero rs <| some (.vand hd ha hb la)
  | 1 => zero rs <| some (.vor hd ha hb la)
  | 2 => zero rs <| some (.vxor hd ha hb la)
  | 3 => zero rs <| some (.vshl hd ha hb la)
  | 4 => zero rs <| some (.vshr hd ha hb la)
  | 5 => zero hb <| zero rs <| some (.vrsqrt hd ha la)
  | 6 => zero hb <| zero rs <| some (.vtanh hd ha la)
  | 7 => some (.vcmp hd ha hb rs la)
  | _ => none

/-- Major 0x1F, format M (R96, R104). -/
def decodeMajor1F (la : BitVec 4) (fn3 : BitVec 3) (rs : BitVec 6) (hb ha hd : BitVec 4) : Option Instr :=
  match fn3.toNat with
  | 0 => some (.vsel hd ha hb rs la)
  | 1 => zero hb <| some (.vcompress hd ha rs la)
  | 2 => zero hb <| some (.vexpand hd ha rs la)
  | 3 => zero rs <| some (.vsp24 hd ha hb la)
  | 4 => zero hb <| zero rs <| some (.vsmx hd ha la)
  | 5 => zero hb <| some (.vtopk hd ha rs la)
  | 6 => some (.vgather hd ha hb rs la)
  | 7 => some (.vscatter hd ha hb rs la)
  | _ => none

/-- Major 0x20, format M (R96, R104). -/
def decodeMajor20 (la : BitVec 4) (fn3 : BitVec 3) (rs : BitVec 6) (hb ha hd : BitVec 4) : Option Instr :=
  match fn3.toNat with
  | 0 => zero ha <| zero hb <| some (.viota hd rs la)
  | 1 => zero hb <| some (.vcvtKeep hd ha rs la)
  | _ => none

/-- Major 0x24, format M (R96, R104). -/
def decodeMajor24 (la : BitVec 4) (fn3 : BitVec 3) (rs : BitVec 6) (hb ha hd : BitVec 4) : Option Instr :=
  match fn3.toNat with
  | 0 => zero hd <| zero hb <| zero rs <| some (.mldW ha la)
  | 1 => zero hd <| zero ha <| zero hb <| zero rs <| some (.mswap)
  | 2 => zero hd <| zero hb <| some (.mma ha rs la)
  | 3 => zero ha <| zero hb <| some (.mst hd rs la)
  | 4 => zero hd <| zero ha <| zero hb <| zero rs <| some (.mzero)
  | 5 => zero hd <| zero ha <| zero hb <| some (.mstat rs la)
  | 6 => zero hd <| zero hb <| some (.mldR ha rs la)
  | _ => none

/-- Major 0x28, format LX (R96, R104). -/
def decodeMajor28 (la : BitVec 4) (fn3 : BitVec 3) (rb ra rd : BitVec 6) : Option Instr :=
  match fn3.toNat with
  | 0 => some (.ldB rd ra rb la)
  | 1 => some (.ldBu rd ra rb la)
  | 2 => some (.ldH rd ra rb la)
  | 3 => some (.ldHu rd ra rb la)
  | 4 => some (.ldW rd ra rb la)
  | 5 => some (.ldWu rd ra rb la)
  | 6 => some (.ldD rd ra rb la)
  | 7 => some (.ldNt rd ra rb la)
  | _ => none

/-- Major 0x29, format RRR: bits 31:25 hold sub and fn (R96, R104). -/
def decodeMajor29 (top : BitVec 7) (rb ra rd : BitVec 6) : Option Instr :=
  match top.toNat with
  | 0 => some (.stB rd ra rb)
  | 1 => some (.stH rd ra rb)
  | 2 => some (.stW rd ra rb)
  | 3 => some (.stD rd ra rb)
  | 4 => some (.stNt rd ra rb)
  | _ => none

/-- Major 0x2A, format RRR: bits 31:25 hold sub and fn (R96, R104). -/
def decodeMajor2A (top : BitVec 7) (rb ra rd : BitVec 6) : Option Instr :=
  match top.toNat with
  | 0 => zero rd <| some (.pf ra rb)
  | _ => none

/-- Major 0x2B, format LX (R96, R104). -/
def decodeMajor2B (la : BitVec 4) (fn3 : BitVec 3) (rb ra rd : BitVec 6) : Option Instr :=
  match fn3.toNat with
  | 0 => some (.amoAdd rd ra rb la)
  | 1 => some (.amoAnd rd ra rb la)
  | 2 => some (.amoOr rd ra rb la)
  | 3 => some (.amoXor rd ra rb la)
  | 4 => some (.amoMin rd ra rb la)
  | 5 => some (.amoMax rd ra rb la)
  | 6 => some (.amoMinu rd ra rb la)
  | 7 => some (.amoMaxu rd ra rb la)
  | _ => none

/-- Major 0x2C, format LX (R96, R104). -/
def decodeMajor2C (la : BitVec 4) (fn3 : BitVec 3) (rb ra rd : BitVec 6) : Option Instr :=
  match fn3.toNat with
  | 0 => some (.amoSwap rd ra rb la)
  | 1 => some (.amoCas rd ra rb la)
  | 2 => some (.amoFadd rd ra rb la)
  | _ => none

/-- Major 0x2D, format M (R96, R104). -/
def decodeMajor2D (la : BitVec 4) (fn3 : BitVec 3) (rs : BitVec 6) (hb ha hd : BitVec 4) : Option Instr :=
  match fn3.toNat with
  | 0 => zero hb <| some (.copy hd ha rs la)
  | 1 => zero hb <| some (.copyH hd ha rs la)
  | 2 => zero hb <| some (.copyR hd ha rs la)
  | _ => none

/-- Major 0x30, format RRK (R96, R104). -/
def decodeMajor30 (fn5 : BitVec 5) (k : BitVec 8) (ra rd : BitVec 6) : Option Instr :=
  match fn5.toNat with
  | 0 => zero rd <| some (.acq ra k)
  | 1 => zero rd <| some (.rel ra k)
  | 2 => scope k <| zero rd <| zero ra <| some (.fence)
  | 3 => scope k <| zero rd <| zero ra <| some (.drain)
  | _ => none

/-- Major 0x34, format RRR: bits 31:25 hold sub and fn (R96, R104). -/
def decodeMajor34 (top : BitVec 7) (rb ra rd : BitVec 6) : Option Instr :=
  match top.toNat with
  | 0 => some (.send rd ra rb)
  | 1 => some (.sendHi rd ra rb)
  | 2 => some (.sendMc rd ra rb)
  | 3 => some (.sendComb rd ra rb)
  | 4 => some (.sendHold rd ra rb)
  | 5 => some (.dep rd ra rb)
  | 6 => some (.reply rd ra rb)
  | 7 => zero rb <| some (.msgld rd ra)
  | 8 => zero ra <| zero rb <| some (.commit rd)
  | 9 => zero ra <| zero rb <| some (.abort rd)
  | _ => none

/-- Major 0x35, format RRR: bits 31:25 hold sub and fn (R96, R104). -/
def decodeMajor35 (top : BitVec 7) (rb ra rd : BitVec 6) : Option Instr :=
  match top.toNat with
  | 0 => some (.uewBuild rd ra rb)
  | 1 => zero rb <| some (.uewPost rd ra)
  | _ => none

/-- Major 0x38, format RRR: bits 31:25 hold sub and fn (R96, R104). -/
def decodeMajor38 (top : BitVec 7) (rb ra rd : BitVec 6) : Option Instr :=
  match top.toNat with
  | 0 => zero rd <| some (.cntInc ra rb)
  | 1 => zero rb <| some (.cntRd rd ra)
  | 2 => some (.cntWait rd ra rb)
  | 3 => some (.launch rd ra rb)
  | 4 => zero rb <| some (.cancel rd ra)
  | _ => none

/-- Major 0x39, format RRR: bits 31:25 hold sub and fn (R96, R104). -/
def decodeMajor39 (top : BitVec 7) (rb ra rd : BitVec 6) : Option Instr :=
  match top.toNat with
  | 0 => zero rd <| zero rb <| some (.barSet ra)
  | 1 => zero ra <| zero rb <| some (.barArrive rd)
  | 2 => zero rd <| zero rb <| some (.barWait ra)
  | 3 => zero rb <| some (.wtagAny rd ra)
  | 4 => zero rb <| some (.wtagAll rd ra)
  | 5 => zero rb <| some (.ffr rd ra)
  | 6 => zero rd <| zero rb <| some (.tagClr ra)
  | _ => none

/-- Major 0x3A, format RRR: bits 31:25 hold sub and fn (R96, R104). -/
def decodeMajor3A (top : BitVec 7) (rb ra rd : BitVec 6) : Option Instr :=
  match top.toNat with
  | 0 => some (.iclk rd ra rb)
  | 1 => zero rb <| some (.perfRd rd ra)
  | _ => none

/-- Major 0x3B, format RRR: bits 31:25 hold sub and fn (R96, R104). -/
def decodeMajor3B (top : BitVec 7) (rb ra rd : BitVec 6) : Option Instr :=
  match top.toNat with
  | 0 => zero rd <| some (.iset ra rb)
  | 1 => zero rb <| some (.iget rd ra)
  | 2 => zero rd <| zero rb <| some (.isave ra)
  | 3 => zero rd <| zero rb <| some (.irest ra)
  | 4 => some (.istep rd ra rb)
  | 5 => zero rd <| some (.isnap ra rb)
  | 6 => zero rd <| some (.ibind ra rb)
  | 7 => zero rd <| some (.iin ra rb)
  | _ => none

/-- Major 0x3D, format RRK (R96, R104). -/
def decodeMajor3D (fn5 : BitVec 5) (k : BitVec 8) (ra rd : BitVec 6) : Option Instr :=
  match fn5.toNat with
  | 0 => zero rd <| zero ra <| some (.gangLead)
  | 1 => zero rd <| zero ra <| some (.gangJoin)
  | 2 => zero k <| zero rd <| zero ra <| some (.gangLeave)
  | _ => none

/-- Major 0x3E: the CSR form when bit 31 is 0, the system and table instructions when it is 1 (R105, R385). -/
def decodeMajor3E (fn5 : BitVec 5) (k : BitVec 8) (ra rd : BitVec 6) : Option Instr :=
  if fn5 < 16#5 then
    let csr : BitVec 12 := fn5.setWidth 4 ++ k
    if rd = 0#6 then some (.mtc ra csr) else zero ra <| some (.mfc rd csr)
  else
    match fn5.toNat with
    | 16 => zero rd <| zero ra <| some .trap
    | 17 => zero k <| zero rd <| zero ra <| some (.eret)
    | 18 => zero rd <| zero ra <| some .brk
    | 19 => zero k <| zero rd <| zero ra <| some (.nopW)
    | 20 => zero k <| zero rd <| zero ra <| some (.endW)
    | 21 => zero rd <| some .safe
    | 22 => some (.bindh rd ra k)
    | 23 => zero ra <| some (.unbindh rd k)
    | 24 => zero k <| some (.bind rd ra)
    | 25 => zero k <| some (.unbind rd ra)
    | 26 => match k.toNat with
      | 0 => zero ra <| some (.publish rd)
      | 1 => some (.publishDefine rd ra)
      | 2 => zero ra <| some (.publishRemove rd)
      | _ => none
    | 27 => some (.ipatch rd ra k)
    | 28 => zero rd <| some (.tlbinv ra k)
    | 29 => some (.tlbpin rd ra k)
    | 30 => some (.cmapRd rd ra k)
    | _ => none

/-- The fields of a 32-bit word by its major opcode (R96, R104). -/
def decodeFields (w : BitVec 32) : Option Instr :=
  let rd := w.extractLsb' 7 6
  let ra := w.extractLsb' 13 6
  let rb := w.extractLsb' 19 6
  let top := w.extractLsb' 25 7
  let imm := w.extractLsb' 19 13
  let k := w.extractLsb' 19 8
  let fn5 := w.extractLsb' 27 5
  let la := w.extractLsb' 28 4
  let fn3 := w.extractLsb' 25 3
  let hd := w.extractLsb' 7 4
  let ha := w.extractLsb' 11 4
  let hb := w.extractLsb' 15 4
  match (w.extractLsb' 1 6).toNat with
  | 0 => decodeMajor00 top rb ra rd
  | 1 => decodeMajor01 fn5 k ra rd
  | 2 => decodeMajor02 imm ra rd
  | 3 => decodeMajor03 imm ra rd
  | 4 => decodeMajor04 imm ra rd
  | 5 => decodeMajor05 imm ra rd
  | 6 => decodeMajor06 imm ra rd
  | 7 => some (.lui rd (w.extractLsb' 13 19))
  | 8 => decodeMajor08 (w.extractLsb' 16 16) (w.extractLsb' 10 6) (w.extractLsb' 7 3)
  | 9 => some (.j (w.extractLsb' 7 25))
  | 10 => some (.jal (w.extractLsb' 7 25))
  | 11 => decodeMajor0B imm ra rd
  | 12 => decodeMajor0C fn5 k ra rd
  | 16 => decodeMajor10 top rb ra rd
  | 17 => decodeMajor11 top rb ra rd
  | 18 => decodeMajor12 top rb ra rd
  | 19 => decodeMajor13 imm ra rd
  | 20 => decodeMajor14 imm ra rd
  | 21 => decodeMajor15 fn5 k ra rd
  | 22 => decodeMajor16 fn5 k ra rd
  | 24 => decodeMajor18 la fn3 rb hb ha hd
  | 25 => decodeMajor19 fn5 k ra rd
  | 28 => decodeMajor1C la fn3 rb hb ha hd
  | 29 => decodeMajor1D la fn3 rb hb ha hd
  | 30 => decodeMajor1E la fn3 rb hb ha hd
  | 31 => decodeMajor1F la fn3 rb hb ha hd
  | 32 => decodeMajor20 la fn3 rb hb ha hd
  | 36 => decodeMajor24 la fn3 rb hb ha hd
  | 40 => decodeMajor28 la fn3 rb ra rd
  | 41 => decodeMajor29 top rb ra rd
  | 42 => decodeMajor2A top rb ra rd
  | 43 => decodeMajor2B la fn3 rb ra rd
  | 44 => decodeMajor2C la fn3 rb ra rd
  | 45 => decodeMajor2D la fn3 rb hb ha hd
  | 48 => decodeMajor30 fn5 k ra rd
  | 52 => decodeMajor34 top rb ra rd
  | 53 => decodeMajor35 top rb ra rd
  | 56 => decodeMajor38 top rb ra rd
  | 57 => decodeMajor39 top rb ra rd
  | 58 => decodeMajor3A top rb ra rd
  | 59 => decodeMajor3B top rb ra rd
  | 61 => decodeMajor3D fn5 k ra rd
  | 62 => decodeMajor3E fn5 k ra rd
  | _ => none

/-- A 16-bit lane operation: variant in 14:13, ha in 12:9, hd in 8:5, operation in 4:1 (R90, R91). -/
def decodeLane16 (h : BitVec 16) : Option Instr :=
  let ha := h.extractLsb' 9 4
  let hd := h.extractLsb' 5 4
  match (h.extractLsb' 13 2).toNat, (h.extractLsb' 1 4).toNat with
  | 0, 0 => some (.vadd16 hd ha)
  | 1, 0 => some (.vaddR hd ha)
  | 2, 0 => some (.vaddB hd ha)
  | 0, 1 => some (.vsub16 hd ha)
  | 1, 1 => some (.vsubR hd ha)
  | 2, 1 => some (.vsubB hd ha)
  | 0, 2 => some (.vmul16 hd ha)
  | 1, 2 => some (.vmulR hd ha)
  | 2, 2 => some (.vmulB hd ha)
  | 0, 3 => some (.vfma16 hd ha)
  | 0, 4 => some (.vmin16 hd ha)
  | 1, 4 => some (.vminR hd ha)
  | 2, 4 => some (.vminB hd ha)
  | 0, 5 => some (.vmax16 hd ha)
  | 1, 5 => some (.vmaxR hd ha)
  | 2, 5 => some (.vmaxB hd ha)
  | 0, 6 => some (.vabs16 hd ha)
  | 0, 7 => some (.vneg16 hd ha)
  | 0, 8 => some (.vcvt16 hd ha)
  | 0, 9 => some (.vscale16 hd ha)
  | 1, 9 => some (.vscaleR hd ha)
  | 2, 9 => some (.vscaleB hd ha)
  | 0, 10 => some (.vexp16 hd ha)
  | 0, 11 => some (.vrcp16 hd ha)
  | 0, 12 => some (.vcopy16 hd ha)
  | 0, 13 => some (.vbcast16 hd ha)
  | 0, 14 => some (.vredSum16 hd ha)
  | 1, 14 => some (.vredSumD1 hd ha)
  | 2, 14 => some (.vredSumD2 hd ha)
  | 0, 15 => some (.vredMax16 hd ha)
  | 1, 15 => some (.vredMaxD1 hd ha)
  | 2, 15 => some (.vredMaxD2 hd ha)
  | _, _ => none

/-- A 16-bit form with bit 15 set: `nop`, `end` and the repeat prefix (R92, R93). -/
def decodeShort (h : BitVec 16) : Option Instr :=
  let body := h.extractLsb' 5 10
  match (h.extractLsb' 1 4).toNat with
  | 0 => zero body <| some .nopShort
  | 1 => zero body <| some .endShort
  | 2 => some .rep
  | _ => none

/-- The instruction of a halfword whose bit 0 is 0. -/
def decodeHalf (h : BitVec 16) : Except DecodeError Instr :=
  let found := if h.getLsbD 15 then decodeShort h else decodeLane16 h
  match found with
  | none => .error (if h.getLsbD 15 then .reservedShort else .laneVariant)
  | some i =>
    match i.illForm with
    | some .zeroHalfword => .error .permanentlyIllegal
    | some why => .error (.illFormed why)
    | none => .ok i

/-- The instruction of a 32-bit word. -/
def decodeWord (w : BitVec 32) : Except DecodeError Instr :=
  match decodeFields w with
  | none => .error (if w.extractLsb' 1 6 = 0x3F#6 then .permanentlyIllegal else .reserved)
  | some i =>
    match i.illForm with
    | some why => .error (.illFormed why)
    | none => .ok i

/-- The instruction that a code stands for, or why it is illegal. -/
def decode (c : Code) : Except DecodeError Instr :=
  match c with
  | .short h => if h.getLsbD 0 then .error .reserved else decodeHalf h
  | .long w => if w.getLsbD 0 then decodeWord w else .error .reserved

/-- The code at the head of a byte list: little-endian halfwords, the first one's bit 0 gives the length (R87). -/
def codeOfBytes (bs : List Byte) : Except DecodeError (Code × List Byte) :=
  match bs with
  | b0 :: b1 :: rest =>
    if b0.getLsbD 0 then
      match rest with
      | b2 :: b3 :: rest' => .ok (.long (b3 ++ b2 ++ b1 ++ b0), rest')
      | _ => .error .truncated
    else .ok (.short (b1 ++ b0), rest)
  | _ => .error .truncated

/-- The instruction at the head of a byte list, with the bytes after it. -/
def decodeBytes (bs : List Byte) : Except DecodeError (Instr × List Byte) :=
  match codeOfBytes bs with
  | .error e => .error e
  | .ok (c, rest) =>
    match decode c with
    | .error e => .error e
    | .ok i => .ok (i, rest)

/-- `n` bytes of a number, least significant first (R4). -/
def natBytes (n : Nat) (v : Nat) : List Byte :=
  match n with
  | 0 => []
  | n + 1 => BitVec.ofNat 8 v :: natBytes n (v / 256)

/-- The host's question about one opcode-table row: the instruction whose bits, numbered as the table numbers them,
are `w`. -/
def decodeTableWord (nbits w : Nat) : Option Instr :=
  match decodeBytes (natBytes 4 (w % 2 ^ nbits)) with
  | .ok (i, _) => some i
  | .error _ => none

/-! The encoder, from the same formats (R90, R92, R96). -/

/-- Format RRR, with sub and fn in `top`. -/
def encodeRRR (major : BitVec 6) (top : BitVec 7) (rb ra rd : BitVec 6) : Code :=
  .long (top ++ rb ++ ra ++ rd ++ major ++ 1#1)

/-- Format RRI. -/
def encodeRRI (major : BitVec 6) (imm : BitVec 13) (ra rd : BitVec 6) : Code :=
  .long (imm ++ ra ++ rd ++ major ++ 1#1)

/-- Format RRK. -/
def encodeRRK (major : BitVec 6) (fn5 : BitVec 5) (k : BitVec 8) (ra rd : BitVec 6) : Code :=
  .long (fn5 ++ k ++ ra ++ rd ++ major ++ 1#1)

/-- Format LX. -/
def encodeLX (major : BitVec 6) (fn3 : BitVec 3) (la : BitVec 4) (rb ra rd : BitVec 6) : Code :=
  .long (la ++ fn3 ++ rb ++ ra ++ rd ++ major ++ 1#1)

/-- Format M. -/
def encodeM (major : BitVec 6) (fn3 : BitVec 3) (la : BitVec 4) (rs : BitVec 6) (hb ha hd : BitVec 4) : Code :=
  .long (la ++ fn3 ++ rs ++ hb ++ ha ++ hd ++ major ++ 1#1)

/-- Format B. -/
def encodeB (cond : BitVec 3) (ra : BitVec 6) (disp : BitVec 16) : Code :=
  .long (disp ++ ra ++ cond ++ 0x08#6 ++ 1#1)

/-- A 16-bit lane operation. -/
def encodeLane16 (var : BitVec 2) (op : BitVec 4) (hd ha : BitVec 4) : Code :=
  .short (0#1 ++ var ++ ha ++ hd ++ op ++ 0#1)

/-- The k8 literal of a 32-bit word: the trap, break and scope codes and the gang operands (R96, R105, R106, R186). -/
def Code.k8 (c : Code) : BitVec 8 :=
  match c with
  | .long w => w.extractLsb' 19 8
  | .short _ => 0#8

/-- The live-map index of `safe`: concat(ra field, k8) (R105). -/
def Code.safeIndex (c : Code) : BitVec 14 :=
  match c with
  | .long w => w.extractLsb' 13 6 ++ w.extractLsb' 19 8
  | .short _ => 0#14

/-- How many times `rep` executes the next instruction, 1 to 64 (R93). -/
def Code.repCount (c : Code) : Nat :=
  match c with
  | .short h => (h.extractLsb' 5 6).toNat + 1
  | .long _ => 1

/-- The step mask of `rep` (R93). -/
def Code.repMask (c : Code) : BitVec 4 :=
  match c with
  | .short h => h.extractLsb' 11 4
  | .long _ => 0#4

/-- The bits of a code, a 16-bit one in the low half. -/
def Code.bits (c : Code) : BitVec 32 :=
  match c with
  | .short h => h.setWidth 32
  | .long w => w

/-- The code of an encoded instruction, with a zero literal code in the ten rows whose literal the issue latch
holds; the steps that have no encoding give none. -/
def encode (i : Instr) : Option Code :=
  match i with
  | .add rd ra rb => some (encodeRRR 0x00#6 0#7 rb ra rd)
  | .sub rd ra rb => some (encodeRRR 0x00#6 1#7 rb ra rd)
  | .mul rd ra rb => some (encodeRRR 0x00#6 2#7 rb ra rd)
  | .mulh rd ra rb => some (encodeRRR 0x00#6 3#7 rb ra rd)
  | .mulhu rd ra rb => some (encodeRRR 0x00#6 4#7 rb ra rd)
  | .div rd ra rb => some (encodeRRR 0x00#6 5#7 rb ra rd)
  | .divu rd ra rb => some (encodeRRR 0x00#6 6#7 rb ra rd)
  | .rem rd ra rb => some (encodeRRR 0x00#6 7#7 rb ra rd)
  | .remu rd ra rb => some (encodeRRR 0x00#6 8#7 rb ra rd)
  | .and rd ra rb => some (encodeRRR 0x00#6 9#7 rb ra rd)
  | .or rd ra rb => some (encodeRRR 0x00#6 10#7 rb ra rd)
  | .xor rd ra rb => some (encodeRRR 0x00#6 11#7 rb ra rd)
  | .andn rd ra rb => some (encodeRRR 0x00#6 12#7 rb ra rd)
  | .shl rd ra rb => some (encodeRRR 0x00#6 13#7 rb ra rd)
  | .shr rd ra rb => some (encodeRRR 0x00#6 14#7 rb ra rd)
  | .sar rd ra rb => some (encodeRRR 0x00#6 15#7 rb ra rd)
  | .rol rd ra rb => some (encodeRRR 0x00#6 16#7 rb ra rd)
  | .min rd ra rb => some (encodeRRR 0x00#6 17#7 rb ra rd)
  | .max rd ra rb => some (encodeRRR 0x00#6 18#7 rb ra rd)
  | .minu rd ra rb => some (encodeRRR 0x00#6 19#7 rb ra rd)
  | .maxu rd ra rb => some (encodeRRR 0x00#6 20#7 rb ra rd)
  | .slt rd ra rb => some (encodeRRR 0x00#6 21#7 rb ra rd)
  | .sltu rd ra rb => some (encodeRRR 0x00#6 22#7 rb ra rd)
  | .seq rd ra rb => some (encodeRRR 0x00#6 23#7 rb ra rd)
  | .sel rd ra rb => some (encodeRRR 0x00#6 24#7 rb ra rd)
  | .clz rd ra => some (encodeRRR 0x00#6 25#7 0#6 ra rd)
  | .ctz rd ra => some (encodeRRR 0x00#6 26#7 0#6 ra rd)
  | .popc rd ra => some (encodeRRR 0x00#6 27#7 0#6 ra rd)
  | .bext rd ra rb => some (encodeRRR 0x00#6 28#7 rb ra rd)
  | .bins rd ra rb => some (encodeRRR 0x00#6 29#7 rb ra rd)
  | .shli rd ra k => some (encodeRRK 0x01#6 0#5 k ra rd)
  | .shri rd ra k => some (encodeRRK 0x01#6 1#5 k ra rd)
  | .sari rd ra k => some (encodeRRK 0x01#6 2#5 k ra rd)
  | .lea rd ra k => some (encodeRRK 0x01#6 3#5 k ra rd)
  | .addi rd ra imm => some (encodeRRI 0x02#6 imm ra rd)
  | .andi rd ra imm => some (encodeRRI 0x03#6 imm ra rd)
  | .ori rd ra imm => some (encodeRRI 0x04#6 imm ra rd)
  | .xori rd ra imm => some (encodeRRI 0x05#6 imm ra rd)
  | .slti rd ra imm => some (encodeRRI 0x06#6 imm ra rd)
  | .lui rd imm => some (.long (imm ++ rd ++ 0x07#6 ++ 1#1))
  | .bEq ra disp => some (encodeB 0#3 ra disp)
  | .bNe ra disp => some (encodeB 1#3 ra disp)
  | .bLt ra disp => some (encodeB 2#3 ra disp)
  | .bGe ra disp => some (encodeB 3#3 ra disp)
  | .bLtu ra disp => some (encodeB 4#3 ra disp)
  | .bGeu ra disp => some (encodeB 5#3 ra disp)
  | .j disp => some (.long (disp ++ 0x09#6 ++ 1#1))
  | .jal disp => some (.long (disp ++ 0x0A#6 ++ 1#1))
  | .jalr rd ra imm => some (encodeRRI 0x0B#6 imm ra rd)
  | .ldk rd k => some (encodeRRK 0x0C#6 0#5 k 0#6 rd)
  | .addk rd ra k => some (encodeRRK 0x0C#6 1#5 k ra rd)
  | .fadd fd fa fb => some (encodeRRR 0x10#6 0#7 (fb.setWidth 6) (fa.setWidth 6) (fd.setWidth 6))
  | .fsub fd fa fb => some (encodeRRR 0x10#6 1#7 (fb.setWidth 6) (fa.setWidth 6) (fd.setWidth 6))
  | .fmul fd fa fb => some (encodeRRR 0x10#6 2#7 (fb.setWidth 6) (fa.setWidth 6) (fd.setWidth 6))
  | .fdiv fd fa fb => some (encodeRRR 0x10#6 3#7 (fb.setWidth 6) (fa.setWidth 6) (fd.setWidth 6))
  | .ffma fd fa fb => some (encodeRRR 0x10#6 4#7 (fb.setWidth 6) (fa.setWidth 6) (fd.setWidth 6))
  | .fnma fd fa fb => some (encodeRRR 0x10#6 5#7 (fb.setWidth 6) (fa.setWidth 6) (fd.setWidth 6))
  | .fmin fd fa fb => some (encodeRRR 0x10#6 6#7 (fb.setWidth 6) (fa.setWidth 6) (fd.setWidth 6))
  | .fmax fd fa fb => some (encodeRRR 0x10#6 7#7 (fb.setWidth 6) (fa.setWidth 6) (fd.setWidth 6))
  | .fsqrt fd fa => some (encodeRRR 0x11#6 0#7 0#6 (fa.setWidth 6) (fd.setWidth 6))
  | .fneg fd fa => some (encodeRRR 0x11#6 1#7 0#6 (fa.setWidth 6) (fd.setWidth 6))
  | .fabs fd fa => some (encodeRRR 0x11#6 2#7 0#6 (fa.setWidth 6) (fd.setWidth 6))
  | .fclass rd fa => some (encodeRRR 0x11#6 3#7 0#6 (fa.setWidth 6) rd)
  | .fround fd fa => some (encodeRRR 0x11#6 4#7 0#6 (fa.setWidth 6) (fd.setWidth 6))
  | .fmvX rd fa j => some (encodeRRR 0x11#6 5#7 j (fa.setWidth 6) rd)
  | .fmvF fd ra j => some (encodeRRR 0x11#6 6#7 j ra (fd.setWidth 6))
  | .fcmpEq rd fa fb => some (encodeRRR 0x11#6 7#7 (fb.setWidth 6) (fa.setWidth 6) rd)
  | .fcmpLt rd fa fb => some (encodeRRR 0x11#6 23#7 (fb.setWidth 6) (fa.setWidth 6) rd)
  | .fcmpLe rd fa fb => some (encodeRRR 0x11#6 39#7 (fb.setWidth 6) (fa.setWidth 6) rd)
  | .fcmpUn rd fa fb => some (encodeRRR 0x11#6 55#7 (fb.setWidth 6) (fa.setWidth 6) rd)
  | .fcvtFS fd ra => some (encodeRRR 0x12#6 0#7 0#6 ra (fd.setWidth 6))
  | .fcvtFU fd ra => some (encodeRRR 0x12#6 1#7 0#6 ra (fd.setWidth 6))
  | .fcvtSF rd fa => some (encodeRRR 0x12#6 2#7 0#6 (fa.setWidth 6) rd)
  | .fcvtUF rd fa => some (encodeRRR 0x12#6 3#7 0#6 (fa.setWidth 6) rd)
  | .fcvtFH fd ra => some (encodeRRR 0x12#6 4#7 0#6 ra (fd.setWidth 6))
  | .fcvtHF rd fa => some (encodeRRR 0x12#6 5#7 0#6 (fa.setWidth 6) rd)
  | .fcvtFBf fd ra => some (encodeRRR 0x12#6 6#7 0#6 ra (fd.setWidth 6))
  | .fcvtBfF rd fa => some (encodeRRR 0x12#6 7#7 0#6 (fa.setWidth 6) rd)
  | .fcvtFW fd ra => some (encodeRRR 0x12#6 8#7 0#6 ra (fd.setWidth 6))
  | .fcvtWF rd fa => some (encodeRRR 0x12#6 9#7 0#6 (fa.setWidth 6) rd)
  | .fcvtFD fd ra => some (encodeRRR 0x12#6 10#7 0#6 ra (fd.setWidth 6))
  | .fcvtDF rd fa => some (encodeRRR 0x12#6 11#7 0#6 (fa.setWidth 6) rd)
  | .fld fd ra imm => some (encodeRRI 0x13#6 imm ra (fd.setWidth 6))
  | .fst fd ra imm => some (encodeRRI 0x14#6 imm ra (fd.setWidth 6))
  | .fldr fd ra k => some (encodeRRK 0x15#6 0#5 k ra (fd.setWidth 6))
  | .fstr fd ra k => some (encodeRRK 0x15#6 1#5 k ra (fd.setWidth 6))
  | .setprecKeep rd ra k => some (encodeRRK 0x16#6 0#5 k ra rd)
  | .setprecClear rd ra k => some (encodeRRK 0x16#6 1#5 k ra rd)
  | .getprec rd => some (encodeRRK 0x16#6 2#5 0#8 0#6 rd)
  | .hld hd rs la => some (encodeM 0x18#6 0#3 la rs 0#4 0#4 hd)
  | .hst hd rs la => some (encodeM 0x18#6 1#3 la rs 0#4 0#4 hd)
  | .hadv hd ha rs la => some (encodeM 0x18#6 2#3 la rs 0#4 ha hd)
  | .hdim hd ha rs la => some (encodeM 0x18#6 3#3 la rs 0#4 ha hd)
  | .hset hd ra k => some (encodeRRK 0x19#6 0#5 k ra (hd.setWidth 6))
  | .hget rd ha k => some (encodeRRK 0x19#6 1#5 k (ha.setWidth 6) rd)
  | .vadd16 hd ha => some (encodeLane16 0#2 0#4 hd ha)
  | .vaddR hd ha => some (encodeLane16 1#2 0#4 hd ha)
  | .vaddB hd ha => some (encodeLane16 2#2 0#4 hd ha)
  | .vsub16 hd ha => some (encodeLane16 0#2 1#4 hd ha)
  | .vsubR hd ha => some (encodeLane16 1#2 1#4 hd ha)
  | .vsubB hd ha => some (encodeLane16 2#2 1#4 hd ha)
  | .vmul16 hd ha => some (encodeLane16 0#2 2#4 hd ha)
  | .vmulR hd ha => some (encodeLane16 1#2 2#4 hd ha)
  | .vmulB hd ha => some (encodeLane16 2#2 2#4 hd ha)
  | .vfma16 hd ha => some (encodeLane16 0#2 3#4 hd ha)
  | .vmin16 hd ha => some (encodeLane16 0#2 4#4 hd ha)
  | .vminR hd ha => some (encodeLane16 1#2 4#4 hd ha)
  | .vminB hd ha => some (encodeLane16 2#2 4#4 hd ha)
  | .vmax16 hd ha => some (encodeLane16 0#2 5#4 hd ha)
  | .vmaxR hd ha => some (encodeLane16 1#2 5#4 hd ha)
  | .vmaxB hd ha => some (encodeLane16 2#2 5#4 hd ha)
  | .vabs16 hd ha => some (encodeLane16 0#2 6#4 hd ha)
  | .vneg16 hd ha => some (encodeLane16 0#2 7#4 hd ha)
  | .vcvt16 hd ha => some (encodeLane16 0#2 8#4 hd ha)
  | .vscale16 hd ha => some (encodeLane16 0#2 9#4 hd ha)
  | .vscaleR hd ha => some (encodeLane16 1#2 9#4 hd ha)
  | .vscaleB hd ha => some (encodeLane16 2#2 9#4 hd ha)
  | .vexp16 hd ha => some (encodeLane16 0#2 10#4 hd ha)
  | .vrcp16 hd ha => some (encodeLane16 0#2 11#4 hd ha)
  | .vcopy16 hd ha => some (encodeLane16 0#2 12#4 hd ha)
  | .vbcast16 hd ha => some (encodeLane16 0#2 13#4 hd ha)
  | .vredSum16 hd ha => some (encodeLane16 0#2 14#4 hd ha)
  | .vredSumD1 hd ha => some (encodeLane16 1#2 14#4 hd ha)
  | .vredSumD2 hd ha => some (encodeLane16 2#2 14#4 hd ha)
  | .vredMax16 hd ha => some (encodeLane16 0#2 15#4 hd ha)
  | .vredMaxD1 hd ha => some (encodeLane16 1#2 15#4 hd ha)
  | .vredMaxD2 hd ha => some (encodeLane16 2#2 15#4 hd ha)
  | .vadd hd ha hb la => some (encodeM 0x1C#6 0#3 la 0#6 hb ha hd)
  | .vsub hd ha hb la => some (encodeM 0x1C#6 1#3 la 0#6 hb ha hd)
  | .vmul hd ha hb la => some (encodeM 0x1C#6 2#3 la 0#6 hb ha hd)
  | .vfma hd ha hb la => some (encodeM 0x1C#6 3#3 la 0#6 hb ha hd)
  | .vmin hd ha hb la => some (encodeM 0x1C#6 4#3 la 0#6 hb ha hd)
  | .vmax hd ha hb la => some (encodeM 0x1C#6 5#3 la 0#6 hb ha hd)
  | .vabs hd ha la => some (encodeM 0x1C#6 6#3 la 0#6 0#4 ha hd)
  | .vneg hd ha la => some (encodeM 0x1C#6 7#3 la 0#6 0#4 ha hd)
  | .vcvt hd ha la => some (encodeM 0x1D#6 0#3 la 0#6 0#4 ha hd)
  | .vscale hd ha hb la => some (encodeM 0x1D#6 1#3 la 0#6 hb ha hd)
  | .vexp hd ha la => some (encodeM 0x1D#6 2#3 la 0#6 0#4 ha hd)
  | .vrcp hd ha la => some (encodeM 0x1D#6 3#3 la 0#6 0#4 ha hd)
  | .vcopy hd ha la => some (encodeM 0x1D#6 4#3 la 0#6 0#4 ha hd)
  | .vbcast hd ha la => some (encodeM 0x1D#6 5#3 la 0#6 0#4 ha hd)
  | .vredSum hd ha rs la => some (encodeM 0x1D#6 6#3 la rs 0#4 ha hd)
  | .vredMax hd ha rs la => some (encodeM 0x1D#6 7#3 la rs 0#4 ha hd)
  | .vand hd ha hb la => some (encodeM 0x1E#6 0#3 la 0#6 hb ha hd)
  | .vor hd ha hb la => some (encodeM 0x1E#6 1#3 la 0#6 hb ha hd)
  | .vxor hd ha hb la => some (encodeM 0x1E#6 2#3 la 0#6 hb ha hd)
  | .vshl hd ha hb la => some (encodeM 0x1E#6 3#3 la 0#6 hb ha hd)
  | .vshr hd ha hb la => some (encodeM 0x1E#6 4#3 la 0#6 hb ha hd)
  | .vrsqrt hd ha la => some (encodeM 0x1E#6 5#3 la 0#6 0#4 ha hd)
  | .vtanh hd ha la => some (encodeM 0x1E#6 6#3 la 0#6 0#4 ha hd)
  | .vcmp hd ha hb rs la => some (encodeM 0x1E#6 7#3 la rs hb ha hd)
  | .vsel hd ha hb rs la => some (encodeM 0x1F#6 0#3 la rs hb ha hd)
  | .vcompress hd ha rs la => some (encodeM 0x1F#6 1#3 la rs 0#4 ha hd)
  | .vexpand hd ha rs la => some (encodeM 0x1F#6 2#3 la rs 0#4 ha hd)
  | .vsp24 hd ha hb la => some (encodeM 0x1F#6 3#3 la 0#6 hb ha hd)
  | .vsmx hd ha la => some (encodeM 0x1F#6 4#3 la 0#6 0#4 ha hd)
  | .vtopk hd ha rs la => some (encodeM 0x1F#6 5#3 la rs 0#4 ha hd)
  | .vgather hd ha hb rs la => some (encodeM 0x1F#6 6#3 la rs hb ha hd)
  | .vscatter hd ha hb rs la => some (encodeM 0x1F#6 7#3 la rs hb ha hd)
  | .viota hd rs la => some (encodeM 0x20#6 0#3 la rs 0#4 0#4 hd)
  | .vcvtKeep hd ha rs la => some (encodeM 0x20#6 1#3 la rs 0#4 ha hd)
  | .laneExecute => none
  | .laneComplete => none
  | .mldW ha la => some (encodeM 0x24#6 0#3 la 0#6 0#4 ha 0#4)
  | .mswap => some (encodeM 0x24#6 1#3 0#4 0#6 0#4 0#4 0#4)
  | .mma ha rs la => some (encodeM 0x24#6 2#3 la rs 0#4 ha 0#4)
  | .mst hd rs la => some (encodeM 0x24#6 3#3 la rs 0#4 0#4 hd)
  | .mzero => some (encodeM 0x24#6 4#3 0#4 0#6 0#4 0#4 0#4)
  | .mstat rs la => some (encodeM 0x24#6 5#3 la rs 0#4 0#4 0#4)
  | .mldR ha rs la => some (encodeM 0x24#6 6#3 la rs 0#4 ha 0#4)
  | .matrixEntryExecute => none
  | .ldB rd ra rb la => some (encodeLX 0x28#6 0#3 la rb ra rd)
  | .ldBu rd ra rb la => some (encodeLX 0x28#6 1#3 la rb ra rd)
  | .ldH rd ra rb la => some (encodeLX 0x28#6 2#3 la rb ra rd)
  | .ldHu rd ra rb la => some (encodeLX 0x28#6 3#3 la rb ra rd)
  | .ldW rd ra rb la => some (encodeLX 0x28#6 4#3 la rb ra rd)
  | .ldWu rd ra rb la => some (encodeLX 0x28#6 5#3 la rb ra rd)
  | .ldD rd ra rb la => some (encodeLX 0x28#6 6#3 la rb ra rd)
  | .ldNt rd ra rb la => some (encodeLX 0x28#6 7#3 la rb ra rd)
  | .loadDataArrival => none
  | .stB rd ra rb => some (encodeRRR 0x29#6 0#7 rb ra rd)
  | .stH rd ra rb => some (encodeRRR 0x29#6 1#7 rb ra rd)
  | .stW rd ra rb => some (encodeRRR 0x29#6 2#7 rb ra rd)
  | .stD rd ra rb => some (encodeRRR 0x29#6 3#7 rb ra rd)
  | .stNt rd ra rb => some (encodeRRR 0x29#6 4#7 rb ra rd)
  | .ntLineWriteOut => none
  | .pf ra rb => some (encodeRRR 0x2A#6 0#7 rb ra 0#6)
  | .amoAdd rd ra rb la => some (encodeLX 0x2B#6 0#3 la rb ra rd)
  | .amoAnd rd ra rb la => some (encodeLX 0x2B#6 1#3 la rb ra rd)
  | .amoOr rd ra rb la => some (encodeLX 0x2B#6 2#3 la rb ra rd)
  | .amoXor rd ra rb la => some (encodeLX 0x2B#6 3#3 la rb ra rd)
  | .amoMin rd ra rb la => some (encodeLX 0x2B#6 4#3 la rb ra rd)
  | .amoMax rd ra rb la => some (encodeLX 0x2B#6 5#3 la rb ra rd)
  | .amoMinu rd ra rb la => some (encodeLX 0x2B#6 6#3 la rb ra rd)
  | .amoMaxu rd ra rb la => some (encodeLX 0x2B#6 7#3 la rb ra rd)
  | .amoSwap rd ra rb la => some (encodeLX 0x2C#6 0#3 la rb ra rd)
  | .amoCas rd ra rb la => some (encodeLX 0x2C#6 1#3 la rb ra rd)
  | .amoFadd rd ra rb la => some (encodeLX 0x2C#6 2#3 la rb ra rd)
  | .clusterAtomic => none
  | .copy hd ha rs la => some (encodeM 0x2D#6 0#3 la rs 0#4 ha hd)
  | .copyH hd ha rs la => some (encodeM 0x2D#6 1#3 la rs 0#4 ha hd)
  | .copyR hd ha rs la => some (encodeM 0x2D#6 2#3 la rs 0#4 ha hd)
  | .copyDone => none
  | .acq ra k => some (encodeRRK 0x30#6 0#5 k ra 0#6)
  | .rel ra k => some (encodeRRK 0x30#6 1#5 k ra 0#6)
  | .fence => some (.long 0x10000061#32)
  | .drain => some (.long 0x18000061#32)
  | .lockRequest => none
  | .lockRelease => none
  | .lockRetry => none
  | .send rd ra rb => some (encodeRRR 0x34#6 0#7 rb ra rd)
  | .sendHi rd ra rb => some (encodeRRR 0x34#6 1#7 rb ra rd)
  | .sendMc rd ra rb => some (encodeRRR 0x34#6 2#7 rb ra rd)
  | .sendComb rd ra rb => some (encodeRRR 0x34#6 3#7 rb ra rd)
  | .sendHold rd ra rb => some (encodeRRR 0x34#6 4#7 rb ra rd)
  | .dep rd ra rb => some (encodeRRR 0x34#6 5#7 rb ra rd)
  | .reply rd ra rb => some (encodeRRR 0x34#6 6#7 rb ra rd)
  | .msgld rd ra => some (encodeRRR 0x34#6 7#7 0#6 ra rd)
  | .commit rd => some (encodeRRR 0x34#6 8#7 0#6 0#6 rd)
  | .abort rd => some (encodeRRR 0x34#6 9#7 0#6 0#6 rd)
  | .outboxInject => none
  | .dispatchMessageArrival => none
  | .tipRefill => none
  | .dispatch => none
  | .deposit => none
  | .channelDeposit => none
  | .benchDeposit => none
  | .atomicDeposit => none
  | .counterMessage => none
  | .copyCompletion => none
  | .statusCompletion => none
  | .combiningMessage => none
  | .combineRouterArrival => none
  | .combineHoldExpiry => none
  | .matrixInvoke => none
  | .matrixInvokeRun => none
  | .matrixInvokeReply => none
  | .uewBuild rd ra rb => some (encodeRRR 0x35#6 0#7 rb ra rd)
  | .uewPost rd ra => some (encodeRRR 0x35#6 1#7 0#6 ra rd)
  | .ueSend => none
  | .ueWrite => none
  | .ueRead => none
  | .ueRecv => none
  | .ueDataPacket => none
  | .ueAcknowledgement => none
  | .ueRetransmitTimeout => none
  | .cntInc ra rb => some (encodeRRR 0x38#6 0#7 rb ra 0#6)
  | .cntRd rd ra => some (encodeRRR 0x38#6 1#7 0#6 ra rd)
  | .cntWait rd ra rb => some (encodeRRR 0x38#6 2#7 rb ra rd)
  | .launch rd ra rb => some (encodeRRR 0x38#6 3#7 rb ra rd)
  | .cancel rd ra => some (encodeRRR 0x38#6 4#7 0#6 ra rd)
  | .masterLaunchRequest => none
  | .masterCancelRequest => none
  | .cancelFilterInstall => none
  | .barSet ra => some (encodeRRR 0x39#6 0#7 0#6 ra 0#6)
  | .barArrive rd => some (encodeRRR 0x39#6 1#7 0#6 0#6 rd)
  | .barWait ra => some (encodeRRR 0x39#6 2#7 0#6 ra 0#6)
  | .wtagAny rd ra => some (encodeRRR 0x39#6 3#7 0#6 ra rd)
  | .wtagAll rd ra => some (encodeRRR 0x39#6 4#7 0#6 ra rd)
  | .ffr rd ra => some (encodeRRR 0x39#6 5#7 0#6 ra rd)
  | .tagClr ra => some (encodeRRR 0x39#6 6#7 0#6 ra 0#6)
  | .barrierRowToken => none
  | .barrierColumnToken => none
  | .barrierRelease => none
  | .iclk rd ra rb => some (encodeRRR 0x3A#6 0#7 rb ra rd)
  | .perfRd rd ra => some (encodeRRR 0x3A#6 1#7 0#6 ra rd)
  | .iset ra rb => some (encodeRRR 0x3B#6 0#7 rb ra 0#6)
  | .iget rd ra => some (encodeRRR 0x3B#6 1#7 0#6 ra rd)
  | .isave ra => some (encodeRRR 0x3B#6 2#7 0#6 ra 0#6)
  | .irest ra => some (encodeRRR 0x3B#6 3#7 0#6 ra 0#6)
  | .istep rd ra rb => some (encodeRRR 0x3B#6 4#7 rb ra rd)
  | .isnap ra rb => some (encodeRRR 0x3B#6 5#7 rb ra 0#6)
  | .ibind ra rb => some (encodeRRR 0x3B#6 6#7 rb ra 0#6)
  | .iin ra rb => some (encodeRRR 0x3B#6 7#7 rb ra 0#6)
  | .stepClockTick => none
  | .triggerQueueTransfer => none
  | .gangLead => some (.long 0x0000007B#32)
  | .gangJoin => some (.long 0x0800007B#32)
  | .gangLeave => some (encodeRRK 0x3D#6 2#5 0#8 0#6 0#6)
  | .mfc rd csr => some (.long (0#1 ++ csr ++ 0#6 ++ rd ++ 0x3E#6 ++ 1#1))
  | .mtc ra csr => some (.long (0#1 ++ csr ++ ra ++ 0#6 ++ 0x3E#6 ++ 1#1))
  | .preqWrite => none
  | .restoreStart => none
  | .jobswSave => none
  | .jobswRestore => none
  | .ctxcmdFree => none
  | .ctxcmdFreeFaulted => none
  | .trap => some (.long 0x8000007D#32)
  | .eret => some (encodeRRK 0x3E#6 17#5 0#8 0#6 0#6)
  | .brk => some (.long 0x9000007D#32)
  | .nopW => some (encodeRRK 0x3E#6 19#5 0#8 0#6 0#6)
  | .nopShort => some (.short 0x8000#16)
  | .endShort => some (.short 0x8002#16)
  | .endW => some (encodeRRK 0x3E#6 20#5 0#8 0#6 0#6)
  | .rep => some (.short 0x8004#16)
  | .safe => some (.long 0xA800007D#32)
  | .forcedSave => none
  | .saveComplete => none
  | .supervisorActivation => none
  | .bindh rd ra k => some (encodeRRK 0x3E#6 22#5 k ra rd)
  | .unbindh rd k => some (encodeRRK 0x3E#6 23#5 k 0#6 rd)
  | .bind rd ra => some (encodeRRK 0x3E#6 24#5 0#8 ra rd)
  | .unbind rd ra => some (encodeRRK 0x3E#6 25#5 0#8 ra rd)
  | .publish rd => some (encodeRRK 0x3E#6 26#5 0#8 0#6 rd)
  | .publishDefine rd ra => some (encodeRRK 0x3E#6 26#5 1#8 ra rd)
  | .publishRemove rd => some (encodeRRK 0x3E#6 26#5 2#8 0#6 rd)
  | .publishExchange => none
  | .ipatch rd ra k => some (encodeRRK 0x3E#6 27#5 k ra rd)
  | .tlbinv ra k => some (encodeRRK 0x3E#6 28#5 k ra 0#6)
  | .tlbpin rd ra k => some (encodeRRK 0x3E#6 29#5 k ra rd)
  | .cmapRd rd ra k => some (encodeRRK 0x3E#6 30#5 k ra rd)
  | .pageWalk => none
  | .bindingChangeApply => none
  | .bindingTableFetch => none
  | .regionBindingApply => none
  | .derrickDispatch => none
  | .chunkDeal => none
  | .constantFill => none
  | .launchPromotion => none
  | .deltaFlush => none
  | .sweepStart => none
  | .sweepAcknowledge => none
  | .sweepComplete => none
  | .completionEvent => none
  | .dieFence => none
  | .masterElection => none
  | .coreMapReplace => none
  | .bankFailureMark => none
  | .scrubStripe => none
  | .registerSoftError => none
  | .flitReceive => none
  | .retrain => none
  | .linkDown => none
  | .lostNodeFlit => none
  | .msg => none
  | .ldreq => none
  | .streq => none
  | .amoreq => none
  | .lockreq => none
  | .ldrsp => none
  | .stxlt => none
  | .stdone => none
  | .amorsp => none
  | .lockrsp => none
  | .err => none
  | .requestTimeout => none
  | .writei => none
  | .writed => none
  | .read => none
  | .mailboxLaunch => none
  | .mailboxCancel => none
  | .qready => none
  | .qmeas => none
  | .qcnt => none
  | .asidset => none
  | .importEntry => none
  | .ueset => none
  | .mailboxNop => none
  | .completionRecord => none
  | .hostRegisterWrite => none
  | .getVersion => none
  | .getCapabilities => none
  | .negotiateAlgorithms => none
  | .getDigests => none
  | .getCertificate => none
  | .challenge => none
  | .getMeasurements => none
  | .powerOn => none
  | .functionReady => none
  | .deviceReset => none
  | .coreReset => none
  | .presenceLoss => none
  | .thermalStepDown => none
  | .thermalTrip => none
  | .illegalInstruction => none
  | .matrixFetchReply => none
  | .homeCacheWrite => none
  | .commandWindowWrite => none
  | .launchIdRelease => none
  | .linkResume => none
  | .managementTableWrite => none
  | .counterClear => none

/-- The length in bytes of an encoded instruction (R87): two for the 16-bit forms, four for the others. -/
def Instr.length (i : Instr) : Nat :=
  match encode i with
  | some (.short _) => 2
  | _ => 4

/-- The register fields of an instruction that a repeat prefix may step (R93): mask bit, lowest bit of the field in
the instruction, and the number of bits the sum is taken in. A 6-bit field that names a handle is stepped modulo 16 too
(log 93). -/
def Instr.stepFields (i : Instr) : List (Nat × Nat × Nat) :=
  match i with
  | .add _ _ _ => [(0, 7, 6), (1, 13, 6), (2, 19, 6)]
  | .sub _ _ _ => [(0, 7, 6), (1, 13, 6), (2, 19, 6)]
  | .mul _ _ _ => [(0, 7, 6), (1, 13, 6), (2, 19, 6)]
  | .mulh _ _ _ => [(0, 7, 6), (1, 13, 6), (2, 19, 6)]
  | .mulhu _ _ _ => [(0, 7, 6), (1, 13, 6), (2, 19, 6)]
  | .div _ _ _ => [(0, 7, 6), (1, 13, 6), (2, 19, 6)]
  | .divu _ _ _ => [(0, 7, 6), (1, 13, 6), (2, 19, 6)]
  | .rem _ _ _ => [(0, 7, 6), (1, 13, 6), (2, 19, 6)]
  | .remu _ _ _ => [(0, 7, 6), (1, 13, 6), (2, 19, 6)]
  | .and _ _ _ => [(0, 7, 6), (1, 13, 6), (2, 19, 6)]
  | .or _ _ _ => [(0, 7, 6), (1, 13, 6), (2, 19, 6)]
  | .xor _ _ _ => [(0, 7, 6), (1, 13, 6), (2, 19, 6)]
  | .andn _ _ _ => [(0, 7, 6), (1, 13, 6), (2, 19, 6)]
  | .shl _ _ _ => [(0, 7, 6), (1, 13, 6), (2, 19, 6)]
  | .shr _ _ _ => [(0, 7, 6), (1, 13, 6), (2, 19, 6)]
  | .sar _ _ _ => [(0, 7, 6), (1, 13, 6), (2, 19, 6)]
  | .rol _ _ _ => [(0, 7, 6), (1, 13, 6), (2, 19, 6)]
  | .min _ _ _ => [(0, 7, 6), (1, 13, 6), (2, 19, 6)]
  | .max _ _ _ => [(0, 7, 6), (1, 13, 6), (2, 19, 6)]
  | .minu _ _ _ => [(0, 7, 6), (1, 13, 6), (2, 19, 6)]
  | .maxu _ _ _ => [(0, 7, 6), (1, 13, 6), (2, 19, 6)]
  | .slt _ _ _ => [(0, 7, 6), (1, 13, 6), (2, 19, 6)]
  | .sltu _ _ _ => [(0, 7, 6), (1, 13, 6), (2, 19, 6)]
  | .seq _ _ _ => [(0, 7, 6), (1, 13, 6), (2, 19, 6)]
  | .sel _ _ _ => [(0, 7, 6), (1, 13, 6), (2, 19, 6)]
  | .clz _ _ => [(0, 7, 6), (1, 13, 6)]
  | .ctz _ _ => [(0, 7, 6), (1, 13, 6)]
  | .popc _ _ => [(0, 7, 6), (1, 13, 6)]
  | .bext _ _ _ => [(0, 7, 6), (1, 13, 6), (2, 19, 6)]
  | .bins _ _ _ => [(0, 7, 6), (1, 13, 6), (2, 19, 6)]
  | .shli _ _ _ => [(0, 7, 6), (1, 13, 6)]
  | .shri _ _ _ => [(0, 7, 6), (1, 13, 6)]
  | .sari _ _ _ => [(0, 7, 6), (1, 13, 6)]
  | .lea _ _ _ => [(0, 7, 6), (1, 13, 6)]
  | .addi _ _ _ => [(0, 7, 6), (1, 13, 6)]
  | .andi _ _ _ => [(0, 7, 6), (1, 13, 6)]
  | .ori _ _ _ => [(0, 7, 6), (1, 13, 6)]
  | .xori _ _ _ => [(0, 7, 6), (1, 13, 6)]
  | .slti _ _ _ => [(0, 7, 6), (1, 13, 6)]
  | .lui _ _ => [(0, 7, 6)]
  | .bEq _ _ => []
  | .bNe _ _ => []
  | .bLt _ _ => []
  | .bGe _ _ => []
  | .bLtu _ _ => []
  | .bGeu _ _ => []
  | .j _ => []
  | .jal _ => []
  | .jalr _ _ _ => []
  | .ldk _ _ => [(0, 7, 6)]
  | .addk _ _ _ => [(0, 7, 6), (1, 13, 6)]
  | .fadd _ _ _ => [(0, 7, 5), (1, 13, 5), (2, 19, 5)]
  | .fsub _ _ _ => [(0, 7, 5), (1, 13, 5), (2, 19, 5)]
  | .fmul _ _ _ => [(0, 7, 5), (1, 13, 5), (2, 19, 5)]
  | .fdiv _ _ _ => [(0, 7, 5), (1, 13, 5), (2, 19, 5)]
  | .ffma _ _ _ => [(0, 7, 5), (1, 13, 5), (2, 19, 5)]
  | .fnma _ _ _ => [(0, 7, 5), (1, 13, 5), (2, 19, 5)]
  | .fmin _ _ _ => [(0, 7, 5), (1, 13, 5), (2, 19, 5)]
  | .fmax _ _ _ => [(0, 7, 5), (1, 13, 5), (2, 19, 5)]
  | .fsqrt _ _ => [(0, 7, 5), (1, 13, 5)]
  | .fneg _ _ => [(0, 7, 5), (1, 13, 5)]
  | .fabs _ _ => [(0, 7, 5), (1, 13, 5)]
  | .fclass _ _ => [(0, 7, 6), (1, 13, 5)]
  | .fround _ _ => [(0, 7, 5), (1, 13, 5)]
  | .fmvX _ _ _ => [(0, 7, 6), (1, 13, 5)]
  | .fmvF _ _ _ => [(0, 7, 5), (1, 13, 6)]
  | .fcmpEq _ _ _ => [(0, 7, 6), (1, 13, 5), (2, 19, 5)]
  | .fcmpLt _ _ _ => [(0, 7, 6), (1, 13, 5), (2, 19, 5)]
  | .fcmpLe _ _ _ => [(0, 7, 6), (1, 13, 5), (2, 19, 5)]
  | .fcmpUn _ _ _ => [(0, 7, 6), (1, 13, 5), (2, 19, 5)]
  | .fcvtFS _ _ => [(0, 7, 5), (1, 13, 6)]
  | .fcvtFU _ _ => [(0, 7, 5), (1, 13, 6)]
  | .fcvtSF _ _ => [(0, 7, 6), (1, 13, 5)]
  | .fcvtUF _ _ => [(0, 7, 6), (1, 13, 5)]
  | .fcvtFH _ _ => [(0, 7, 5), (1, 13, 6)]
  | .fcvtHF _ _ => [(0, 7, 6), (1, 13, 5)]
  | .fcvtFBf _ _ => [(0, 7, 5), (1, 13, 6)]
  | .fcvtBfF _ _ => [(0, 7, 6), (1, 13, 5)]
  | .fcvtFW _ _ => [(0, 7, 5), (1, 13, 6)]
  | .fcvtWF _ _ => [(0, 7, 6), (1, 13, 5)]
  | .fcvtFD _ _ => [(0, 7, 5), (1, 13, 6)]
  | .fcvtDF _ _ => [(0, 7, 6), (1, 13, 5)]
  | .fld _ _ _ => [(0, 7, 5), (1, 13, 6)]
  | .fst _ _ _ => [(0, 7, 5), (1, 13, 6)]
  | .fldr _ _ _ => [(0, 7, 5), (1, 13, 6)]
  | .fstr _ _ _ => [(0, 7, 5), (1, 13, 6)]
  | .setprecKeep _ ra _ => if ra = 0 then [(0, 7, 6)] else [(0, 7, 6), (1, 13, 6)]
  | .setprecClear _ ra _ => if ra = 0 then [(0, 7, 6)] else [(0, 7, 6), (1, 13, 6)]
  | .getprec _ => [(0, 7, 6)]
  | .hld _ _ _ => [(0, 7, 4), (3, 19, 6)]
  | .hst _ _ _ => [(0, 7, 4), (3, 19, 6)]
  | .hadv _ _ _ _ => [(0, 7, 4), (1, 11, 4), (3, 19, 6)]
  | .hdim _ _ _ _ => [(0, 7, 4), (1, 11, 4), (3, 19, 6)]
  | .hset _ _ _ => [(0, 7, 4), (1, 13, 6)]
  | .hget _ _ _ => [(0, 7, 6), (1, 13, 4)]
  | .vadd16 _ _ => [(0, 5, 4), (1, 9, 4)]
  | .vaddR _ _ => [(0, 5, 4), (1, 9, 4)]
  | .vaddB _ _ => [(0, 5, 4), (1, 9, 4)]
  | .vsub16 _ _ => [(0, 5, 4), (1, 9, 4)]
  | .vsubR _ _ => [(0, 5, 4), (1, 9, 4)]
  | .vsubB _ _ => [(0, 5, 4), (1, 9, 4)]
  | .vmul16 _ _ => [(0, 5, 4), (1, 9, 4)]
  | .vmulR _ _ => [(0, 5, 4), (1, 9, 4)]
  | .vmulB _ _ => [(0, 5, 4), (1, 9, 4)]
  | .vfma16 _ _ => [(0, 5, 4), (1, 9, 4)]
  | .vmin16 _ _ => [(0, 5, 4), (1, 9, 4)]
  | .vminR _ _ => [(0, 5, 4), (1, 9, 4)]
  | .vminB _ _ => [(0, 5, 4), (1, 9, 4)]
  | .vmax16 _ _ => [(0, 5, 4), (1, 9, 4)]
  | .vmaxR _ _ => [(0, 5, 4), (1, 9, 4)]
  | .vmaxB _ _ => [(0, 5, 4), (1, 9, 4)]
  | .vabs16 _ _ => [(0, 5, 4), (1, 9, 4)]
  | .vneg16 _ _ => [(0, 5, 4), (1, 9, 4)]
  | .vcvt16 _ _ => [(0, 5, 4), (1, 9, 4)]
  | .vscale16 _ _ => [(0, 5, 4), (1, 9, 4)]
  | .vscaleR _ _ => [(0, 5, 4), (1, 9, 4)]
  | .vscaleB _ _ => [(0, 5, 4), (1, 9, 4)]
  | .vexp16 _ _ => [(0, 5, 4), (1, 9, 4)]
  | .vrcp16 _ _ => [(0, 5, 4), (1, 9, 4)]
  | .vcopy16 _ _ => [(0, 5, 4), (1, 9, 4)]
  | .vbcast16 _ _ => [(0, 5, 4), (1, 9, 4)]
  | .vredSum16 _ _ => [(0, 5, 4), (1, 9, 4)]
  | .vredSumD1 _ _ => [(0, 5, 4), (1, 9, 4)]
  | .vredSumD2 _ _ => [(0, 5, 4), (1, 9, 4)]
  | .vredMax16 _ _ => [(0, 5, 4), (1, 9, 4)]
  | .vredMaxD1 _ _ => [(0, 5, 4), (1, 9, 4)]
  | .vredMaxD2 _ _ => [(0, 5, 4), (1, 9, 4)]
  | .vadd _ _ _ _ => [(0, 7, 4), (1, 11, 4), (2, 15, 4)]
  | .vsub _ _ _ _ => [(0, 7, 4), (1, 11, 4), (2, 15, 4)]
  | .vmul _ _ _ _ => [(0, 7, 4), (1, 11, 4), (2, 15, 4)]
  | .vfma _ _ _ _ => [(0, 7, 4), (1, 11, 4), (2, 15, 4)]
  | .vmin _ _ _ _ => [(0, 7, 4), (1, 11, 4), (2, 15, 4)]
  | .vmax _ _ _ _ => [(0, 7, 4), (1, 11, 4), (2, 15, 4)]
  | .vabs _ _ _ => [(0, 7, 4), (1, 11, 4)]
  | .vneg _ _ _ => [(0, 7, 4), (1, 11, 4)]
  | .vcvt _ _ _ => [(0, 7, 4), (1, 11, 4)]
  | .vscale _ _ _ _ => [(0, 7, 4), (1, 11, 4), (2, 15, 4)]
  | .vexp _ _ _ => [(0, 7, 4), (1, 11, 4)]
  | .vrcp _ _ _ => [(0, 7, 4), (1, 11, 4)]
  | .vcopy _ _ _ => [(0, 7, 4), (1, 11, 4)]
  | .vbcast _ _ _ => [(0, 7, 4), (1, 11, 4)]
  | .vredSum _ _ _ _ => [(0, 7, 4), (1, 11, 4), (3, 19, 6)]
  | .vredMax _ _ _ _ => [(0, 7, 4), (1, 11, 4), (3, 19, 6)]
  | .vand _ _ _ _ => [(0, 7, 4), (1, 11, 4), (2, 15, 4)]
  | .vor _ _ _ _ => [(0, 7, 4), (1, 11, 4), (2, 15, 4)]
  | .vxor _ _ _ _ => [(0, 7, 4), (1, 11, 4), (2, 15, 4)]
  | .vshl _ _ _ _ => [(0, 7, 4), (1, 11, 4), (2, 15, 4)]
  | .vshr _ _ _ _ => [(0, 7, 4), (1, 11, 4), (2, 15, 4)]
  | .vrsqrt _ _ _ => [(0, 7, 4), (1, 11, 4)]
  | .vtanh _ _ _ => [(0, 7, 4), (1, 11, 4)]
  | .vcmp _ _ _ _ _ => [(0, 7, 4), (1, 11, 4), (2, 15, 4), (3, 19, 6)]
  | .vsel _ _ _ _ _ => [(0, 7, 4), (1, 11, 4), (2, 15, 4), (3, 19, 6)]
  | .vcompress _ _ _ _ => [(0, 7, 4), (1, 11, 4), (3, 19, 6)]
  | .vexpand _ _ _ _ => [(0, 7, 4), (1, 11, 4), (3, 19, 6)]
  | .vsp24 _ _ _ _ => [(0, 7, 4), (1, 11, 4), (2, 15, 4)]
  | .vsmx _ _ _ => [(0, 7, 4), (1, 11, 4)]
  | .vtopk _ _ _ _ => [(0, 7, 4), (1, 11, 4), (3, 19, 6)]
  | .vgather _ _ _ _ _ => [(0, 7, 4), (1, 11, 4), (2, 15, 4), (3, 19, 6)]
  | .vscatter _ _ _ _ _ => [(0, 7, 4), (1, 11, 4), (2, 15, 4), (3, 19, 6)]
  | .viota _ _ _ => [(0, 7, 4), (3, 19, 6)]
  | .vcvtKeep _ _ _ _ => [(0, 7, 4), (1, 11, 4), (3, 19, 6)]
  | .laneExecute => []
  | .laneComplete => []
  | .mldW _ _ => [(1, 11, 4)]
  | .mswap => []
  | .mma _ _ _ => [(1, 11, 4), (3, 19, 6)]
  | .mst _ _ _ => [(0, 7, 4), (3, 19, 6)]
  | .mzero => []
  | .mstat _ _ => [(3, 19, 6)]
  | .mldR _ _ _ => [(1, 11, 4), (3, 19, 6)]
  | .matrixEntryExecute => []
  | .ldB _ _ _ _ => [(0, 7, 6), (1, 13, 6), (2, 19, 6)]
  | .ldBu _ _ _ _ => [(0, 7, 6), (1, 13, 6), (2, 19, 6)]
  | .ldH _ _ _ _ => [(0, 7, 6), (1, 13, 6), (2, 19, 6)]
  | .ldHu _ _ _ _ => [(0, 7, 6), (1, 13, 6), (2, 19, 6)]
  | .ldW _ _ _ _ => [(0, 7, 6), (1, 13, 6), (2, 19, 6)]
  | .ldWu _ _ _ _ => [(0, 7, 6), (1, 13, 6), (2, 19, 6)]
  | .ldD _ _ _ _ => [(0, 7, 6), (1, 13, 6), (2, 19, 6)]
  | .ldNt _ _ _ _ => [(0, 7, 6), (1, 13, 6), (2, 19, 6)]
  | .loadDataArrival => []
  | .stB _ _ _ => [(0, 7, 6), (1, 13, 6), (2, 19, 6)]
  | .stH _ _ _ => [(0, 7, 6), (1, 13, 6), (2, 19, 6)]
  | .stW _ _ _ => [(0, 7, 6), (1, 13, 6), (2, 19, 6)]
  | .stD _ _ _ => [(0, 7, 6), (1, 13, 6), (2, 19, 6)]
  | .stNt _ _ _ => [(0, 7, 6), (1, 13, 6), (2, 19, 6)]
  | .ntLineWriteOut => []
  | .pf _ _ => [(1, 13, 6), (2, 19, 6)]
  | .amoAdd _ _ _ _ => [(0, 7, 6), (1, 13, 6), (2, 19, 6)]
  | .amoAnd _ _ _ _ => [(0, 7, 6), (1, 13, 6), (2, 19, 6)]
  | .amoOr _ _ _ _ => [(0, 7, 6), (1, 13, 6), (2, 19, 6)]
  | .amoXor _ _ _ _ => [(0, 7, 6), (1, 13, 6), (2, 19, 6)]
  | .amoMin _ _ _ _ => [(0, 7, 6), (1, 13, 6), (2, 19, 6)]
  | .amoMax _ _ _ _ => [(0, 7, 6), (1, 13, 6), (2, 19, 6)]
  | .amoMinu _ _ _ _ => [(0, 7, 6), (1, 13, 6), (2, 19, 6)]
  | .amoMaxu _ _ _ _ => [(0, 7, 6), (1, 13, 6), (2, 19, 6)]
  | .amoSwap _ _ _ _ => [(0, 7, 6), (1, 13, 6), (2, 19, 6)]
  | .amoCas _ _ _ _ => [(0, 7, 6), (1, 13, 6), (2, 19, 6)]
  | .amoFadd _ _ _ _ => [(0, 7, 6), (1, 13, 6), (2, 19, 6)]
  | .clusterAtomic => []
  | .copy _ _ _ _ => [(0, 7, 4), (1, 11, 4), (3, 19, 6)]
  | .copyH _ _ _ _ => [(0, 7, 4), (1, 11, 4), (3, 19, 6)]
  | .copyR _ _ _ _ => [(0, 7, 4), (1, 11, 4), (3, 19, 6)]
  | .copyDone => []
  | .acq _ _ => [(1, 13, 6)]
  | .rel _ _ => [(1, 13, 6)]
  | .fence => []
  | .drain => []
  | .lockRequest => []
  | .lockRelease => []
  | .lockRetry => []
  | .send _ _ _ => [(0, 7, 6), (1, 13, 6), (2, 19, 6)]
  | .sendHi _ _ _ => [(0, 7, 6), (1, 13, 6), (2, 19, 6)]
  | .sendMc _ _ _ => [(0, 7, 6), (1, 13, 6), (2, 19, 6)]
  | .sendComb _ _ _ => [(0, 7, 6), (1, 13, 6), (2, 19, 6)]
  | .sendHold _ _ _ => [(0, 7, 6), (1, 13, 6), (2, 19, 6)]
  | .dep _ _ _ => [(0, 7, 6), (1, 13, 6), (2, 19, 6)]
  | .reply _ _ _ => [(0, 7, 6), (1, 13, 6), (2, 19, 6)]
  | .msgld _ _ => [(0, 7, 6), (1, 13, 6)]
  | .commit _ => [(0, 7, 6)]
  | .abort _ => [(0, 7, 6)]
  | .outboxInject => []
  | .dispatchMessageArrival => []
  | .tipRefill => []
  | .dispatch => []
  | .deposit => []
  | .channelDeposit => []
  | .benchDeposit => []
  | .atomicDeposit => []
  | .counterMessage => []
  | .copyCompletion => []
  | .statusCompletion => []
  | .combiningMessage => []
  | .combineRouterArrival => []
  | .combineHoldExpiry => []
  | .matrixInvoke => []
  | .matrixInvokeRun => []
  | .matrixInvokeReply => []
  | .uewBuild _ _ _ => [(0, 7, 6), (1, 13, 6), (2, 19, 6)]
  | .uewPost _ _ => [(0, 7, 6), (1, 13, 6)]
  | .ueSend => []
  | .ueWrite => []
  | .ueRead => []
  | .ueRecv => []
  | .ueDataPacket => []
  | .ueAcknowledgement => []
  | .ueRetransmitTimeout => []
  | .cntInc _ _ => [(1, 13, 6), (2, 19, 6)]
  | .cntRd _ _ => [(0, 7, 6), (1, 13, 6)]
  | .cntWait _ _ _ => [(0, 7, 6), (1, 13, 6), (2, 19, 6)]
  | .launch _ _ _ => [(0, 7, 6), (1, 13, 6), (2, 19, 6)]
  | .cancel _ _ => [(0, 7, 6), (1, 13, 6)]
  | .masterLaunchRequest => []
  | .masterCancelRequest => []
  | .cancelFilterInstall => []
  | .barSet _ => [(1, 13, 6)]
  | .barArrive _ => [(0, 7, 6)]
  | .barWait _ => [(1, 13, 6)]
  | .wtagAny _ _ => [(0, 7, 6), (1, 13, 6)]
  | .wtagAll _ _ => [(0, 7, 6), (1, 13, 6)]
  | .ffr _ _ => [(0, 7, 6), (1, 13, 6)]
  | .tagClr _ => [(1, 13, 6)]
  | .barrierRowToken => []
  | .barrierColumnToken => []
  | .barrierRelease => []
  | .iclk _ _ _ => [(0, 7, 6), (1, 13, 6), (2, 19, 6)]
  | .perfRd _ _ => [(0, 7, 6), (1, 13, 6)]
  | .iset _ _ => [(1, 13, 6), (2, 19, 6)]
  | .iget _ _ => [(0, 7, 6), (1, 13, 6)]
  | .isave _ => [(1, 13, 6)]
  | .irest _ => [(1, 13, 6)]
  | .istep _ _ _ => [(0, 7, 6), (1, 13, 6), (2, 19, 6)]
  | .isnap _ _ => [(1, 13, 6), (2, 19, 6)]
  | .ibind _ _ => [(1, 13, 6), (2, 19, 6)]
  | .iin _ _ => [(1, 13, 6), (2, 19, 6)]
  | .stepClockTick => []
  | .triggerQueueTransfer => []
  | .gangLead => []
  | .gangJoin => []
  | .gangLeave => []
  | .mfc _ _ => []
  | .mtc _ _ => []
  | .preqWrite => []
  | .restoreStart => []
  | .jobswSave => []
  | .jobswRestore => []
  | .ctxcmdFree => []
  | .ctxcmdFreeFaulted => []
  | .trap => []
  | .eret => []
  | .brk => []
  | .nopW => []
  | .nopShort => []
  | .endShort => []
  | .endW => []
  | .rep => []
  | .safe => []
  | .forcedSave => []
  | .saveComplete => []
  | .supervisorActivation => []
  | .bindh _ _ _ => []
  | .unbindh _ _ => []
  | .bind _ _ => []
  | .unbind _ _ => []
  | .publish _ => []
  | .publishDefine _ _ => []
  | .publishRemove _ => []
  | .publishExchange => []
  | .ipatch _ _ _ => []
  | .tlbinv _ _ => []
  | .tlbpin _ _ _ => []
  | .cmapRd _ _ _ => []
  | .pageWalk => []
  | .bindingChangeApply => []
  | .bindingTableFetch => []
  | .regionBindingApply => []
  | .derrickDispatch => []
  | .chunkDeal => []
  | .constantFill => []
  | .launchPromotion => []
  | .deltaFlush => []
  | .sweepStart => []
  | .sweepAcknowledge => []
  | .sweepComplete => []
  | .completionEvent => []
  | .dieFence => []
  | .masterElection => []
  | .coreMapReplace => []
  | .bankFailureMark => []
  | .scrubStripe => []
  | .registerSoftError => []
  | .flitReceive => []
  | .retrain => []
  | .linkDown => []
  | .lostNodeFlit => []
  | .msg => []
  | .ldreq => []
  | .streq => []
  | .amoreq => []
  | .lockreq => []
  | .ldrsp => []
  | .stxlt => []
  | .stdone => []
  | .amorsp => []
  | .lockrsp => []
  | .err => []
  | .requestTimeout => []
  | .writei => []
  | .writed => []
  | .read => []
  | .mailboxLaunch => []
  | .mailboxCancel => []
  | .qready => []
  | .qmeas => []
  | .qcnt => []
  | .asidset => []
  | .importEntry => []
  | .ueset => []
  | .mailboxNop => []
  | .completionRecord => []
  | .hostRegisterWrite => []
  | .getVersion => []
  | .getCapabilities => []
  | .negotiateAlgorithms => []
  | .getDigests => []
  | .getCertificate => []
  | .challenge => []
  | .getMeasurements => []
  | .powerOn => []
  | .functionReady => []
  | .deviceReset => []
  | .coreReset => []
  | .presenceLoss => []
  | .thermalStepDown => []
  | .thermalTrip => []
  | .illegalInstruction => []
  | .matrixFetchReply => []
  | .homeCacheWrite => []
  | .commandWindowWrite => []
  | .launchIdRelease => []
  | .linkResume => []
  | .managementTableWrite => []
  | .counterClear => []

end Sys2Proof
end

