-- ==== Sys2Proof/Machine/Input.lean ====
section
/-! DEFINITION. What stands beside a step that no core fetches (spec/95_what_each_step_holds.md): the unit that moves,
the entry of its queue, and what arrives from outside the package. The opcode table gives these rows no fields, so
the values stand in the state's input latch (log 1, log 4). -/

namespace Sys2Proof.Machine

/-- Bytes of a `copy.r` deposit (R246): offset, the bits written, and their values; with the copy's tag in its last
deposit. -/
structure CopyPart where
  bytes : List (Nat × Byte × Byte)
  last : Option Nat
  deriving DecidableEq, Repr

/-- A packet of an Isder link: the fields of word 0, word 1, whether a reserved bit is set, and the data (R425). -/
structure Packet where
  kind : Nat := 0
  txid : Nat := 0
  asid : Nat := 0
  dst : Nat := 0
  src : Nat := 0
  len : Nat := 0
  word1 : Word := 0
  reserved : Bool := false
  data : List Byte := []
  deriving DecidableEq, Repr

/-- What an Isder flit says once its CRC and FEC have been checked (R423, R424); `lost` is the node that a
link-control flit of a switch die names (R430), `retrain` a partner's request (R429). `part` says what a deposit of a
`copy.r` writes (log 87). -/
structure Flit where
  crcOk : Bool := true
  fseq : Nat := 0
  aseq : Nat := 0
  ack : Nat := 0
  cvc : Nat := 0
  cred : Nat := 0
  ftype : Nat := 0
  packet : Packet := {}
  lost : Option Nat := none
  retrain : Bool := false
  part : Option CopyPart := none
  deriving DecidableEq, Repr

/-- What an Ultra Ethernet data packet belongs to (R431, R333). -/
inductive UeKind where
  | send
  | write
  | readRequest
  | readData
  | tunnel
  deriving DecidableEq, Repr

/-- A data packet at a network engine (R440 to R443): the source address and endpoint, its PSN, delivery mode, its
request's message number, key, offset and total length, the offset of a WRITE's first byte, its bytes, and what a tunnelled
deposit of a `copy.r` writes (log 87). -/
structure UePacket where
  mac : BitVec 48 := 0
  ip : BitVec 128 := 0
  endpoint : Nat := 0
  psn : Nat := 0
  kind : UeKind := .send
  ordered : Bool := false
  message : Nat := 0
  key : Nat := 0
  offset : Nat := 0
  base : Nat := 0
  total : Nat := 0
  data : List Byte := []
  part : Option CopyPart := none
  deriving DecidableEq, Repr

/-- A control packet (R440): the peer entry it comes from, the cumulative value, the bitmap, and the PSNs of packets
whose requests the peer ends: they were refused, or their messages do not fit (R431, R442). -/
structure UeAck where
  peer : Nat := 0
  cumulative : Nat := 0
  bitmap : BitVec 64 := 0
  refused : List Nat := []
  deriving DecidableEq, Repr

/-- A firmware image as the boot ROM or management finds it (R432, R433): whether its verification passes, its
version, the signing key's index and its SHA-512 digest. -/
structure Firmware where
  verified : Bool := false
  version : BitVec 32 := 0
  key : BitVec 8 := 0
  digest : BitVec 512 := 0
  deriving DecidableEq, Repr

/-- What management writes (R366, R172, R224, R380, R393, R433). -/
inductive MgmtWrite where
  | nothing
  | region (index : Nat) (words : List Word)
  | publish (die index : Nat) (words : List Word)
  | asid (index : Nat) (entry : Word)
  | route (node : Nat) (entry : Word)
  | node (n : Nat)
  | jobStart (asid : Nat)
  | coreAsid (core asid : Nat)
  | measured (component : Nat) (image : Firmware)
  | jobSwitch (core asid priority : Nat)
  | stepClock (megahertz : Nat)
  deriving DecidableEq, Repr

/-- The input latch: which unit the step belongs to, which entry of its queue moves, and the data that come from
outside. A step reads the fields its docstring names. -/
structure Input where
  die : Nat := 0
  core : Nat := 0
  ctx : Nat := 0
  n : Nat := 0
  m : Nat := 0
  flag : Bool := false
  flag2 : Bool := false
  word : Word := 0
  words : List Word := []
  nonce : BitVec 256 := 0
  sites : List (Option Nat) := []
  packet : Packet := {}
  flit : Flit := {}
  uePacket : UePacket := {}
  ueAck : UeAck := {}
  firmware : Firmware := {}
  mgmt : MgmtWrite := .nothing
  bytes : List Byte := []
  deriving DecidableEq, Repr

end Sys2Proof.Machine
end

