-- ==== Sys2Proof/Machine/State.lean ====
section
/-! DEFINITION. The state of the whole module: four dies of cores, the routing plane, the master Derrick's tables and
the four boundaries (spec/00 to 15). Plain data throughout. A table is a list of keys and values in rising order of
key; a missing key stands for the value the table's operations name as its default (Machine/Tab.lean).

A core is named by its key 1024·die + 32·y + x, so 0 to 4095; `cores` lists the cores that differ from `Core.reset`. -/

namespace Sys2Proof.Machine

/-- A table keyed by natural numbers, in rising order of key. -/
abbrev Tab (α : Type) := List (Nat × α)

/-- Byte memory: (address, byte) pairs in rising order, none equal to 0; an unlisted byte reads 0 (log 2). -/
abbrev Memory := List Host.Cell

/-! ## Faults and refusals -/

/-- Why the machine stops. The faults of R180 are not among these: the supervisor takes them, as a next state. -/
inductive Fault where
  /-- Raised by `step` for an issue slot of a core site that the package does not have: a key above 4095, or a site
  that is fused off (R1, R2). Safe: the hardware has no such core. -/
  | absentCore
  deriving DecidableEq, Repr

/-- Why there is no meaning. -/
inductive Refusal where
  /-- Raised by Machine/Dispatch.lean for an instruction that has no meaning yet. Safe: nothing follows from it. -/
  | notModelled (mnemonic : String)
  deriving DecidableEq, Repr

/-! ## Messages -/

/-- A message: header words 0 and 1 and up to 24 payload words (R324 to R326). -/
structure Msg where
  hdr0 : Word := 0
  hdr1 : Word := 0
  payload : List Word := []
  deriving DecidableEq, Repr

/-- A message in a channel of the routing plane (R329): its sender (core key, or 4096 + die for a Derrick, 4100 + port for
traffic from another node), the issuing context, the destination core key (8192 + node for a combining message toward
another node), the router it comes to next when it combines (4096: its destination NI), whether a router has sent it on, whether it counts in a launch
delta (R31, R428), and the senders of the messages that have merged into it (R358). -/
structure Flight where
  msg : Msg
  src : Nat
  ctx : Nat := 15
  dest : Nat
  place : Nat := 4096
  routed : Bool := false
  counted : Bool := true
  also : List (Nat × Nat) := []
  part : Option CopyPart := none
  deriving DecidableEq, Repr

/-- An entry of an outbox (R334): a message with its resolved destination: cores of this node (several for a
multicast, R349), or another node. -/
structure OutEntry where
  msg : Msg
  ctx : Nat
  node : Nat
  dests : List Nat
  counted : Bool := true
  part : Option CopyPart := none
  deriving DecidableEq, Repr

/-- An entry of a Tip region or of the HI overflow pool (R335): its place there, in units of 256 bytes, and the message that
it holds. -/
structure TipEntry where
  slot : Nat
  msg : Msg
  deriving DecidableEq, Repr

/-- A held send (R352), with the context that holds it. -/
structure HeldSend where
  ctx : Nat
  msg : Msg
  node : Nat
  deriving DecidableEq, Repr

/-! ## Places of single bytes -/

/-- Where one byte of an access is read: a tile byte of a core, a byte of HBM, or a value that is already known (an
out-of-range byte, a byte that another node sent, an error value). -/
inductive Source where
  | tile (core offset : Nat)
  | hbm (pa : Nat)
  | known (b : Byte)
  deriving DecidableEq, Repr

/-- Where one byte of an access lies (R219). -/
inductive ByteRef where
  | tile (core offset : Nat)
  | outside (a : Word)
  | hbm (pa : Nat)
  | node (n va : Nat)
  deriving DecidableEq, Repr

/-- Where one byte of an access is written. -/
inductive Target where
  | tile (offset : Nat)
  | hbm (pa : Nat)
  | node (n va : Nat)
  | dropped
  deriving DecidableEq, Repr

/-! ## Requests to other nodes -/

/-- Who waits for another node's answer. -/
inductive Owner where
  | ctx (core c : Nat)
  | copy (core id : Nat)
  | matrix (core ctx id : Nat)
  | core (core : Nat)
  | line (core id : Nat) (ctxs : List Nat)
  | engine (die job : Nat)                      -- the job: what the engine transfers for
  | master
  | mailbox
  | left (core c : Nat)                         -- a write of a context whose instruction was abandoned (R266)
  | gone                                        -- the unit no longer waits
  deriving DecidableEq, Repr

/-- What is asked of another node (R425). -/
inductive Ask where
  | load (len : Nat)
  | store (data : List Byte)
  | confirm
  | atomic (op : Nat) (b x : Word)
  | acquire (shared : Bool)
  | release (shared : Bool)
  deriving DecidableEq, Repr

/-- A request with its address: the node, the ASID and the virtual address. -/
structure Query where
  node : Nat
  asid : Nat
  va : Nat
  ask : Ask
  deriving DecidableEq, Repr

/-- An answer: its STATUS and its data (R425, R426). -/
structure Answer where
  status : Nat
  data : List Byte := []
  deriving DecidableEq, Repr

/-- A request that another node has not finished, with the port it left by; `translated` once STXLT has come. -/
structure Request where
  owner : Owner
  query : Query
  port : Nat
  translated : Bool := false
  deriving DecidableEq, Repr

/-! ## A context -/

/-- The states of a context (R16). -/
inductive CtxState where
  | free
  | ready
  | wait
  | trapped
  | saving
  deriving DecidableEq, Repr

/-- The three register files a lookahead window may name (R190). -/
inductive RegFile where
  | scalar
  | float
  | handle
  deriving DecidableEq, Repr

/-- An open lookahead window (R100 to R102): its register, how many instructions it still holds, and the result once
it has arrived. -/
structure Window where
  file : RegFile
  reg : Nat
  count : Nat
  result : Option (BitVec 256)
  id : Nat
  deriving DecidableEq, Repr

/-- An entry of the load-data queue: reserved while `value` is none (R119). -/
structure LoadEntry where
  id : Nat
  value : Option Word
  deriving DecidableEq, Repr

/-- How the bytes of a load become its result (R233, R165, R241). -/
inductive LoadForm where
  | signed
  | unsigned
  | handle
  deriving DecidableEq, Repr

/-- What a `fld` or `fldr` does with data that arrive after it has retired (R147, R157): the float register, the length
code of the value, and the rounding mode of its issue. -/
structure FloatLoad where
  reg : Nat
  code : Nat
  mode : Nat
  deriving DecidableEq, Repr

/-- A load or atomic whose data have not arrived: the bytes it reads, the number it is known by in a window or in the
load-data queue, and its place in the context's program order. An atomic is not `ready` until its engine has performed
it (R242). -/
structure Pending where
  id : Nat
  bytes : List Source
  form : LoadForm
  seq : Nat
  ready : Bool := true
  nt : Bool := false
  flags : BitVec 7 := 0                 -- of `amo.fadd`, set when the reply arrives (R241)
  asid : Nat := 0                       -- what the access was translated from (R255, R390)
  va : Nat := 0
  float : Option FloatLoad := none
  deriving DecidableEq, Repr

/-- An instruction a gang leader has forwarded (R28): its word (with the fields a repetition has stepped), its address,
the address after it, the number of the repetition that it is (R95), and whether the leader's `safe` took a pre-emption
(R29). -/
structure Forwarded where
  code : Code
  pc : Word
  next : Word
  repi : Nat := 0
  save : Bool := false
  deriving DecidableEq, Repr

/-- A context's part in a gang (R27 to R29, R186). -/
inductive Gang where
  | alone
  | joining (x : Nat)
  | leading (k : Nat) (members : List Nat)
  | following (x pos : Nat) (buffer : List Forwarded)
  deriving DecidableEq, Repr

/-- A completion that waits for its record or its vector (R422). -/
structure Completion where
  op : Nat
  seq : BitVec 32
  status : Nat
  result : Word
  vector : Option Nat
  record : Bool
  deriving DecidableEq, Repr

/-- What a release, a fence or a send waits for, fixed when it issues (R250, R260, R261, R263): its scope code, the cores
of the issuer's gang, the program-order number that earlier accesses of the core stay below, the write requests to other
nodes that stood, the replies that the mailbox engine owed, and for a release the object, as ASID and lock-word address. -/
structure Cover where
  scope : Nat
  cores : List Nat := []
  seq : Nat := 0
  requests : List Nat := []
  replies : List Completion := []
  object : Option (Nat × Nat) := none
  deriving DecidableEq, Repr

/-- What a context in WAIT waits for; when each is over stands in `waitOver` (Machine/Waits.lean). -/
inductive WaitOn where
  | results                                     -- the windows that close before the next instruction (R100)
  | oldestWindow                                -- a fifth window (R101)
  | ldqHead                                     -- the head of the load-data queue is reserved (R119)
  | ldqRoom                                     -- 16 load-data entries (R119)
  | loads                                       -- every load has returned (R258, R260)
  | allResults                                  -- loads, windows, lane results, stores (R24)
  | performed (f : Cover)                       -- every earlier write that is covered (R252, R259)
  | fenced (f : Cover)                          -- R260
  | drained (scope : Nat)                       -- R262
  | ordered (f : Cover) (node : Nat) (dests : List Nat)   -- R263 toward the destinations
  | outbox (n : Nat)                            -- room for `n` outbox entries (R334, R353)
  | tipRoom                                     -- R50
  | spoil                                       -- R352
  | laneRoom                                    -- R276
  | channel (needs : List (Nat × Nat))          -- R297
  | laneBytes (bytes : List Nat)                -- a queued lane instruction or `mst` touches them (R277, R313)
  | globalBytes (pas : List Nat)                -- a queued `mst` will write them (R313)
  | nodeBytes (bytes : List (Nat × Nat))        -- the same of bytes on other nodes, as node and address
  | laneReads (bytes : List Nat)                -- a queued `mst` or lane instruction will write them
  | copyRoom (tag : Nat)                        -- R248
  | matrixRoom                                  -- R302
  | fetched (id : Nat)                          -- the rows of a matrix entry (R302)
  | flags                                       -- R179
  | tags (mask : Word) (all : Bool)             -- R405
  | counter (name target : Word)                -- R401
  | barrier (phase : BitVec 32)                 -- R410
  | gang (followers : Nat)                      -- R186; 0 in `gang.join`
  | lock                                        -- R258, R259
  | answer                                      -- the master's or a home die's answer
  | remote (q : Query)                          -- another node's answer
  | stack (n : Nat)                             -- an HBM stack that is not ready (R432)
  | changed                                     -- a binding change at every core (R386), a region change (R370)
  | copies (die buffer : Nat) (own : Bool)      -- R267, R388
  | invalidated (asid va : Option Nat)          -- R390: the translations removed
  | engine (die : Nat) (receive : Bool)         -- R364, R432
  | restore                                     -- R192, R195: RESTORE or JOBSW is busy
  | command                                     -- a write of PREQ or CTXCMD that is not performed
  | stepping (d : Nat)                          -- the ticks of the context's own `istep` (R211)
  | image                                       -- another context's `isave` or `irest` (R208)
  | written                                     -- every write of the context, `st.nt` among them (R213, R267, R364)
  | domain (d : Nat)                            -- another context's `istep` (R211)
  | floats (ctx : Nat) (regs : List Nat)        -- float registers whose data have not arrived (R147)
  deriving DecidableEq, Repr

/-- How far an instruction has gone that asks another unit and waits for the answer. -/
inductive Latch where
  | none
  | asked
  | answered (w : Word)
  deriving DecidableEq, Repr

/-- A message that a send has formed at its issue and waits with (R346), with its resolved destination. -/
structure Formed where
  msg : Msg
  node : Nat
  dests : List Nat
  deriving DecidableEq, Repr

/-- Why and how a context in SAVING is saved (R138, R188): the live-map index, or none for a full save. -/
structure SaveJob where
  index : Option Nat
  forced : Bool
  deriving DecidableEq, Repr

/-- An entry of the spill ring or of a replay store (R355): address, data, and whether an error value came. -/
structure Spill where
  addr : Word
  error : Bool
  data : List Byte
  deriving DecidableEq, Repr

/-- The staging record of a context (R299, R316): PC, ha, the s value, and the bytes of the leading rows. -/
structure Staging where
  pc : Word
  ha : HandleBits
  s : Word
  rows : List (List Byte)
  deriving DecidableEq, Repr

/-- A context of a core (R16, R115, R143, R160, R169, R299). -/
structure Ctx where
  state : CtxState := .free
  hi : Bool := false                    -- class of the running handler
  pc : Word := 0
  s : Tab Word := []                    -- s1 to s59, s62, s63; 0 when unlisted
  ldq : List LoadEntry := []            -- s60
  stq : List Word := []                 -- s61
  pool : BitVec 1024 := 0               -- the float registers (R145)
  prec : Word := 2
  rmode : Word := 0
  satf : Word := 0
  oob : Word := 0
  hdr0 : Word := 0
  hdr1 : Word := 0
  launchId : BitVec 16 := 0
  barRect : Word := 0
  barPh : BitVec 32 := 0
  h : Tab HandleBits := []              -- h0 to h15; 0 when unlisted
  windows : List Window := []           -- in the order they opened
  pending : List Pending := []
  nextId : Nat := 0
  repeating : Option (Nat × BitVec 4) := none   -- count and mask of a `rep` in progress
  repi : Nat := 0
  gang : Gang := .alone
  gangLid : BitVec 16 := 0              -- the leader's launch ID, of a follower (R28)
  waitOn : Option WaitOn := none
  latch : Latch := .none
  deadline : Nat := 0                   -- R26
  acc : Tab (BitVec 32) := []           -- accumulator sub-tile, word 16·i + n
  staging : Option Staging := none
  replay : List Spill := []
  checks : List (Nat × Word) := []      -- machine checks to take at the next boundary: source, address (R181)
  unit : Option Nat := none             -- index of the unit that a Derrick dispatched here (R397)
  imaging : Bool := false               -- an `isave` or `irest` of it is in progress (R208)
  formed : Option Formed := none        -- of a send that waits (R346)
  preqSince : Option Nat := none        -- cycle the pre-emption count starts from (R187)
  save : Option SaveJob := none
  deriving DecidableEq, Repr

/-! ## The units of a core -/

/-- The `st.nt` that a buffered byte comes from (R238, R390): its context, its place in program order, and the ASID and
virtual address it was stored under. -/
structure Mark where
  ctx : Nat
  seq : Nat
  asid : Nat
  va : Nat
  deriving DecidableEq, Repr

/-- A store on its way to its home cache (R252): its context, its place in program order and its bytes by physical
address; the ASID and the virtual page of each physical page (R255, R390); for a line of the non-temporal buffer, the
store that each byte comes from. -/
structure Store where
  ctx : Nat
  seq : Nat
  bytes : List (Nat × Byte)
  asid : Nat := 0
  pages : Tab Nat := []
  nt : Bool := false
  marks : Tab Mark := []
  deriving DecidableEq, Repr

/-- A line of the non-temporal write buffer (R238): where it goes (a local line, or a node's virtual line under an
ASID), the bytes stored and the store that each comes from, by offset in the line. -/
structure NtLine where
  id : Nat
  node : Option Nat
  asid : Nat
  va : Nat                               -- virtual line address of the first byte stored
  pa : Nat                               -- physical line number; 0 for another node
  bytes : List (Nat × Byte)
  marks : Tab Mark
  deriving DecidableEq, Repr

/-- Which copy (R246). -/
inductive CopyForm where
  | plain
  | shadow (die buffer : Nat)
  | remote (hdr0 : Word)
  deriving DecidableEq, Repr

/-- A translation that an instruction confirmed at issue and goes on using (R249, R302): virtual 4 KiB page, and the
local physical page or the node; `buffer` is the home die and the number of the publish buffer that the page's leaf
names, whose SEL every row reads anew (R372). -/
structure Confirmed where
  asid : Nat
  page : Nat
  pa : Nat
  node : Option Nat
  buffer : Option (Nat × Nat) := none
  deriving DecidableEq, Repr

/-- A copy in progress (R245 to R249): elements below `done` have been moved. `base` is the physical address of the
shadow half that a `copy.h` writes. `selsA` and `selsD` hold what SEL of each publish buffer was, by
1,024·die + buffer, when the source row and the destination row that `done` lies in were begun (R372). -/
structure Copy where
  id : Nat
  ctx : Nat
  tag : Nat
  form : CopyForm
  dst : HandleBits
  src : HandleBits
  total : Nat
  done : Nat
  seq : Nat
  asid : Nat
  lid : BitVec 16
  hi : Bool
  map : List Confirmed
  base : Nat := 0
  selsA : Tab Nat := []
  selsD : Tab Nat := []
  deriving DecidableEq, Repr

/-- A lane instruction in the lane queue (R270), with the handles and scalar it read at issue. `out` holds the
deposits of an outbound destination that are not yet accepted (R298). -/
structure LaneOp where
  ctx : Nat
  instr : Instr
  hd : HandleBits
  ha : HandleBits
  hb : HandleBits
  mask : HandleBits
  s : Word
  rmode : Word
  lid : BitVec 16
  hi : Bool
  asid : Nat
  winId : Option Nat
  seq : Nat
  executed : Bool := false
  flags : BitVec 6 := 0
  count : Word := 0
  out : List Msg := []
  deriving DecidableEq, Repr

/-- What an entry of the matrix queue does (R302, R321). -/
inductive MatrixOp where
  | loadWeights
  | swap
  | multiply
  | store
  | zero
  | loadAcc
  | invoke (c : HandleBits) (rhdr : Word) (stat : Nat) (tag : Nat) (accIn : Bool)
  deriving DecidableEq, Repr

/-- An entry of the matrix queue. Context 16 is a matrix-invoke. `rows` holds the fetched rows in order; the second
list the rows of C that an invoke with ACCIN loads; `left` holds, with their effective addresses, the bytes of the row
whose translation is done and whose data have not all come (R319). -/
structure MatrixEntry where
  id : Nat
  ctx : Nat
  op : MatrixOp
  h : HandleBits
  s : Word
  pc : Word
  asid : Nat
  lid : BitVec 16
  hi : Bool
  src : Nat                              -- the requester's core key, for an invoke
  fetched : Bool
  rows : List (List Byte)
  rowsC : List (List Byte)
  left : Option (List (Word × ByteRef)) := none
  map : List Confirmed
  err : Nat
  oobx : Bool
  flags : BitVec 6
  ran : Bool := false
  deriving DecidableEq, Repr

/-- A weight plane (R300): format, valid masks, the element codes by 16·d + n, and the DXB exponents of each row. -/
structure Plane where
  fmt : BitVec 6 := 0x3F
  kvalid : BitVec 16 := 0
  nvalid : BitVec 16 := 0
  codes : Tab (BitVec 16) := []
  e0 : Tab Byte := []
  e1 : Tab Byte := []
  deriving DecidableEq, Repr

/-- A Bench cell (R196, R373). -/
structure Cell where
  y : BitVec 32 := 0
  rs : BitVec 32 := 0
  scale : BitVec 5 := 8
  oc : BitVec 32 := 0
  octhr : BitVec 32 := 0
  cfg : BitVec 3 := 0
  dz : BitVec 2 := 0
  latch : BitVec 6 := 0
  extin : BitVec 16 := 0
  trig : BitVec 16 := 0
  thdr : Word := 0
  tlid : BitVec 16 := 0
  patch : BitVec 32 := 0x1FF7FDFF
  deriving DecidableEq, Repr

/-- A step-clock domain (R198, R393): 0 STOPPED, 1 RUNNING, 2 FAULTED; `due` is the cycle of its next tick while it
runs (R207); `stepper` the context whose `istep` is stepping it, with the cycle of its next tick, the ticks that are left
and those committed (R211). -/
structure Domain where
  dstate : BitVec 2 := 0
  divider : Nat := 65536
  count : Word := 0
  due : Nat := 0
  stepper : Option Nat := none
  stepDue : Nat := 0
  stepLeft : Nat := 0
  stepDone : Nat := 0
  deriving DecidableEq, Repr

/-- A core's Bench (R196, R198): cells and domains by number, BSTAT, and the trigger queue, with whether a message has
taken over its trigger's count (R216). `ticked` says that the ticks of this cycle have come (R204). -/
structure Bench where
  cells : Tab Cell := []
  domains : Tab Domain := []
  bstat : Word := 0
  triggers : List (Bool × Msg) := []
  ticked : Bool := false
  deriving DecidableEq, Repr

/-- A translation in a TLB: the ASID, the page (its virtual address and its size in bytes), the leaf entry of the page
table, and its pin count in a last-level TLB (R376, R378, R391). -/
structure TlbEntry where
  asid : Nat
  va : Nat
  size : Nat
  leaf : Word
  pins : Nat := 0
  deriving DecidableEq, Repr

/-- A line of the instruction cache: its ASID, virtual address and 64 bytes (R232). -/
structure CodeLine where
  asid : Nat
  va : Nat
  bytes : List Byte
  deriving DecidableEq, Repr

/-- An activation that context 15 has not taken (R181, R182); `ctx` is none for NOCTX = 1. -/
structure Activation where
  cause : Nat
  ctx : Option Nat
  pc : Word
  addr : Word
  info : Word
  deriving DecidableEq, Repr

/-- A slot of the barrier network (R406). -/
structure BarSlot where
  rect : Word
  phase : BitVec 32 := 0
  arr : Bool := false
  row : Bool := false
  col : Bool := false
  deriving DecidableEq, Repr

/-- An entry of a cancel filter: a launch, or one unit of it (R36). -/
structure Filter where
  lid : Nat
  unit : Option Nat
  deriving DecidableEq, Repr

/-- A symbol of a tile codeword that reads wrong (R223): stripe, byte position and bank. -/
structure BadSymbol where
  stripe : Nat
  position : Nat
  bank : Nat
  deriving DecidableEq, Repr

/-- The forwarding buffer of a follower that is saved: its hardware stays on the core (R28, log 60). The key is that of the
save record; `lead` and `pos` name the leader and the position. -/
structure GangBuffer where
  key : Nat
  lead : Nat
  pos : Nat
  buffer : List Forwarded
  deriving DecidableEq, Repr

/-- A core (R14 and the inventories of the chapters). -/
structure Core where
  ctxs : Tab Ctx := []
  cycle : Nat := 0
  nextHi : Nat := 0                      -- round-robin pointers (R25)
  nextLo : Nat := 0
  seq : Nat := 0                         -- program-order numbers given out
  stopped : Bool := false                -- a supervisor fault (R184)
  tile : Memory := []
  tags : Word := 0
  tagCount : Tab Nat := []
  tvec : Word := 0
  flt : Word := 0
  fltpc : Word := 0
  fltaddr : Word := 0
  fltinfo : Word := 0
  ctxsel : Word := 0
  preq : BitVec 15 := 0
  saveBase : Word := 0
  saveMap : BitVec 16 := 0
  slotRects : Tab Word := []             -- the rectangle a record of SAVEMAP names (R408)
  restoreStat : BitVec 2 := 0
  restoreCtx : BitVec 4 := 0
  restoreAddr : Word := 0
  restoring : Option Word := none        -- a restore in progress (status 1)
  command : Option (Nat × Word) := none  -- a write of PREQ or CTXCMD that context 15 is performing (log 21)
  jobsw : BitVec 2 := 0                  -- CMD
  jobBusy : Bool := false
  jobErr : Bool := false
  jobSent : Bool := false                -- the core record is on its way to other nodes (R195)
  asid : BitVec 13 := 0
  activations : List Activation := []    -- oldest first
  bank : BitVec 8 := 0                   -- bank status (R218)
  bad : List BadSymbol := []
  corrected : Tab (List (Nat × Nat)) := []   -- stripes corrected in each bank, with the latest cycle (R224)
  fillLid : BitVec 16 := 0               -- identity word 0xFB (R228)
  fillLen : BitVec 8 := 0
  icache : List CodeLine := []
  nt : List NtLine := []
  stores : List Store := []
  copies : List Copy := []
  lanes : List LaneOp := []
  cb : Tab (BitVec 32) := []
  active : Plane := {}
  shadow : Plane := {}
  acc16 : Tab (BitVec 32) := []
  matrix : List MatrixEntry := []
  replies : List OutEntry := []          -- invoke replies that wait for their writes (R321)
  bench : Bench := {}
  hiInbox : List Msg := []
  loInbox : List Msg := []
  park : List Msg := []
  outbox : List OutEntry := []
  spoil : List HeldSend := []
  spill : List (Nat × Spill) := []       -- the spill ring, with the context
  tipHi : List TipEntry := []            -- the streams of the Tip region (R335)
  tipLo : List TipEntry := []
  tipPark : List TipEntry := []
  sc : Tab Word := []                    -- core counters
  delta : Tab Int := []                  -- changes not yet flushed to the Derrick (R33)
  cross : Tab Int := []                  -- by 4·launch + die: sent to that die less retired from it (R43, log 27)
  filter : List Filter := []
  bindCache : Tab (Tab Word) := []       -- binding tables by launch ID (R368)
  slots : Tab BarSlot := []
  gangBuffers : List GangBuffer := []    -- of followers that are saved (R28, R189)
  utlb : List TlbEntry := []             -- most recently used first
  perf : Tab Word := []                  -- groups 0 and 2, key 256·group + index (R415)
  deriving DecidableEq, Repr

/-! ## A die -/

/-- A request in a lock engine's wait list, or on its way (R256): the lock word's physical address, the mode, and who
asks: a core's context, or another node's core with the transaction to answer. -/
structure LockReq where
  release : Bool
  shared : Bool
  pa : Nat
  core : Nat                             -- core key, or the short ID on another node
  ctx : Nat
  node : Option Nat
  txid : Nat := 0
  port : Nat := 0
  asid : Nat := 0                        -- what the lock word's address was translated from (R390)
  va : Nat := 0
  deriving DecidableEq, Repr

/-- A request in a cluster atomic engine (R242, R243): its port, class, address, operation, and whose reply it is;
`deposit` for an atomic deposit on its way to a tile. -/
structure AtomicReq where
  seq : Nat := 0                         -- place in its core's program order
  port : Nat
  hi : Bool
  pa : Nat
  op : Nat
  b : Word
  x : Word
  core : Nat
  ctx : Nat
  id : Nat
  node : Option Nat := none
  txid : Nat := 0
  exit : Nat := 0
  asid : Nat := 0                        -- what `pa` was translated from (R390)
  va : Nat := 0
  deposit : Option Flight := none
  deriving DecidableEq, Repr

/-- A cluster atomic engine: waiting requests in arrival order, the lines of its hot store with the most recent first,
and the port it last served in each class (R243); 32 before the first service, so that port 0 is first (log 107). -/
structure AtomicEngine where
  queue : List AtomicReq := []
  hot : List Nat := []
  lastHi : Nat := 32
  lastLo : Nat := 32
  deriving DecidableEq, Repr

/-- A request in a network engine's queue (R362, R441): its number, the image's words, its ASID, its peer and message
number once a SEND has one or a RECV is assigned one, the bytes handed to packets, the data packets sent and not
acknowledged, the bytes placed for a RECV or READ, and the length of a RECV's SEND once it is known. -/
structure UeRequest where
  num : Nat
  w0 : Word
  va : Nat
  key : Nat
  offset : Nat
  asid : Nat
  message : Option (Nat × Nat) := none
  sent : Nat := 0
  psns : List Nat := []
  placed : Nat := 0
  total : Option Nat := none
  deriving DecidableEq, Repr

/-- A data packet in flight to a peer (R440): its PSN, the request it belongs to, the packet, how often it was sent, and
how many later packets acknowledgements have shown since its latest transmission. -/
structure UeFlight where
  peer : Nat
  psn : Nat
  request : Nat
  packet : UePacket
  tries : Nat
  passed : Nat := 0
  deriving DecidableEq, Repr

/-- A peer's numbers (R440, R441): next PSN to send, lowest PSN not received, PSNs received above it, next message
number to send, the lowest message number that no RECV has been assigned and those assigned above it, and the PSNs
received whose requests are refused (R431, R442). -/
structure UePeer where
  txPsn : Nat := 0
  rxPsn : Nat := 0
  rxAbove : List Nat := []
  txMsg : Nat := 0
  freeMsg : Nat := 0
  assigned : List Nat := []
  refused : List Nat := []
  deriving DecidableEq, Repr

/-- A READ of a peer that is being answered (R431): the peer and its message number, the PSN and the delivery mode of its
request, the ASID and address read, the length, and the bytes sent. -/
structure UeRead where
  peer : Nat
  message : Nat
  psn : Nat := 0
  ordered : Bool := false
  asid : Nat
  va : Nat
  total : Nat
  sent : Nat := 0
  deriving DecidableEq, Repr

/-- A network engine (R431): queues in order, tables, counters, packets in flight in the order of their latest
transmission, packets and acknowledgements sent to the port. -/
structure Engine where
  sendQ : List UeRequest := []
  recvQ : List UeRequest := []
  sendNum : Nat := 0
  recvNum : Nat := 0
  counters : Tab Word := []
  peers : Tab (List Word) := []
  keys : Tab (List Word) := []
  nums : Tab UePeer := []
  flights : List UeFlight := []
  reads : List UeRead := []
  packets : List UePacket := []
  acks : List UeAck := []
  perf : Tab Word := []
  deriving DecidableEq, Repr

/-- A Derrick (R38): launches queued at the four levels, in arrival order, and the LO inbox occupancies reported. -/
structure Derrick where
  levels : Tab (List Nat) := []
  reported : Tab Nat := []
  delta : Tab Int := []                  -- sums of the deltas received, and its own sends (R32, R33)
  cross : Tab Int := []                  -- as a core's (log 27)
  deriving DecidableEq, Repr

/-- A die. -/
structure Die where
  tlb : List TlbEntry := []              -- last-level TLB, most recently used first
  pool : Tab (List TipEntry) := []       -- HI overflow pool, one stream a core (R337)
  cache : List Nat := []                 -- lines of the memory-side cache, most recent first (R230)
  atomics : Tab AtomicEngine := []
  waiting : List LockReq := []           -- wait lists of its lock engines, in arrival order
  publish : Tab (List Word) := []
  regions : Tab (List Word) := []        -- its copy of the region binding table (R370)
  bindings : Tab (Tab Word) := []        -- its Derrick's copies of binding tables, by launch ID (R368)
  coreMap : List (Option Nat) := []      -- sites by logical index (R380)
  derrick : Derrick := {}
  engine : Engine := {}
  soft : Tab Nat := []                   -- group 2, index 3 to 5 (R415)
  deriving DecidableEq, Repr

/-! ## The master's tables -/

/-- A chunk dealt to a die (R39, R383): its number, the next unit to send, the unit counter, and units not sent
because a unit cancel removed them. -/
structure Chunk where
  number : Nat
  next : Nat
  count : Nat
  deriving DecidableEq, Repr

/-- State of a launch-table record (R383). -/
inductive LaunchState where
  | queued
  | eligible
  | running
  | complete
  deriving DecidableEq, Repr

/-- A launch-table record (R382, R383): the descriptor's and the request image's words, its bindings, and what the
master and the Derricks know of it. -/
structure Launch where
  asid : Nat := 0
  desc : List Word := []
  image : List Word := []
  bindings : Tab Word := []
  places : List Nat := []                -- the explicit map, as die and logical index (R40)
  gone : List Nat := []                  -- of them, those whose core has left the core map (R40)
  away : Tab Nat := []                   -- the die of each sent unit, by index, of an explicit map (R44)
  state : LaunchState := .queued
  status : Nat := 0
  level : Nat := 0
  graph : Nat := 0
  phase : Nat := 0
  edges : List (Nat × Nat × Nat) := []   -- predicates not yet met: KIND, SRC, V (R35, R402)
  dealt : Nat := 0                       -- chunks dealt so far
  chunks : Tab (List Chunk) := []        -- by die
  filled : List Nat := []                -- cores whose constant window is filled
  cut : List Nat := []                   -- units a unit cancel removed or filters
  cancelled : Bool := false
  last : Nat := 0                        -- clamped summed delta of the last complete sweep (R395)
  zeros : Nat := 0                       -- consecutive complete sweeps with a zero sum (R33)
  deriving DecidableEq, Repr

/-- A graph, phase or job (R30, R396): the class of R394, its ASID and number, its parent phase, incomplete children,
whether it is closed and done, and its status. -/
structure Item where
  cls : Nat
  asid : Nat
  num : Nat
  phase : Nat := 0
  count : Nat := 0
  closed : Bool := false
  done : Bool := false
  status : Nat := 0
  deriving DecidableEq, Repr

/-- Who asked the master: a core's context or the mailbox. -/
structure MasterReq where
  core : Nat
  ctx : Nat
  mailbox : Bool := false
  asid : Nat
  cancel : Option Word := none           -- the name of R394, for a cancel
  super : Bool := false                  -- from context 15
  desc : List Word := []
  image : List Word := []
  deriving DecidableEq, Repr

/-- A change that must reach other units: a filter (R36), a binding (R368) or a region (R370); `left` names the cores
or dies it has not reached, `core` and `ctx` who waits for it. -/
structure Change where
  lid : Nat := 0
  slot : Nat := 0
  entry : Word := 0
  words : List Word := []
  unit : Option Nat := none
  core : Nat
  ctx : Nat
  left : List Nat
  deriving DecidableEq, Repr

/-- A quiescence sweep in progress: the cores that have not acknowledged it (R33). -/
structure Sweep where
  running : Bool := false
  left : List Nat := []
  deriving DecidableEq, Repr

/-- A unit whose context is saved (R397): the ASID and address of its record, its launch, its index, and the words that
the record holds, by which a copy of the record is known (log 24). -/
structure Restart where
  key : Nat
  lid : Nat
  unit : Nat
  words : List Word := []
  deriving DecidableEq, Repr

/-- The master Derrick (R42, R366). -/
structure Master where
  die : Nat := 0
  electing : Bool := false
  launches : Tab Launch := []
  nextId : Nat := 1
  segments : Tab (Nat × Nat × Nat) := []   -- ASID, base and length an ID last named (R232)
  items : List Item := []
  requests : List MasterReq := []
  filters : List Change := []
  bindings : List Change := []
  regions : Tab (List Word) := []        -- the master's copy, which decides overlap (R387)
  regionChanges : List Change := []
  exchanges : List Change := []          -- `publish` exchanges on their way to their home die (R388)
  sweep : Sweep := {}
  events : List Nat := []                -- launches whose completion event is due
  restarts : List Restart := []          -- units of saved contexts (R397)
  deriving DecidableEq, Repr

/-! ## The boundaries -/

/-- A token of the barrier network (R411): 0 row, 1 column, 2 release, for a rectangle, on its way to a core. -/
structure Token where
  kind : Nat
  rect : Word
  dest : Nat
  deriving DecidableEq, Repr

/-- A packet on its way to a port's partner, or in a flit that waits for the partner's acknowledgement (R424): the fields
of its flit's link layer (a flit of FTYPE 0 or 2 holds no packet), the launch it counts in, the retirements it counts as (R428), the cores and contexts that sent
its message, and what a deposit of a `copy.r` writes (R246, log 87). -/
structure SentFlit where
  fseq : Nat
  packet : Packet
  lid : Nat := 0
  count : Nat := 0
  senders : List (Nat × Nat) := []
  aseq : Nat := 0
  ack : Nat := 0
  cvc : Nat := 0
  cred : Nat := 0
  ftype : Nat := 1
  part : Option CopyPart := none
  deriving DecidableEq, Repr

/-- An Isder port (R423 to R430). -/
structure Port where
  up : Bool := false
  training : Bool := false
  spareUsed : Bool := false
  broken : Bool := false                 -- a lane failed after the spare was in use (R429)
  wanted : Bool := false                 -- the partner has requested a retrain
  credits : Tab Nat := []                -- slots free at the partner, by virtual channel
  freed : List Nat := []                 -- slots that the next flits return, by virtual channel
  ack : Nat := 0                         -- ACK of the next flit
  fseq : Nat := 0                        -- FSEQ of the last flit sent
  aseq : Nat := 0                        -- FSEQ of the last flit received in order
  received : Nat := 0                    -- flits that have arrived
  failed : List Nat := []                -- of them, the latest 16 that failed their CRC, by `received`
  unacked : List SentFlit := []
  out : List SentFlit := []              -- packets that have no flit yet
  wire : List (List Byte) := []          -- bytes 0 to 241 of the flits sent, replays among them (R423, R424)
  inbound : List Flit := []              -- payload flits received whose packets are not yet handled
  lost : List Nat := []                  -- nodes that link-control flits have named (R430)
  perf : Tab Word := []
  deriving DecidableEq, Repr

/-- What the module has put on PCIe (R421, R422): a write to host memory, or an MSI-X vector. -/
inductive HostPost where
  | write (address : Nat) (data : List Byte)
  | msix (vector : Nat) (address : Word) (data : BitVec 32)
  deriving DecidableEq, Repr

/-- An entry of the MSI-X table: the message's address and data, and the mask (R416, log 88). -/
structure MsixEntry where
  address : Word := 0
  data : BitVec 32 := 0
  masked : Bool := true
  deriving DecidableEq, Repr

/-- The mailbox (R417 to R422), with the MSI-X table and the pending bits of BAR2 (R416). -/
structure Mailbox where
  commands : List (List Word) := []
  taken : Bool := false                  -- the head's request is at the master
  latch : Latch := .none
  cqBase : Word := 0
  cqSize : Nat := 64
  cqHead : BitVec 32 := 0
  records : Nat := 0                     -- records written since the ring was set
  applied : BitVec 32 := 0
  malf : Bool := false
  ovf : Bool := false
  done : List Completion := []
  posts : List HostPost := []
  vectors : Tab MsixEntry := []          -- BAR2 (R416)
  pending : BitVec 64 := 0
  deriving DecidableEq, Repr

/-- An entry of the measurement log (R384, R433). -/
structure Measurement where
  component : Nat
  image : Firmware
  deriving DecidableEq, Repr

/-- What management reports (R434): machine checks, a thermal trip, failed firmware; after a die was fenced, the work in
progress that continues on the others: the fenced dies and the launches (R43). -/
inductive Report where
  | machineCheck (core : Nat) (cause : Nat) (info : Word)
  | bankFailure (core : Nat)
  | thermalTrip
  | continues (fenced : BitVec 4) (launches : List Nat)
  | firmwareFailed
  | spdm (data : List Byte)
  | readings (temperature voltage power : Nat)
  | counter (core : Nat) (name value : Word)
  deriving DecidableEq, Repr

/-- The issue latch (the model's own, log 4): the core and context that hold the slot, the word being executed with
its address and the address after it, whether it was forwarded to this context and as which repetition, and whether it has
retired. -/
structure Issue where
  core : Nat := 0
  ctx : Nat := 0
  code : Code := .short 0
  pc : Word := 0
  next : Word := 0
  forwarded : Bool := false
  repi : Nat := 0
  save : Bool := false
  retired : Bool := false
  deriving DecidableEq, Repr

/-- A physical event that no unit of the module causes (R223, R231, R434): a tile symbol reads wrong; the on-die ECC of an
HBM line corrects a symbol, or cannot; a symbol of the memory-side cache is corrected; management reports what it
measures, or a counter of a core under the operand of `perf.rd`. -/
inductive Upset where
  | tileSymbol (core : Nat) (symbol : BadSymbol)
  | hbmSymbol (pa : Nat)
  | hbmLine (pa : Nat)
  | cacheSymbol (die : Nat)
  | readings (temperature voltage power : Nat)
  | counterRead (core : Nat) (name : Word)
  deriving DecidableEq, Repr

/-- Which unit moves in a step (the model's own, log 4). -/
inductive Turn where
  | slot (core : Nat)
  | event (i : Instr) (arg : Input)
  | upset (u : Upset)
  deriving DecidableEq, Repr

/-- The state of the module. -/
structure State where
  cores : Tab Core := []
  dies : Tab Die := []
  hbm : Memory := []
  poison : List Nat := []                -- poisoned lines (R231)
  ready : BitVec 54 := 0                 -- READY (R173)
  failedStacks : List Nat := []          -- stacks that failed their test (R432)
  fused : List Nat := []                 -- keys of the fused-off sites (R2)
  node : Nat := 0
  asids : Tab Word := []                 -- ASID table (R374)
  routes : Tab Word := [(0, 0xC000000000000000)]   -- node entries: the own node 3, the others PATH 0 (R381, R366)
  fenced : BitVec 4 := 0
  master : Master := {}
  hiFlights : List Flight := []          -- the HI channel, oldest first (R329)
  loFlights : List Flight := []
  routers : Tab (List Flight) := []        -- combining queues by plane site (R358)
  tokens : List Token := []
  locks : List LockReq := []             -- lock requests on their way to their engine
  retries : List LockReq := []           -- refused requests (R256)
  requests : Tab Request := []           -- by transaction number (R425)
  nextTx : Nat := 1
  answers : List (Owner × Query × Answer) := []
  ports : Tab Port := []
  imports : Tab Word := []
  mailbox : Mailbox := {}
  log : List Measurement := []
  clock : Nat := 1800
  tripped : Bool := false
  reports : List Report := []
  spdmReady : Bool := false              -- NEGOTIATE_ALGORITHMS agreed (R433)
  drawn : Nat := 0                       -- free values drawn (log 5)
  iss : Issue := {}
  input : Input := {}
  agenda : List Turn := []
  deriving DecidableEq, Repr

/-- A core right after reset (the Reset columns of the inventories). -/
def Core.reset : Core := {}

/-- A context right after reset (R115, R169). -/
def Ctx.reset : Ctx := {}

/-- A die right after reset. -/
def Die.reset : Die := {}

/-- The module right after reset: every register and table at its Reset column, memory with nothing listed, every
function not yet ready (R432). The values the spec does not give are named in logs 2, 3, 5, 9, 10, 73 and 88. -/
def State.reset : State := {}

end Sys2Proof.Machine
end

