-- ==== Sys2Proof/Machine/Tab.lean ====
section
/-! DEFINITION. Tables and byte memory: lookup and update in lists kept in rising order of key, and the bit-field,
byte and sign helpers that the other files share (R4). -/

namespace Sys2Proof.Machine

/-- The value at a key, or the default. -/
def Tab.get {α : Type} (d : α) : Tab α → Nat → α
  | [], _ => d
  | (i, v) :: m, k => if k < i then d else if k = i then v else Tab.get d m k

/-- The value at a key, if the key is listed. -/
def Tab.find {α : Type} : Tab α → Nat → Option α
  | [], _ => none
  | (i, v) :: m, k => if k < i then none else if k = i then some v else Tab.find m k

/-- The table with `v` at `k`. -/
def Tab.put {α : Type} : Tab α → Nat → α → Tab α
  | [], k, v => [(k, v)]
  | (i, w) :: m, k, v =>
    if k < i then (k, v) :: (i, w) :: m else if k = i then (k, v) :: m else (i, w) :: Tab.put m k v

/-- The table without `k`. -/
def Tab.del {α : Type} : Tab α → Nat → Tab α
  | [], _ => []
  | (i, w) :: m, k => if k < i then (i, w) :: m else if k = i then m else (i, w) :: Tab.del m k

/-- Every key is above `b`, and the keys rise. -/
def Tab.above {α : Type} (b : Nat) : Tab α → Bool
  | [] => true
  | (i, _) :: m => decide (b < i) && Tab.above i m

/-- The keys rise. -/
def Tab.sorted {α : Type} : Tab α → Bool
  | [] => true
  | (i, _) :: m => Tab.above i m

/-! ## Byte memory -/

/-- The byte at an address; an unlisted byte is 0 (log 2). -/
def Memory.read (m : Memory) (a : Nat) : Byte := Tab.get 0#8 m a

/-- The memory with one byte written; a zero byte is not listed. -/
def Memory.write (m : Memory) (a : Nat) (b : Byte) : Memory := if b = 0#8 then Tab.del m a else Tab.put m a b

/-- The canonical form: addresses rise, and no listed byte is 0. -/
def Memory.wf (m : Memory) : Bool := Tab.sorted m && m.all (fun c => c.2 != 0#8)

/-! ## Words and bytes -/

/-- The low `n` bytes of a number, least significant first (R4). -/
def bytesOf (n v : Nat) : List Byte := natBytes n v

/-- The number whose bytes, least significant first, are given (R4). -/
def natOf : List Byte → Nat
  | [] => 0
  | b :: bs => b.toNat + 256 * natOf bs

/-- The 64-bit word of up to eight bytes. -/
def wordOf (bs : List Byte) : Word := BitVec.ofNat 64 (natOf bs)

/-- A list of bytes cut into 64-bit words, the last one padded with zero bytes; `n` words are made. -/
def wordsOf : Nat → List Byte → List Word
  | 0, _ => []
  | n + 1, bs => wordOf (bs.take 8) :: wordsOf n (bs.drop 8)

/-- Bits hi:lo of a word, as a number. -/
def field (w : Word) (hi lo : Nat) : Nat := w.toNat / 2 ^ lo % 2 ^ (hi + 1 - lo)

/-- One bit of a word. -/
def bit (w : Word) (i : Nat) : Bool := w.getLsbD i

/-- Bits hi:lo of a word are zero. -/
def zeroBits (w : Word) (hi lo : Nat) : Bool := field w hi lo == 0

/-- A number as a word. -/
def word (n : Nat) : Word := BitVec.ofNat 64 n

/-- A bit as a word. -/
def flagWord (b : Bool) : Word := if b then 1 else 0

/-- The value of `n`-bit two's complement. -/
def signedOf (n v : Nat) : Int := if 2 * (v % 2 ^ n) < 2 ^ n then (v % 2 ^ n : Nat) else (v % 2 ^ n : Nat) - (2 ^ n : Nat)

/-- An integer as a word, modulo 2^64. -/
def intWord (i : Int) : Word := BitVec.ofInt 64 i

/-- `v` with bits hi:lo replaced. -/
def putField (v : Nat) (hi lo : Nat) (x : Nat) : Nat :=
  v % 2 ^ lo + (x % 2 ^ (hi + 1 - lo)) * 2 ^ lo + v / 2 ^ (hi + 1) * 2 ^ (hi + 1)

/-- The list without the element at `n`. -/
def dropNth {α : Type} : List α → Nat → List α
  | [], _ => []
  | _ :: l, 0 => l
  | a :: l, n + 1 => a :: dropNth l n

/-- The list with the element at `n` changed. -/
def changeNth {α : Type} (f : α → α) : List α → Nat → List α
  | [], _ => []
  | a :: l, 0 => f a :: l
  | a :: l, n + 1 => a :: changeNth f l n

/-- The first element that a test accepts, moved to the front. -/
def toFront {α : Type} (p : α → Bool) (l : List α) : List α :=
  match l.find? p with
  | none => l
  | some a => a :: l.eraseP p

/-- The numbers from `a`, `n` of them. -/
def upFrom (a : Nat) : Nat → List Nat
  | 0 => []
  | n + 1 => a :: upFrom (a + 1) n

/-- The lowest 1 bit of a word, searched from `i` for `n` bits; 64 if there is none (R405). -/
def lowestBit (w : Word) (i : Nat) : Nat → Nat
  | 0 => 64
  | n + 1 => if bit w i then i else lowestBit w (i + 1) n

/-- The least number of a list. -/
def leastNat : List Nat → Option Nat
  | [] => none
  | a :: l =>
    match leastNat l with
    | none => some a
    | some b => some (min a b)

/-- Ceiling division. -/
def ceilDiv (a b : Nat) : Nat := (a + b - 1) / b

end Sys2Proof.Machine
end

