-- ==== Sys2Proof/Machine/Flags.lean ====
section
/-! DEFINITION. Floating formats, exact values, rounding and the flags of SATF (R57 to R69, R82 to R84). -/

namespace Sys2Proof.Machine

/-! ## Flags (R64) -/

/-- The flags of SATF 5:0, with REMERR in bit 6 (R170). -/
abbrev Flag := BitVec 7

/-- Invalid. -/
def flagNV : Flag := 1#7
/-- Division by zero. -/
def flagDZ : Flag := 2#7
/-- Overflow. -/
def flagOF : Flag := 4#7
/-- Underflow. -/
def flagUF : Flag := 8#7
/-- Inexact. -/
def flagNX : Flag := 16#7
/-- Saturation. -/
def flagSAT : Flag := 32#7

/-- A flag if a condition holds. -/
def flagIf (b : Bool) (f : Flag) : Flag := if b then f else 0#7

/-! ## Formats (R57, R68) -/

/-- A floating format: the bits of its exponent and of its fraction. -/
structure Fmt where
  exp : Nat
  frac : Nat
  deriving DecidableEq, Repr

/-- FP16. -/
def fmtHalf : Fmt := ⟨5, 10⟩
/-- BF16. -/
def fmtBf : Fmt := ⟨8, 7⟩
/-- FP32. -/
def fmtSingle : Fmt := ⟨8, 23⟩
/-- FP64. -/
def fmtDouble : Fmt := ⟨11, 52⟩
/-- VLF of length code k (R68). -/
def fmtVlf (k : Nat) : Fmt := ⟨15, 8 * k⟩

/-- The exponent bias. -/
def Fmt.bias (f : Fmt) : Int := 2 ^ (f.exp - 1) - 1

/-- Bits of a value. -/
def Fmt.width (f : Fmt) : Nat := 1 + f.exp + f.frac

/-- The exponent field of infinities and NaNs. -/
def Fmt.top (f : Fmt) : Nat := 2 ^ f.exp - 1

/-- The exponent of the last bit of a subnormal. -/
def Fmt.low (f : Fmt) : Int := 1 - f.bias - f.frac

/-- A pattern from its fields. -/
def Fmt.pack (f : Fmt) (neg : Bool) (e m : Nat) : Nat :=
  (if neg then 2 ^ (f.exp + f.frac) else 0) + e * 2 ^ f.frac + m

/-- Infinity. -/
def Fmt.inf (f : Fmt) (neg : Bool) : Nat := f.pack neg f.top 0

/-- The default NaN (R59). -/
def Fmt.nan (f : Fmt) : Nat := f.pack false f.top (2 ^ (f.frac - 1))

/-! ## Values -/

/-- A value: a NaN with its sign and its fraction of the given number of bits; an infinity; or a finite number
(−1)^neg · m · 2^e. -/
inductive Num where
  | nan (neg : Bool) (frac bits : Nat)
  | inf (neg : Bool)
  | fin (neg : Bool) (m : Nat) (e : Int)
  deriving DecidableEq, Repr

/-- The value of a pattern (R57, R68). -/
def Fmt.decode (f : Fmt) (v : Nat) : Num :=
  let neg := v / 2 ^ (f.exp + f.frac) % 2 == 1
  let e := v / 2 ^ f.frac % 2 ^ f.exp
  let m := v % 2 ^ f.frac
  if e = f.top then if m = 0 then .inf neg else .nan neg m f.frac
  else if e = 0 then .fin neg m f.low
  else .fin neg (m + 2 ^ f.frac) (f.low + e - 1)

/-- A NaN. -/
def Num.isNan : Num → Bool
  | .nan _ _ _ => true
  | _ => false

/-- A signalling NaN: the quiet bit is 0 (R57). -/
def Num.isSignalling : Num → Bool
  | .nan _ frac bits => decide (frac < 2 ^ (bits - 1))
  | _ => false

/-- A zero. -/
def Num.isZero : Num → Bool
  | .fin _ m _ => m == 0
  | _ => false

/-- An infinity. -/
def Num.isInf : Num → Bool
  | .inf _ => true
  | _ => false

/-- The sign. -/
def Num.neg : Num → Bool
  | .nan n _ _ => n
  | .inf n => n
  | .fin n _ _ => n

/-- The value with its sign changed (R60). -/
def Num.negate : Num → Num
  | .nan n f b => .nan (!n) f b
  | .inf n => .inf (!n)
  | .fin n m e => .fin (!n) m e

/-- An integer as a value. -/
def Num.ofInt (i : Int) : Num := .fin (decide (i < 0)) i.natAbs 0

/-- A magnitude at a lower exponent: m · 2^(e − base), for base ≤ e. -/
def scaleTo (base : Int) (m : Nat) (e : Int) : Nat := m * 2 ^ (e - base).toNat

/-- A signed number from sign and magnitude. -/
def signedNat (neg : Bool) (m : Nat) : Int := if neg then -(m : Int) else m

/-- The order of two values that are no NaN: negative, zero or positive as a < b, a = b, a > b; −0 equals +0. -/
def Num.compare (a b : Num) : Int :=
  match a, b with
  | .inf x, .inf y => (if x then -1 else 1) - (if y then -1 else 1)
  | .inf x, _ => if x then -1 else 1
  | _, .inf y => if y then 1 else -1
  | .fin x m e, .fin y n d =>
    let base := min e d
    signedNat x (scaleTo base m e) - signedNat y (scaleTo base n d)
  | _, _ => 0

/-! ## Rounding (R61, R63) -/

/-- Whether the magnitude is rounded up: the mode, the sign, the last kept bit, the discarded part against one half
(0 below, 1 equal, 2 above), and whether anything is discarded. -/
def roundsUp (mode : Nat) (neg odd : Bool) (half : Nat) (inexact : Bool) : Bool :=
  match mode with
  | 0 => half == 2 || (half == 1 && odd)
  | 1 => false
  | 2 => !neg && inexact
  | 3 => neg && inexact
  | _ => decide (1 ≤ half)

/-- The magnitude (m + ε) · 2^e in units of 2^q, rounded, and whether that is inexact; 0 < ε < 1 when sticky. -/
def roundUnits (mode : Nat) (neg : Bool) (m : Nat) (e q : Int) (sticky : Bool) : Nat × Bool :=
  if q ≤ e then (m * 2 ^ (e - q).toNat, sticky)
  else
    let sh := (q - e).toNat
    let n := m / 2 ^ sh
    let rest := m % 2 ^ sh
    let unit := 2 ^ (sh - 1)
    let inexact := rest != 0 || sticky
    let half := if rest < unit then 0 else if rest = unit && !sticky then 1 else 2
    (if roundsUp mode neg (n % 2 == 1) half inexact then n + 1 else n, inexact)

/-- The result of an overflow (R63). -/
def Fmt.overflow (f : Fmt) (mode : Nat) (neg : Bool) : Nat :=
  let big := f.pack neg (f.top - 1) (2 ^ f.frac - 1)
  match mode with
  | 1 => big
  | 2 => if neg then big else f.inf neg
  | 3 => if neg then f.inf neg else big
  | _ => f.inf neg

/-- A magnitude rounded into a format, with its flags (R63); tininess is judged after rounding. -/
def Fmt.roundMag (f : Fmt) (mode : Nat) (neg : Bool) (m : Nat) (e : Int) (sticky : Bool) : Nat × Flag :=
  if m = 0 && !sticky then (f.pack neg 0 0, 0#7)
  else
    let lead : Int := e + m.log2
    let q := max (lead - f.frac) f.low
    let (n, inexact) := roundUnits mode neg m e q sticky
    let code := if n < 2 ^ f.frac then n else (q - f.low + 1).toNat * 2 ^ f.frac + (n - 2 ^ f.frac)
    if f.top * 2 ^ f.frac ≤ code then (f.overflow mode neg, flagOF ||| flagNX)
    else
      let free := (roundUnits mode neg m e (lead - f.frac) sticky).1
      let tiny := decide (lead + 1 < f.low + f.frac) || (decide (lead + 1 = f.low + f.frac) && decide (free < 2 ^ (f.frac + 1)))
      (f.pack neg 0 0 + code, flagIf inexact flagNX ||| flagIf (tiny && inexact) flagUF)

/-! ## Exact results -/

/-- The exact result of an operation before rounding: a NaN, an infinity, or a magnitude (m + ε) · 2^e, with the flags
the operation itself sets. -/
inductive Exact where
  | nan
  | inf (neg : Bool)
  | fin (neg : Bool) (m : Nat) (e : Int) (sticky : Bool)
  deriving DecidableEq, Repr

/-- A result rounded into a format; a NaN is the default NaN (R59, R63). -/
def Fmt.finish (f : Fmt) (mode : Nat) (r : Exact × Flag) : Nat × Flag :=
  match r.1 with
  | .nan => (f.nan, r.2)
  | .inf neg => (f.inf neg, r.2)
  | .fin neg m e st =>
    let (v, fl) := f.roundMag mode neg m e st
    (v, r.2 ||| fl)

/-- A value taken as a result. -/
def Num.exact : Num → Exact
  | .nan _ _ _ => .nan
  | .inf n => .inf n
  | .fin n m e => .fin n m e false

/-- Conversion between floating formats: NaNs keep their sign and the top of their fraction, and no NaN sets a flag
(R66). -/
def Fmt.convert (f : Fmt) (mode : Nat) (a : Num) : Nat × Flag :=
  match a with
  | .nan neg frac bits =>
    let t := if bits ≤ f.frac then frac * 2 ^ (f.frac - bits) else frac / 2 ^ (bits - f.frac)
    (f.pack neg f.top (if t = 0 then 2 ^ (f.frac - 1) else t), 0#7)
  | .inf neg => (f.inf neg, 0#7)
  | .fin neg m e => f.roundMag mode neg m e false

/-- A result as a value, for a conversion that needs no intermediate format. -/
def Exact.num : Exact → Num
  | .nan => .nan false 1 1
  | .inf n => .inf n
  | .fin n m e st => if st then .fin n (2 * m + 1) (e - 1) else .fin n m e

/-- Conversion to an integer between the bounds (R67). -/
def toInteger (mode : Nat) (lo hi : Int) (a : Num) : Int × Flag :=
  match a with
  | .nan _ _ _ => (0, flagNV)
  | .inf neg => (if neg then lo else hi, flagSAT)
  | .fin neg m e =>
    let (n, inexact) := roundUnits mode neg m e 0 false
    let i := signedNat neg n
    if i < lo then (lo, flagSAT) else if hi < i then (hi, flagSAT) else (i, flagIf inexact flagNX)

/-! ## Arithmetic (R59, R63, R84, R152) -/

/-- NV for a signalling operand (R59). -/
def nvIf (l : List Num) : Flag := flagIf (l.any Num.isSignalling) flagNV

/-- The sum of two finite numbers, with the sign of an exact zero (R63). -/
def sumFin (mode : Nat) (x : Bool) (m : Nat) (e : Int) (y : Bool) (n : Nat) (d : Int) : Exact :=
  let base := min e d
  let t := signedNat x (scaleTo base m e) + signedNat y (scaleTo base n d)
  if t = 0 then .fin (if x == y then x else mode == 3) 0 0 false else .fin (decide (t < 0)) t.natAbs base false

/-- a + b. -/
def addNum (mode : Nat) (a b : Num) : Exact × Flag :=
  match a, b with
  | .inf x, .inf y => if x == y then (.inf x, 0#7) else (.nan, flagNV)
  | .inf x, .fin _ _ _ => (.inf x, 0#7)
  | .fin _ _ _, .inf y => (.inf y, 0#7)
  | .fin x m e, .fin y n d => (sumFin mode x m e y n d, 0#7)
  | _, _ => (.nan, nvIf [a, b])

/-- a − b. -/
def subNum (mode : Nat) (a b : Num) : Exact × Flag := addNum mode a b.negate

/-- a · b. -/
def mulNum (a b : Num) : Exact × Flag :=
  match a, b with
  | .inf x, .inf y => (.inf (x != y), 0#7)
  | .inf x, .fin y n _ => if n = 0 then (.nan, flagNV) else (.inf (x != y), 0#7)
  | .fin x m _, .inf y => if m = 0 then (.nan, flagNV) else (.inf (x != y), 0#7)
  | .fin x m e, .fin y n d => (.fin (x != y) (m * n) (e + d) false, 0#7)
  | _, _ => (.nan, nvIf [a, b])

/-- fma(a, b, d) = a · b + d with one rounding; 0 · ∞ is invalid whatever d is (R152). -/
def fmaNum (mode : Nat) (a b d : Num) : Exact × Flag :=
  let (p, fl) := mulNum a b
  let fl := fl ||| nvIf [d]
  match p, d with
  | .nan, _ => (.nan, fl)
  | _, .nan _ _ _ => (.nan, fl)
  | .inf x, .inf y => if x == y then (.inf x, fl) else (.nan, flagNV)
  | .inf x, _ => (.inf x, fl)
  | .fin _ _ _ _, .inf y => (.inf y, fl)
  | .fin x m e _, .fin y n g => (sumFin mode x m e y n g, fl)

/-- a / b, with enough bits of the quotient for a fraction of `bits`. -/
def divNum (bits : Nat) (a b : Num) : Exact × Flag :=
  match a, b with
  | .inf _, .inf _ => (.nan, flagNV)
  | .inf x, .fin y _ _ => (.inf (x != y), 0#7)
  | .fin x _ _, .inf y => (.fin (x != y) 0 0 false, 0#7)
  | .fin x m e, .fin y n d =>
    if n = 0 then if m = 0 then (.nan, flagNV) else (.inf (x != y), flagDZ)
    else
      let k := bits + 4 + n.log2
      (.fin (x != y) (m * 2 ^ k / n) (e - d - k) (m * 2 ^ k % n != 0), 0#7)
  | _, _ => (.nan, nvIf [a, b])

/-- The integer square root, bit by bit from 2^(n − 1) down, above a partial root. -/
def rootFrom (v : Nat) : Nat → Nat → Nat
  | 0, r => r
  | n + 1, r => rootFrom v n (if (r + 2 ^ n) * (r + 2 ^ n) ≤ v then r + 2 ^ n else r)

/-- The integer square root. -/
def rootOf (v : Nat) : Nat := rootFrom v (v.log2 / 2 + 1) 0

/-- √a, with enough bits for a fraction of `bits`. -/
def sqrtNum (bits : Nat) (a : Num) : Exact × Flag :=
  match a with
  | .nan _ _ _ => (.nan, nvIf [a])
  | .inf neg => if neg then (.nan, flagNV) else (.inf false, 0#7)
  | .fin neg m e =>
    if m = 0 then (.fin neg 0 0 false, 0#7)
    else if neg then (.nan, flagNV)
    else
      let k := bits + 4
      let v := if e % 2 = 0 then m * 2 ^ (2 * k) else m * 2 ^ (2 * k + 1)
      let d := if e % 2 = 0 then e / 2 - k else (e - 1) / 2 - k
      let r := rootOf v
      (.fin false r d (r * r != v), 0#7)

/-- The smaller or the larger of two values: NaN if either is, and −0 below +0 (R84). -/
def extremum (larger : Bool) (a b : Num) : Exact × Flag :=
  if a.isNan || b.isNan then (.nan, nvIf [a, b])
  else
    let c := a.compare b
    let first := if c = 0 then a.neg else decide (c < 0)
    ((if first == larger then b else a).exact, 0#7)

/-! ## Elementary functions (R283) -/

/-- Fraction bits of the fixed-point numbers below. -/
def fixBits : Nat := 820

/-- The partial sums of e^y from the term of index i on, for a fixed-point y. -/
def expTerms (y : Nat) : Nat → Nat → Nat → Nat
  | 0, _, _ => 0
  | n + 1, i, term => term + expTerms y n (i + 1) (term * y / 2 ^ fixBits / i)

/-- A fixed-point number squared n times. -/
def squareTimes : Nat → Nat → Nat
  | 0, v => v
  | n + 1, v => squareTimes n (v * v / 2 ^ fixBits)

/-- e^x for a fixed-point x below 1,024: the series at x / 2^20, squared 20 times. -/
def expFixed (x : Nat) : Nat := squareTimes 20 (expTerms (x / 2 ^ 20) 64 1 (2 ^ fixBits))

/-- e^a for a finite number, to far more bits than FP32 holds; never 0, since SMX takes its products exactly (R359). -/
def expFin (neg : Bool) (m : Nat) (e : Int) : Exact :=
  if m = 0 then .fin false 1 0 false
  else if 10 ≤ e + m.log2 then .fin false 1 (if neg then -2000 else 2000) true
  else
    let v := expFixed (m * 2 ^ (fixBits + e).toNat)
    if neg then .fin false (2 ^ (2 * fixBits + 1600) / v) (-fixBits - 1600) true else .fin false v (-fixBits) true

/-- e^a. -/
def expNum (a : Num) : Exact × Flag :=
  match a with
  | .nan _ _ _ => (.nan, nvIf [a])
  | .inf neg => (if neg then .fin false 0 0 false else .inf false, 0#7)
  | .fin neg m e => (expFin neg m e, 0#7)

/-- tanh a. -/
def tanhNum (a : Num) : Exact × Flag :=
  match a with
  | .nan _ _ _ => (.nan, nvIf [a])
  | .inf neg => (.fin neg 1 0 false, 0#7)
  | .fin neg m e =>
    if m = 0 then (.fin neg 0 0 false, 0#7)
    else if 8 ≤ e + m.log2 then (.fin neg (2 ^ fixBits - 1) (-fixBits) true, 0#7)
    else
      let v := expFixed (2 * m * 2 ^ (fixBits + e).toNat)
      (.fin neg ((v - 2 ^ fixBits) * 2 ^ fixBits / (v + 2 ^ fixBits)) (-fixBits) true, 0#7)

/-- 1/a. -/
def rcpNum (bits : Nat) (a : Num) : Exact × Flag := divNum bits (.fin false 1 0) a

/-- 1/√a. -/
def rsqrtNum (bits : Nat) (a : Num) : Exact × Flag :=
  match a with
  | .nan _ _ _ => (.nan, nvIf [a])
  | .inf neg => if neg then (.nan, flagNV) else (.fin false 0 0 false, 0#7)
  | .fin neg m e =>
    if m = 0 then (.inf neg, flagDZ)
    else if neg then (.nan, flagNV)
    else
      let k := 2 * (bits + 4 + m.log2)
      let t := if e % 2 = 0 then k else k + 1
      let r := rootOf (2 ^ t / m)
      (.fin false r (-(e + t) / 2) (r * r * m != 2 ^ t), 0#7)

end Sys2Proof.Machine
end

