-- ==== Sys2Proof/Machine/Access.lean ====
section
/-! DEFINITION. Reading and changing the parts of the state: cores, contexts, dies, the positions of cores, the
scalar and handle registers and the float registers as views of the pool. -/

namespace Sys2Proof.Machine

/-! ## Cores and contexts -/

/-- A core by its key. -/
def State.core (s : State) (k : Nat) : Core := Tab.get Core.reset s.cores k

/-- The state with a core replaced. -/
def State.setCore (s : State) (k : Nat) (x : Core) : State := { s with cores := Tab.put s.cores k x }

/-- The state with a core changed. -/
def State.modCore (s : State) (k : Nat) (f : Core → Core) : State := s.setCore k (f (s.core k))

/-- A context of a core. -/
def Core.ctx (x : Core) (c : Nat) : Ctx := Tab.get Ctx.reset x.ctxs c

/-- The core with a context replaced. -/
def Core.setCtx (x : Core) (c : Nat) (t : Ctx) : Core := { x with ctxs := Tab.put x.ctxs c t }

/-- A context of the state. -/
def State.ctx (s : State) (k c : Nat) : Ctx := (s.core k).ctx c

/-- The state with a context replaced. -/
def State.setCtx (s : State) (k c : Nat) (t : Ctx) : State := s.setCore k ((s.core k).setCtx c t)

/-- The state with a context changed. -/
def State.modCtx (s : State) (k c : Nat) (f : Ctx → Ctx) : State := s.setCtx k c (f (s.ctx k c))

/-- A die. -/
def State.die (s : State) (d : Nat) : Die := Tab.get Die.reset s.dies d

/-- The state with a die changed. -/
def State.modDie (s : State) (d : Nat) (f : Die → Die) : State := { s with dies := Tab.put s.dies d (f (s.die d)) }

/-- Position in the key of a core: die, y, x and the position in its cluster (R9, R127). -/
def dieOf (k : Nat) : Nat := k / 1024
/-- The row of a core's site. -/
def yOf (k : Nat) : Nat := k / 32 % 32
/-- The column of a core's site. -/
def xOf (k : Nat) : Nat := k % 32
/-- cc of a core (R127). -/
def ccOf (k : Nat) : Nat := yOf k % 4 * 8 + xOf k % 8
/-- The cluster of a core within its die: 4 columns of 8, 8 rows of 4 (R9). -/
def clusterOf (k : Nat) : Nat := yOf k / 4 * 4 + xOf k / 8
/-- The key of peer `cc` of a core's cluster. -/
def peerOf (k cc : Nat) : Nat := dieOf k * 1024 + (yOf k / 4 * 4 + cc / 8) * 32 + (xOf k / 8 * 8 + cc % 8)
/-- The key of a site. -/
def siteKey (d y x : Nat) : Nat := d * 1024 + y * 32 + x

/-- The core exists and is not fused off (R2). -/
def State.enabled (s : State) (k : Nat) : Bool := decide (k < 4096) && !s.fused.contains k

/-- Adds to an event counter of a core, which is 64-bit and wraps (R415). -/
def Core.bump (x : Core) (group index n : Nat) : Core :=
  let key := 256 * group + index
  { x with perf := Tab.put x.perf key (Tab.get 0 x.perf key + word n) }

/-- Adds to a 32-bit soft-error counter of a core, which saturates (R415). -/
def Core.bumpSoft (x : Core) (index n : Nat) : Core :=
  let v := min ((Tab.get 0 x.perf (512 + index)).toNat + n) 0xFFFFFFFF
  { x with perf := Tab.put x.perf (512 + index) (word v) }

/-- The die a unit that asks another node stands on. -/
def Owner.die (s : State) (o : Owner) : Nat :=
  match o with
  | .ctx k _ => dieOf k
  | .copy k _ => dieOf k
  | .matrix k _ _ => dieOf k
  | .core k => dieOf k
  | .line k _ _ => dieOf k
  | .engine d _ => d
  | .master => s.master.die
  | .mailbox => 0
  | .left k _ => dieOf k
  | .gone => 0

/-! ## Registers -/

/-- A scalar register other than the queues (R115, R116). -/
def Ctx.scalar (t : Ctx) (r : Nat) : Word := if r = 0 then 0 else Tab.get 0 t.s r

/-- The context with a scalar register written; a write of s0 is discarded (R116). -/
def Ctx.setScalar (t : Ctx) (r : Nat) (v : Word) : Ctx := if r = 0 then t else { t with s := Tab.put t.s r v }

/-- A handle register. -/
def Ctx.handle (t : Ctx) (r : Nat) : HandleBits := Tab.get 0 t.h r

/-- The context with a handle register written. -/
def Ctx.setHandle (t : Ctx) (r : Nat) (v : HandleBits) : Ctx := { t with h := Tab.put t.h r v }

/-- LEN of PREC (R144). -/
def Ctx.len (t : Ctx) : Nat := field t.prec 3 0

/-- W at a length code (R68, R145). -/
def widthOf (k : Nat) : Nat := 16 + 8 * k

/-- fN exists at the length code (R145). -/
def floatExists (k n : Nat) : Bool := decide ((n + 1) * widthOf k ≤ 1024)

/-- The pattern of fN at a length code (R145). -/
def poolGet (pool : BitVec 1024) (k n : Nat) : Nat := pool.toNat / 2 ^ (n * widthOf k) % 2 ^ widthOf k

/-- The pool with fN written at a length code (R145). -/
def poolSet (pool : BitVec 1024) (k n v : Nat) : BitVec 1024 :=
  BitVec.ofNat 1024 (putField pool.toNat ((n + 1) * widthOf k - 1) (n * widthOf k) v)

/-- The pattern of fN at the current length. -/
def Ctx.float (t : Ctx) (n : Nat) : Nat := poolGet t.pool t.len n

/-- The context with fN written at the current length. -/
def Ctx.setFloat (t : Ctx) (n v : Nat) : Ctx := { t with pool := poolSet t.pool t.len n v }

/-- The launch ID that the context's messages carry: a follower's is its leader's (R28, R31). -/
def Ctx.sendLid (t : Ctx) : BitVec 16 :=
  match t.gang with
  | .following _ _ _ => t.gangLid
  | _ => t.launchId

/-- Flags are ORed into SATF (R64). -/
def Ctx.orFlags (t : Ctx) (f : BitVec 7) : Ctx := { t with satf := t.satf ||| f.setWidth 64 }

/-- A remote load, store or atomic ended with the error value (R170, R426). -/
def Ctx.remoteError (t : Ctx) : Ctx := t.orFlags 0x40#7

/-- The core whose non-temporal buffer stands before an owner's requests (R237, R238). -/
def Owner.bufferOf (o : Owner) : Option Nat :=
  match o with
  | .ctx k _ => some k
  | .copy k _ => some k
  | .matrix k _ _ => some k
  | .core k => some k
  | .left k _ => some k
  | _ => none

/-- The contexts whose bytes a line holds. -/
def NtLine.ctxs (l : NtLine) : List Nat := (l.marks.map fun m => m.2.ctx).eraseDups

/-- A line holds a byte of the context. -/
def NtLine.holds (l : NtLine) (c : Nat) : Bool := l.marks.any fun m => m.2.ctx == c

/-- The store that a byte of a store-path entry comes from: its context and its place in program order (R237). -/
def Store.origin (e : Store) (pa : Nat) : Nat × Nat :=
  match Tab.find e.marks pa with
  | some m => (m.ctx, m.seq)
  | none => (e.ctx, e.seq)

/-- A store-path entry holds a byte of the context. -/
def Store.holds (e : Store) (c : Nat) : Bool :=
  if e.marks.isEmpty then e.ctx == c else e.marks.any fun m => m.2.ctx == c

/-- The data of an earlier `fld` or `fldr` to one of the float registers have not arrived (R147). -/
def Ctx.floatsPending (t : Ctx) (regs : List Nat) : Bool :=
  t.pending.any fun p =>
    match p.float with
    | some f => regs.contains f.reg
    | none => false

/-- Answers that another node gave this owner are forgotten. -/
def State.forget (s : State) (o : Owner) : State := { s with answers := s.answers.filter fun a => decide (a.1 ≠ o) }

/-- A request that writes at its target. -/
def Query.writes (q : Query) : Bool :=
  match q.ask with
  | .store _ => true
  | .atomic _ _ _ => true
  | _ => false

/-- Whose a request is once its owner waits for no answer: a write of an instruction stays its context's, whose save and
whose releases still wait for it (R252, R266, R269). -/
def Request.orphan (r : Request) : Owner :=
  match r.owner with
  | .ctx k c => if r.query.writes then .left k c else .gone
  | _ => .gone

/-- The owner waits for no answer any more: answers it has are forgotten, and one that still comes is dropped. A store
whose translation is confirmed goes on (R269). -/
def State.abandon (s : State) (o : Owner) : State :=
  let s := s.forget o
  { s with requests := s.requests.map fun (t, r) =>
      (t, if decide (r.owner = o) && !r.translated then { r with owner := r.orphan } else r) }

end Sys2Proof.Machine
end

