-- ==== Sys2Proof/Machine/Remote.lean ====
section
/-! DEFINITION. Requests to other nodes (R229, R425): the route of a node, the packet of a request, and the table of
requests whose answers are awaited. -/

namespace Sys2Proof.Machine

/-- An Isder port has trained with its partner (R173). -/
def State.portReady (s : State) (p : Nat) : Bool := s.ready.getLsbD (12 + p)

/-- The Isder port that traffic of die `d` for a node leaves by: the primary port, which the events of a lost link
replace by the alternate; the alternate also stands in for a port that is not ready (R381, R332, R432). -/
def State.exitPort (s : State) (d node : Nat) : Nat :=
  let w := Tab.get 0 s.routes node
  let p := field w (8 * d + 4) (8 * d)
  if !s.portReady p && bit w 37 && s.portReady (field w 36 32) then field w 36 32 else p

/-- PATH of a node as it stands: unreachable while a port that leads there is not ready (R381, R432, log 33). -/
def State.path (s : State) (node : Nat) : Nat :=
  let w := field (Tab.get 0 s.routes node) 63 62
  if w = 1 && !((upFrom 0 4).all fun d => s.portReady (s.exitPort d node)) then 0 else w

/-- An Isder port. -/
def State.port (s : State) (p : Nat) : Port := Tab.get {} s.ports p

/-- The state with a port changed. -/
def State.modPort (s : State) (p : Nat) (f : Port → Port) : State := { s with ports := Tab.put s.ports p (f (s.port p)) }

/-- The kind is a sink (R22, R326). -/
def sinkKind (kind : Nat) : Bool := kind == 1 || kind == 2 || kind == 3 || kind == 4 || kind == 6

/-- The virtual channel of a packet (R425): a message's follows from its kind and class. -/
def Packet.vc (p : Packet) : Nat :=
  if p.kind = 1 then
    let hdr1 := wordOf ((p.data.drop 8).take 8)
    if sinkKind (field hdr1 12 10) || (field hdr1 12 10 == 0 && bit hdr1 8) then 0 else 1
  else if p.kind < 0x20 then 2 else 3

/-- The port can put a packet of a virtual channel into a flit (R424, R425). -/
def Port.canSend (p : Port) (vc : Nat) : Bool :=
  p.up && !p.training && decide (p.unacked.length < 512) && Tab.get 0 p.credits vc != 0

/-- The bytes of a packet: word 0, word 1 where the type has one, and the data (R425). -/
def Packet.bytes (p : Packet) : List Byte :=
  bytesOf 8 (p.txid % 2 ^ 16 * 2 ^ 48 + p.asid % 2 ^ 13 * 2 ^ 32 + p.dst % 64 * 2 ^ 24 + p.src % 64 * 2 ^ 16
    + p.len % 256 * 256 + p.kind % 256) ++ (if p.kind = 1 then p.data else bytesOf 8 p.word1.toNat ++ p.data)

/-- Bytes 0 to 241 of a flit: the packet of a payload flit, zero bytes, and the link-layer field (R423, R424). -/
def SentFlit.bytes (f : SentFlit) : List Byte :=
  ((if f.ftype = 1 then f.packet.bytes else []) ++ List.replicate 236 0).take 236 ++
  bytesOf 6 (f.fseq % 1024 * 2 ^ 38 + f.aseq % 1024 * 2 ^ 28 + f.ack % 4 * 2 ^ 26 + f.cvc % 4 * 2 ^ 24
    + f.cred % 256 * 2 ^ 16 + f.ftype * 256)

/-- A packet leaves in the next flit, which carries the port's acknowledgement and a returned slot (R424). -/
def Port.sendFlit (p : Port) (f : SentFlit) : Port :=
  let n := (p.fseq + 1) % 1024
  let vc := f.packet.vc
  let f := { f with fseq := n, aseq := p.aseq, ack := p.ack, cvc := p.freed.headD 0, cred := min 1 p.freed.length }
  { p with fseq := n, unacked := p.unacked ++ [f], wire := p.wire ++ [f.bytes], ack := 0, freed := p.freed.drop 1
           credits := Tab.put p.credits vc (Tab.get 0 p.credits vc - 1) }

/-- The flits that the partner has not acknowledged are sent again, in order (R424, R429). -/
def Port.replay (p : Port) : Port := { p with wire := p.wire ++ p.unacked.map SentFlit.bytes }

/-- Packets leave in order, each virtual channel by itself, as far as the port can send. -/
def sendPackets : List SentFlit → Port → Port
  | [], p => p
  | f :: fs, p => sendPackets fs (if p.canSend f.packet.vc then p.sendFlit f else { p with out := p.out ++ [f] })

/-- A link-control flit, which is numbered and kept as a payload flit is, returns the slots of a virtual channel (R424,
log 36). -/
def Port.controlFlit (p : Port) (vc : Nat) : Port :=
  let n := (p.fseq + 1) % 1024
  let mine := p.freed.filter (· == vc)
  let f : SentFlit :=
    { fseq := n, packet := {}, aseq := p.aseq, ack := p.ack, cvc := vc, cred := min 255 mine.length, ftype := 2 }
  { p with fseq := n, unacked := p.unacked ++ [f], wire := p.wire ++ [f.bytes], ack := 0
           freed := mine.drop 255 ++ p.freed.filter (· != vc) }

/-- The slots that no packet's flit returns leave in link-control flits. -/
def Port.returnSlots (p : Port) : Port :=
  (upFrom 0 4).foldl (fun p vc => if p.freed.contains vc && decide (p.unacked.length < 512) then p.controlFlit vc else p) p

/-- An idle flit, which takes no number, carries an acknowledgement or a replay request that no other flit does (R424,
log 36). -/
def Port.idleFlit (p : Port) : Port :=
  if p.ack = 0 then p
  else
    let f : SentFlit := { fseq := p.fseq, packet := {}, aseq := p.aseq, ack := p.ack, ftype := 0 }
    { p with wire := p.wire ++ [f.bytes], ack := 0 }

/-- The port sends what it can: packets, and then what it owes the partner (R424). -/
def Port.pump (p : Port) : Port :=
  let p := sendPackets p.out { p with out := [] }
  if !p.up || p.training then p else p.returnSlots.idleFlit

/-- A packet is given to a port (R423); `lid` and `count` say what its message counts as in a launch delta, and
`senders` whose message it is; `part` is what a deposit of a `copy.r` writes. -/
def State.toPort (s : State) (p : Nat) (packet : Packet) (lid count : Nat) (senders : List (Nat × Nat) := [])
    (part : Option CopyPart := none) : State :=
  s.modPort p fun x => ({ x with out := x.out ++ [{ fseq := 0, packet, lid, count, senders, part }] } : Port).pump

/-- The packet of a request (R425). -/
def Query.packet (q : Query) (own txid : Nat) : Packet :=
  let base : Packet := { txid, asid := q.asid, dst := q.node, src := own, word1 := word (q.va % 2 ^ 56) }
  match q.ask with
  | .load n => { base with kind := 0x10, len := n }
  | .store bs => { base with kind := 0x11, len := bs.length, data := bs }
  | .confirm => { base with kind := 0x11, len := 0 }
  | .atomic op b x =>
    { base with kind := 0x12, len := 16, data := bytesOf 8 b.toNat ++ bytesOf 8 x.toNat
                word1 := word (q.va % 2 ^ 56 + op * 2 ^ 56) }
  | .acquire sh => { base with kind := 0x13, word1 := word (q.va % 2 ^ 56 + (if sh then 1 else 0)) }
  | .release sh => { base with kind := 0x13, word1 := word (q.va % 2 ^ 56 + (if sh then 1 else 0) + 2 ^ 56) }

/-- The request is on its way. -/
def State.isAsked (s : State) (o : Owner) (q : Query) : Bool :=
  s.requests.any fun r => decide (r.2.owner = o ∧ r.2.query = q ∧ r.2.translated = false)

/-- A transaction number that no request uses, from the counter on. -/
def State.freeTx (s : State) : Nat :=
  (((upFrom s.nextTx (s.requests.length + 1)).map (· % 65536)).find? fun t => (Tab.find s.requests t).isNone).getD 0

/-- A unit of die `d` asks another node: the request takes a transaction number, and its packet waits for a flit of
the node's port; a node without an Isder path answers with STATUS 5 (R425, R426). -/
def State.post (s : State) (d : Nat) (o : Owner) (q : Query) : State :=
  if s.isAsked o q then s
  else if s.path q.node ≠ 1 then { s with answers := s.answers ++ [(o, q, { status := 5 })] }
  else
    let tx := s.freeTx
    let p := s.exitPort d q.node
    let s := { s with requests := Tab.put s.requests tx { owner := o, query := q, port := p }, nextTx := tx + 1 }
    s.toPort p (q.packet s.node tx) 0 0

/-- A hold that another node granted to a context which no longer waits for it is given back, by port `p` (log 37). -/
def State.giveBack (s : State) (p : Nat) (q : Query) : State :=
  match q.ask with
  | .acquire shared =>
    let tx := s.freeTx
    let q := { q with ask := .release shared }
    let s := { s with requests := Tab.put s.requests tx { owner := .gone, query := q, port := p }, nextTx := tx + 1 }
    s.toPort p (q.packet s.node tx) 0 0
  | _ => s

/-- The request asks for a hold (R258). -/
def Query.acquires (q : Query) : Bool :=
  match q.ask with
  | .acquire _ => true
  | _ => false

/-- Another node has answered the context's `acq` (R258). -/
def State.lockAnswered (s : State) (k c : Nat) : Bool :=
  s.answers.any fun a => decide (a.1 = .ctx k c) && a.2.1.acquires

/-- The holds that other nodes have granted to a context's `acq` are given back (R258, log 37). -/
def State.giveBackHolds (s : State) (k c : Nat) : State :=
  (s.answers.filter fun a => decide (a.1 = .ctx k c) && a.2.1.acquires && a.2.2.status == 0 && !a.2.2.data.isEmpty).foldl
    (fun s a => s.giveBack (s.exitPort (dieOf k) a.2.1.node) a.2.1) s

/-! ## The non-temporal buffer before a request (R238) -/

/-- Consecutive bytes of a line, as offset and data, from a table in rising order. -/
def lineRuns : List (Nat × Byte) → List (Nat × List Byte)
  | [] => []
  | (o, b) :: rest =>
    match lineRuns rest with
    | (p, bs) :: more => if p = o + 1 then (o, b :: bs) :: more else (o, [b]) :: (p, bs) :: more
    | [] => [(o, [b])]

/-- A line of the non-temporal buffer goes toward its home: for another node as requests (R238), else into the core's
store path, behind every earlier store. -/
def State.sendLine (s : State) (k : Nat) (l : NtLine) : State :=
  let s := s.modCore k fun x => { x with nt := x.nt.filter fun m => m.id != l.id }
  match l.node with
  | some n =>
    if s.path n ≠ 1 then l.ctxs.foldl (fun s c => s.modCtx k c Ctx.remoteError) s
    else (lineRuns l.bytes).foldl (fun s r =>
      s.post (dieOf k) (.line k l.id l.ctxs) { node := n, asid := l.asid, va := l.va / 64 * 64 + r.1, ask := .store r.2 }) s
  | none => s.modCore k fun x => { x with
      seq := x.seq + 1
      stores := x.stores ++ [{ ctx := l.ctxs.headD 0, seq := x.seq, nt := true, asid := l.asid
                               bytes := l.bytes.map fun b => (l.pa * 64 + b.1, b.2)
                               marks := l.marks.map fun m => (l.pa * 64 + m.1, m.2) }] }

/-- Every buffered line that meets a condition goes toward its home. -/
def State.sendLines (s : State) (k : Nat) (p : NtLine → Bool) : State :=
  ((s.core k).nt.filter p).foldl (fun s l => s.sendLine k l) s

/-- Buffered lines that hold one of the physical bytes go first (R237, R238). -/
def State.flushPas (s : State) (k : Nat) (pas : List Nat) : State :=
  s.sendLines k fun l => l.node.isNone && l.bytes.any fun b => pas.contains (l.pa * 64 + b.1)

/-- Buffered lines that hold one of `n` bytes of another node from `va` on go first. -/
def State.flushNode (s : State) (k node asid va n : Nat) : State :=
  s.sendLines k fun l => l.node == some node && l.asid == asid &&
    l.bytes.any fun b => decide (va ≤ l.va / 64 * 64 + b.1 ∧ l.va / 64 * 64 + b.1 < va + n)

/-- Every buffered line that holds a byte of the context goes toward its home (R262, R266). -/
def State.flushCtx (s : State) (k c : Nat) : State := s.sendLines k fun l => l.holds c

/-- The length in bytes of what a request touches. -/
def Query.len (q : Query) : Nat :=
  match q.ask with
  | .load n => n
  | .store bs => bs.length
  | .confirm => 0
  | .atomic _ _ _ => 8
  | .acquire _ => 8
  | .release _ => 8

/-- A unit asks another node. Buffered bytes of its core that the request touches go before it (R237, R238). -/
def State.askNode (s : State) (d : Nat) (o : Owner) (q : Query) : State :=
  match o.bufferOf with
  | some k => (s.flushNode k q.node q.asid q.va q.len).post d o q
  | none => s.post d o q

/-- The answer that a unit has received to a request. -/
def State.answer (s : State) (o : Owner) (q : Query) : Option Answer :=
  (s.answers.find? fun a => decide (a.1 = o ∧ a.2.1 = q)).map fun a => a.2.2

end Sys2Proof.Machine
end

