-- ==== Sys2Proof/Machine/Ops.lean ====
section
/-! DEFINITION. The operations that every meaning is written over: the monad of a step, the cores and contexts of the
state, the scalar registers and queues (R115 to R120), retiring (R93 to R102, R115), waiting (R16), and taking an
exception and returning from one (R180 to R185). -/

namespace Sys2Proof.Machine

/-! ## The monad of a step -/

/-- A synchronous fault or trap (R180): its cause, the FLTPC value when it is not the instruction's address, FLTADDR
and FLTINFO. -/
structure Trap where
  cause : Nat
  pc : Option Word := none
  addr : Word := 0
  info : Word := 0
  deriving DecidableEq, Repr

/-- Why the meaning of an instruction stops before it retires: a fault, which leaves the state as it was before the
instruction; a fault that keeps what the given state holds (a staging record, R316); a fault that keeps what its walks
left in the TLBs and caches of the given state (R378); a wait at an instruction boundary; a question to another node,
whose answer the instruction waits for. -/
inductive Stop where
  | trap (t : Trap)
  | trapIn (t : Trap) (s : State)
  | walked (t : Trap) (s : State)
  | wait (w : WaitOn)
  | ask (o : Owner) (q : Query)
  deriving DecidableEq

/-- A step's computation: it reads and changes the state, or stops. -/
abbrev M := StateT State (Except Stop)

/-- Stop with a fault. -/
def raise {α : Type} (t : Trap) : M α := throw (.trap t)

/-- Stop and wait. -/
def pause {α : Type} (w : WaitOn) : M α := throw (.wait w)

/-- FLTINFO of an illegal instruction (R180). -/
def Code.fltInfo (c : Code) : Word :=
  match c with
  | .short h => h.setWidth 64 ||| 0x100000000#64
  | .long w => w.setWidth 64

/-- The illegal-operand fault with a subcode of R176. -/
def illegalOperand {α : Type} (sub : Nat) (addr : Word := 0) : M α := raise { cause := 0x04, addr, info := word sub }

/-- Subcode 4: an operand value out of range (R176). -/
def valueFault {α : Type} (addr : Word := 0) : M α := illegalOperand 4 addr

/-- Subcode 5: handle content (R176). -/
def handleFault {α : Type} : M α := illegalOperand 5

/-- Subcode 6: privilege (R176). -/
def privilegeFault {α : Type} : M α := illegalOperand 6

/-- Subcode 7: a gang condition (R176). -/
def gangFault {α : Type} : M α := illegalOperand 7

/-- Raise the value fault unless a condition holds. -/
def require (b : Bool) (addr : Word := 0) : M Unit := if b then pure () else valueFault addr

/-! ## The holder of the slot -/

/-- The core and context that hold the issue slot. -/
def here : M (Nat × Nat) := do
  let s ← get
  pure (s.iss.core, s.iss.ctx)

/-- The code of the instruction in the slot. -/
def myCode : M Code := do
  let s ← get
  pure s.iss.code

/-- The illegal-instruction fault of the instruction in the slot (R107, R180). -/
def illegalEncoding {α : Type} : M α := do
  let code ← myCode
  raise { cause := 0x02, info := Code.fltInfo code }

/-- The context that holds the issue slot. -/
def myCtx : M Ctx := do
  let s ← get
  pure (s.ctx s.iss.core s.iss.ctx)

/-- The core that holds the issue slot. -/
def myCore : M Core := do
  let s ← get
  pure (s.core s.iss.core)

/-- Change the context that holds the issue slot. -/
def modMyCtx (f : Ctx → Ctx) : M Unit := modify fun s => s.modCtx s.iss.core s.iss.ctx f

/-- Change the core that holds the issue slot. -/
def modMyCore (f : Core → Core) : M Unit := modify fun s => s.modCore s.iss.core f

/-! ## Program order numbers -/

/-- A number for an access of the core, greater than those given before. -/
def freshSeq (k : Nat) : M Nat := do
  let s ← get
  let x := s.core k
  set (s.setCore k { x with seq := x.seq + 1 })
  pure x.seq

/-- A number for a result of a context. -/
def freshId (k c : Nat) : M Nat := do
  let s ← get
  let t := s.ctx k c
  set (s.setCtx k c { t with nextId := t.nextId + 1 })
  pure t.nextId

/-- A free value (log 5): a number no earlier draw has given, to apply a constant of Config.lean to. -/
def draw : M Nat := do
  let s ← get
  set { s with drawn := s.drawn + 1 }
  pure s.drawn

/-! ## Scalar registers and queues -/

/-- A read of s60: the head leaves the load-data queue (R119). An instruction that pops twice waits for a reserved head
before it finds that no second entry stands (log 76). -/
def popLoad : M Word := do
  let t ← myCtx
  match t.ldq with
  | [] => illegalOperand 1
  | e :: rest =>
    match e.value with
    | none => pause .ldqHead
    | some v => do
      modMyCtx fun t => { t with ldq := rest }
      pure v

/-- A read of a scalar register field (R97, R115, R119). -/
def readS (r : BitVec 6) : M Word := do
  if r = 60#6 then popLoad
  else
    let t ← myCtx
    pure (t.scalar r.toNat)

/-- The entries of the store-data queue (R120). -/
def Ctx.pushed (t : Ctx) : Nat := t.stq.length

/-- A write of s61: a push onto the store-data queue (R120). Entries are claimed and sent in one step, so a full queue
holds no claimed entry. -/
def pushStore (v : Word) : M Unit := do
  let t ← myCtx
  if t.pushed < 16 then modMyCtx fun t => { t with stq := t.stq ++ [v] } else illegalOperand 3

/-- A write of a scalar result (R97, R116, R120). -/
def writeS (r : BitVec 6) (v : Word) : M Unit :=
  if r = 61#6 then pushStore v else modMyCtx fun t => t.setScalar r.toNat v

/-! ## Lookahead windows -/

/-- The value of a window's result arrives in its register when the window closes (R100); a push to s61 takes place
then (R120). -/
def Ctx.deliver (t : Ctx) (w : Window) (v : BitVec 256) : Ctx :=
  match w.file with
  | .scalar => if w.reg = 61 then { t with stq := t.stq ++ [v.setWidth 64] } else t.setScalar w.reg (v.setWidth 64)
  | .handle => t.setHandle w.reg v
  | .float => t.setFloat w.reg v.toNat

/-- Closes, in order, the windows that hold no further instruction; none while one of them has no result (R100). -/
def closeWindows (t : Ctx) : List Window → Option Ctx
  | [] => some t
  | w :: ws =>
    if w.count = 0 then
      match w.result with
      | none => none
      | some v => closeWindows (({ t with windows := t.windows.erase w } : Ctx).deliver w v) ws
    else closeWindows t ws

/-- The context as it is immediately before its next instruction issues, or none while a result is awaited (R100). -/
def Ctx.beforeIssue (t : Ctx) : Option Ctx := closeWindows t t.windows

/-- The closing of windows has pushed more onto the store-data queue than it holds (R120, log 43). -/
def Ctx.overfull (t : Ctx) : Bool := decide (16 < t.pushed)

/-- R101: an instruction that would open a fifth window first closes the oldest one. A push onto a full store-data
queue faults (R120). -/
def makeRoom : M Unit := do
  let t ← myCtx
  if t.windows.length < 4 then pure ()
  else
    match t.windows with
    | [] => pure ()
    | w :: ws =>
      match w.result with
      | none => pause .oldestWindow
      | some v =>
        if (({ t with windows := ws } : Ctx).deliver w v).overfull then illegalOperand 3
        else modMyCtx fun t => ({ t with windows := ws } : Ctx).deliver w v

/-! ## Retiring -/

/-- R102: an open window holds one instruction less. -/
def Window.tick (w : Window) : Window := { w with count := w.count - 1 }

/-- The context after its instruction has retired: the windows count it, and the next repetition or the next
instruction follows (R93, R95, R115). A follower of a gang keeps its own PC (R28). -/
def Ctx.retired (t : Ctx) (next : Word) (forwarded : Bool) : Ctx :=
  let t := { t with windows := t.windows.map Window.tick, latch := .none, waitOn := none, state := .ready, imaging := false,
                    formed := none }
  if forwarded then t
  else
    match t.repeating with
    | some (count, _) =>
      if t.repi + 1 < count then { t with repi := t.repi + 1 }
      else { t with repi := 0, repeating := none, pc := next }
    | none => { t with pc := next }

/-- The state once the instruction in the slot has retired, with `next` the address of the one after it. -/
def State.retiredTo (s : State) (next : Word) : State :=
  let s := s.modCtx s.iss.core s.iss.ctx fun t => t.retired next s.iss.forwarded
  let s := s.modCore s.iss.core fun x => x.bump 0 1 1
  let s := if s.answers.isEmpty then s else s.forget (.ctx s.iss.core s.iss.ctx)
  { s with iss := { s.iss with retired := true } }

/-- The instruction retires, and `next` follows it. -/
def retireTo (next : Word) : M Unit := modify fun s => s.retiredTo next

/-- The instruction retires, and the one after it follows. -/
def retire : M Unit := do
  let s ← get
  retireTo s.iss.next

/-- The instruction retires and opens a window on its result (R100); with s0 as D there is none (R116). -/
def retireWindow (w : Window) : M Unit := do
  retire
  if decide (w.file = .scalar ∧ w.reg = 0) then pure ()
  else modMyCtx fun t => { t with windows := t.windows ++ [w] }

/-! ## Activations, faults and machine checks -/

/-- The report of an activation: machine checks are forwarded (R434). -/
def Activation.reports (a : Activation) (k : Nat) : List Report :=
  if a.cause = 0x10 then [.machineCheck k a.cause a.info] else []

/-- An activation of context 15 is enqueued (R181), and a machine check is forwarded (R434). -/
def State.enqueue (s : State) (k : Nat) (a : Activation) : State :=
  { s.modCore k fun x => { x with activations := x.activations ++ [a] } with reports := s.reports ++ a.reports k }

/-- A supervisor fault stops the core and is reported to management (R184). -/
def State.supervisorFault (s : State) (k cause : Nat) (info : Word) : State :=
  let s := s.modCore k fun x => { x with stopped := true }
  { s with reports := s.reports ++ [.machineCheck k cause info] }

/-- The leader of a follower at position `pos` loses it (R29). -/
def State.leaveGang (s : State) (k : Nat) (t : Ctx) : State :=
  match t.gang with
  | .following _ pos _ =>
    let lead := k - pos
    s.modCore lead fun x => { x with ctxs := x.ctxs.map fun (c, u) =>
      match u.gang with
      | .leading n ms => (c, { u with gang := .leading n (ms.filter (· ≠ pos)) })
      | _ => (c, u) }
  | _ => s

/-- The context's `acq` is withdrawn from the wait list, or on its way to it (R258). -/
def State.withdraw (s : State) (k c : Nat) : State :=
  let keep := fun (q : LockReq) => q.release || q.node.isSome || q.core != k || q.ctx != c
  if s.locks.isEmpty && s.retries.isEmpty && (s.dies.all fun d => d.2.waiting.isEmpty) then s
  else { s with locks := s.locks.filter keep, retries := s.retries.filter keep
                dies := s.dies.map fun d => (d.1, { d.2 with waiting := d.2.waiting.filter keep }) }

/-- A wait that a forced save may abandon although something has been sent: the instruction does the same again when it
is executed again (R258, R386, R390). -/
def WaitOn.repeats (w : WaitOn) : Bool :=
  match w with
  | .lock => true
  | .changed => true
  | .invalidated _ _ => true
  | _ => false

/-- The context is at an instruction boundary: its instruction has sent no request, or may be abandoned (R188). -/
def Ctx.atBoundary (t : Ctx) : Bool := t.latch = .none || (t.latch = .asked && (t.waitOn.map WaitOn.repeats).getD false)

/-- The context is stopped at `pc` and an activation tells why (R181); in context 15 the core stops (R184). A matrix
fetch that it waited in is abandoned (R302), and a hold that another node has granted it is given back (R258). -/
def State.trapCtx (s : State) (k c cause : Nat) (pc addr info : Word) : State :=
  if c = 15 then s.supervisorFault k cause info
  else
    let t := s.ctx k c
    let s := s.leaveGang k t
    let gang := match t.gang with
      | .following _ _ _ => Gang.alone
      | .joining _ => Gang.alone
      | g => g
    let s := s.setCtx k c { t with
      state := .trapped, pc := pc, waitOn := none, latch := .none, repeating := none, gang := gang, preqSince := none
      imaging := false, formed := none }
    let s := s.modCore k fun x => { x with matrix := x.matrix.filter fun e => e.ctx != c || e.fetched }
    (((s.withdraw k c).giveBackHolds k c).abandon (.ctx k c)).enqueue k { cause, ctx := some c, pc, addr, info }

/-- The context that holds the slot with REPI at the repetition that it executes: a follower's comes with the forwarded
instruction (R95). Context 15 is in no gang (R186). -/
def State.atRepetition (s : State) : State :=
  if s.iss.forwarded && s.iss.ctx != 15 then s.modCtx s.iss.core s.iss.ctx fun t => { t with repi := s.iss.repi } else s

/-- Taking an exception (R180, R181): the context that holds the slot becomes TRAPPED at the FLTPC value. The
instruction has not retired, and registers, queues and windows stand as they were. -/
def State.takeTrap (s : State) (t : Trap) : State :=
  s.atRepetition.trapCtx s.iss.core s.iss.ctx t.cause (t.pc.getD s.iss.pc) t.addr t.info

/-- A machine check against a context (R181): taken at its next boundary; at once where the context is FREE, already
TRAPPED or SAVING, or where the run has no context (R321, log 41). -/
def State.machineCheck (s : State) (k c source : Nat) (addr : Word) : State :=
  let t := s.ctx k c
  if 16 ≤ c then s.enqueue k { cause := 0x10, ctx := none, pc := 0, addr, info := word source }
  else if t.state = .free || t.state = .trapped || t.state = .saving then
    s.enqueue k { cause := 0x10, ctx := some c, pc := 0, addr, info := word source }
  else s.setCtx k c { t with checks := t.checks ++ [(source, addr)] }

/-- A machine check that concerns no context (R224, R189). -/
def State.coreCheck (s : State) (k source : Nat) (addr : Word) : State :=
  s.enqueue k { cause := 0x10, ctx := none, pc := 0, addr, info := word source }

/-- The rank of R182 among activations. -/
def Activation.rank (a : Activation) : Nat :=
  if a.cause = 0x10 then 0 else if a.cause = 0x11 then 2 else if a.cause = 0x12 then 3
  else if a.cause = 0x13 then 4 else 1

/-- FLT for an activation (R175). -/
def Activation.flt (a : Activation) : Word :=
  match a.ctx with
  | some c => word (c * 4096 + a.cause)
  | none => word (15 * 4096 + 256 + a.cause)

/-- Context 15 takes an activation: the fault registers are written, and it starts at TVEC (R182). -/
def Core.activate (x : Core) (a : Activation) : Core :=
  let t := x.ctx 15
  let x := { x with flt := a.flt, fltpc := a.pc, fltaddr := a.addr, fltinfo := a.info,
                    activations := x.activations.erase a }
  x.setCtx 15 { t with state := .ready, pc := x.tvec, deadline := x.cycle + 15 }

/-- Context 15's activation ends (R136): it becomes FREE and keeps its registers. -/
def Core.endActivation (x : Core) : Core :=
  let t := x.ctx 15
  x.setCtx 15 { t with state := .free, waitOn := none, latch := .none, windows := [], pending := [], ldq := [],
                       stq := [], repeating := none, repi := 0, formed := none }

/-- The return from an exception (R185): the context FLT names goes on at its PC, if it is TRAPPED. The count of a pending
pre-emption request starts again (log 92). -/
def Core.resume (x : Core) : Core :=
  let c := field x.flt 15 12
  let t := x.ctx c
  let x := if bit x.flt 8 then x
    else if t.state = .trapped then
      x.setCtx c { t with state := .ready, deadline := x.cycle + 15,
                          preqSince := if x.preq.getLsbD c then some x.cycle else t.preqSince,
                          staging := match t.staging with
                            | some g => if g.pc = t.pc then some g else none
                            | none => none }
    else x
  x.endActivation

/-! ## Flags -/

/-- The first out-of-range byte is recorded while OOB.F is 0 (R220). -/
def Ctx.outOfRange (t : Ctx) (addr : Word) : Ctx :=
  if bit t.oob 63 then t else { t with oob := 0x8000000000000000#64 ||| (addr &&& 0x0000FFFFFFFFFFFF#64) }

/-! ## Running a meaning -/

/-- The context that holds the slot waits (R16). -/
def State.enterWait (s : State) (w : WaitOn) : State :=
  s.modCtx s.iss.core s.iss.ctx fun t => { t with state := .wait, waitOn := some w }

/-- The state with a core's micro-TLB and the dies' TLBs and memory-side caches as another state of the same run holds them
(R378). -/
def State.withWalks (s w : State) (k : Nat) : State :=
  { s.modCore k (fun x => { x with utlb := (w.core k).utlb }) with
    dies := w.dies.map fun d => (d.1, { s.die d.1 with tlb := d.2.tlb, cache := d.2.cache }) }

/-- What a stopped instruction leaves behind. -/
def Stop.outcome (e : Stop) (s : State) : State :=
  match e with
  | .trap t => s.takeTrap t
  | .trapIn t s' => s'.takeTrap t
  | .walked t s' => (s.withWalks s' s.iss.core).takeTrap t
  | .wait w => s.enterWait w
  | .ask o q => (s.askNode (dieOf s.iss.core) o q).enterWait (.remote q)

/-- The outcome of an instruction's meaning: it has retired or changed the state, or it stopped and the state is the
one before it, but for the fault taken, the wait, or the question sent. -/
def runM (body : M Unit) (s : State) : Host.Outcome State Fault Refusal :=
  match body.run s with
  | .ok r => .next r.2
  | .error e => .next (e.outcome s)

/-- The outcome of a unit's step: a unit that must wait, or that is not able to move, leaves the state as it was, but
for a question it sends to another node. -/
def runEvent (body : M Unit) (s : State) : Host.Outcome State Fault Refusal :=
  match body.run s with
  | .ok r => .next r.2
  | .error (.ask o q) => .next (s.askNode (o.die s) o q)
  | .error _ => .next s

/-- The unit's step cannot take place now. -/
def notNow {α : Type} : M α := throw (.wait .answer)

end Sys2Proof.Machine
end

