-- ==== Sys2Proof/Machine/Translate.lean ====
section
/-! DEFINITION. Global memory by physical address (R229 to R231) and translation: the walk (R374 to R377), the TLBs
(R378) and publish buffers (R371, R372). -/

namespace Sys2Proof.Machine

/-! ## Home memory -/

/-- The home die of a physical address (R229). -/
def homeDie (pa : Nat) : Nat := pa / 2 ^ 37 % 4

/-- The HBM stack of a physical address (R229). -/
def stackOf (pa : Nat) : Nat := 2 * homeDie pa + pa / 2 ^ 12 % 2

/-- The stack's function is ready (R173, R432). -/
def State.stackReady (s : State) (n : Nat) : Bool := s.ready.getLsbD (4 + n)

/-- An access homed at a stack that is not ready waits; one at a stack that failed goes on with the error value
(R432). -/
def State.stackWaits (s : State) (pa : Nat) : Bool :=
  !s.stackReady (stackOf pa) && !s.failedStacks.contains (stackOf pa)

/-- Wait for the stack of an address. -/
def needStack (pa : Nat) : M Unit := do
  let s ← get
  if s.stackWaits pa then pause (.stack (stackOf pa)) else pure ()

/-- A read of this byte delivers the error value: its line is poisoned, or its stack failed (R231, R432). -/
def State.badByte (s : State) (pa : Nat) : Bool :=
  s.failedStacks.contains (stackOf pa) || s.poison.contains (pa / 64)

/-- The byte of HBM at an address as its home reads it. -/
def State.hbmByte (s : State) (pa : Nat) : Byte := if s.badByte pa then 0xFF else Memory.read s.hbm pa

/-- Consecutive bytes of HBM. -/
def State.hbmBytes (s : State) (pa n : Nat) : List Byte := (upFrom pa n).map s.hbmByte

/-- A line enters its die's memory-side cache: 16-way, 65,536 sets, least recently used first out (R230).
The set of a line is its number modulo 65,536 (log 8). -/
def allocLine (lines : List Nat) (line : Nat) : List Nat :=
  let rest := lines.erase line
  let mates := rest.filter fun l => l % 65536 == line % 65536
  let rest := if mates.length < 16 then rest else rest.erase (mates.getLastD 0)
  line :: rest

/-- An access through the home cache of `pa`; a non-allocating one leaves the lines as they are (R238). -/
def State.touch (s : State) (pa : Nat) (allocate : Bool) : State :=
  if allocate || (s.die (homeDie pa)).cache.contains (pa / 64) then
    s.modDie (homeDie pa) fun d => { d with cache := allocLine d.cache (pa / 64) }
  else s

/-- Physical bytes are accessed through the memory-side caches of their homes (R230); a non-allocating access leaves the
lines as they are (R238). -/
def State.touchAll (s : State) (allocate : Bool) (pas : List Nat) : State :=
  ((pas.map (· / 64)).eraseDups).foldl (fun s l => s.touch (64 * l) allocate) s

/-- The cluster atomic engine of a physical address: die and cluster (R242). -/
def engineOf (pa : Nat) : Nat × Nat := (homeDie pa, pa / 2 ^ 6 % 32)

/-- A write that reaches the home cache takes the line out of its engine's hot store (R243). -/
def State.coolLine (s : State) (pa : Nat) : State :=
  let (d, c) := engineOf pa
  let e := Tab.get {} (s.die d).atomics c
  if e.hot.contains (pa / 64) then
    s.modDie d fun x => { x with atomics := Tab.put x.atomics c { e with hot := e.hot.erase (pa / 64) } }
  else s

/-- A write of all 64 bytes of a line clears its poison (R231). -/
def State.clearPoison (s : State) (bytes : List (Nat × Byte)) : State :=
  if s.poison.isEmpty then s
  else { s with poison := s.poison.filter fun l => !(upFrom (l * 64) 64).all fun p => bytes.any fun b => b.1 == p }

/-- Bytes are performed at their home (R230, R253). A byte of a stack that failed is lost (R432). -/
def State.writeHbm (s : State) (bytes : List (Nat × Byte)) (allocate : Bool := true) : State :=
  let s := s.clearPoison bytes
  bytes.foldl (fun s b =>
    let s := (s.touch b.1 allocate).coolLine b.1
    if s.failedStacks.contains (stackOf b.1) then s else { s with hbm := s.hbm.write b.1 b.2 }) s

/-- The areas of HBM that no translation reaches: the Tip regions, the HI overflow pool and the dies' tables (R335,
R366). -/
def excluded (pa : Nat) : Bool :=
  let o := pa % 2 ^ 37
  (0x1FBB000000 ≤ o && o < 0x1FBC000000) || (0x1FBC000000 ≤ o && o < 0x1FBD000000) || 0x1FC0000000 ≤ o

/-! ## The walk -/

/-- What a walk ends in: a leaf, a failure with its kind (R377), or a table page in a stack that is not ready. -/
inductive Walk where
  | leaf (e : TlbEntry)
  | failed (kind : Nat)
  | busy (stack : Nat)
  deriving DecidableEq, Repr

/-- A level of the page tables: the lowest VA bit of its index, the bits of the index, whether an entry may be a leaf,
and whether it must (R375, R376). -/
structure Level where
  shift : Nat
  bits : Nat
  may : Bool
  must : Bool

/-- The five levels (R375). -/
def levels : List Level :=
  [⟨48, 8, false, false⟩, ⟨39, 9, false, false⟩, ⟨30, 9, true, false⟩, ⟨21, 9, true, false⟩, ⟨12, 9, true, true⟩]

/-- ADDR of a page-table entry. -/
def addrOf (e : Word) : Nat := field e 38 12 * 4096

/-- A table pointer keeps the rules of R376 and R377. -/
def pointerOk (e : Word) : Bool := zeroBits e 61 39 && zeroBits e 11 0 && !excluded (addrOf e)

/-- The bytes a leaf maps: its level's page, or 64 KiB with C64 (R375). -/
def leafSize (l : Level) (e : Word) : Nat := if bit e 61 then 65536 else 2 ^ l.shift

/-- A leaf keeps the rules of R376 and R377. -/
def leafOk (own : Nat) (l : Level) (e : Word) : Bool :=
  zeroBits e 49 39 && zeroBits e 11 0 && (!bit e 61 || l.must) && !(bit e 60 && bit e 59) &&
  (if bit e 60 then field e 55 50 != own && zeroBits e 38 12
   else if bit e 59 then zeroBits e 55 50 && zeroBits e 38 24
   else zeroBits e 55 50 && addrOf e % leafSize l e == 0 && !excluded (addrOf e))

/-- The walk from a table page on, and the addresses of the entries it reads (R375 to R378). -/
def walkFrom (s : State) (asid va : Nat) (base : Nat) : List Level → Walk × List Nat
  | [] => (.failed 2, [])
  | l :: ls =>
    let pa := base + 8 * (va / 2 ^ l.shift % 2 ^ l.bits)
    if s.stackWaits pa then (.busy (stackOf pa), [])
    else if s.badByte pa then (.failed 2, [pa])
    else
      let e := wordOf (s.hbmBytes pa 8)
      if !bit e 63 then (.failed 0, [pa])
      else if bit e 62 then
        if l.may && leafOk s.node l e then
          (.leaf { asid, va := va / leafSize l e * leafSize l e, size := leafSize l e, leaf := e }, [pa])
        else (.failed 2, [pa])
      else if l.must || !pointerOk e then (.failed 2, [pa])
      else
        let (w, reads) := walkFrom s asid va (addrOf e) ls
        (w, pa :: reads)

/-- The address of an ASID's table entry on a die (R374). -/
def asidPa (d asid : Nat) : Nat := 0x1FBBFF0000 + d * 2 ^ 37 + 8 * asid

/-- A walk of a die's translation unit, and the addresses it reads (R374 to R378). -/
def State.walk (s : State) (d asid va : Nat) : Walk × List Nat :=
  let at0 := asidPa d asid
  if va ≥ 2 ^ 56 then (.failed 0, [])
  else if s.stackWaits at0 then (.busy (stackOf at0), [])
  else if s.badByte at0 then (.failed 2, [at0])
  else
    let a := Tab.get 0 s.asids asid
    if bit a 63 then
      let (w, reads) := walkFrom s asid va (addrOf a) levels
      (w, at0 :: reads)
    else (.failed 0, [at0])

/-! ## The TLBs -/

/-- The entry translates the address. -/
def TlbEntry.covers (e : TlbEntry) (asid va : Nat) : Bool := e.asid == asid && decide (e.va ≤ va ∧ va < e.va + e.size)

/-- A micro-TLB takes an entry; it holds 32, and the least recently used leaves (R378). -/
def utlbTake (l : List TlbEntry) (e : TlbEntry) : List TlbEntry :=
  ({ e with pins := 0 } :: l.filter fun x => !x.covers e.asid e.va).take 32

/-- The set of the last-level TLB that an entry lies in (log 8). -/
def TlbEntry.set (e : TlbEntry) : Nat := e.va / e.size % 2048

/-- A last-level TLB takes an entry: 2,048 sets of 8, the least recently used unpinned one leaves, and with 8 pinned
ones the entry is not cached (R378). -/
def tlbTake (l : List TlbEntry) (e : TlbEntry) : List TlbEntry :=
  let l := l.filter fun x => !(x.covers e.asid e.va && x.size == e.size)
  let mates := l.filter fun x => x.set == e.set
  if mates.length < 8 then e :: l
  else
    match (mates.filter fun x => x.pins == 0).getLast? with
    | some v => e :: l.erase v
    | none => l

/-- A translation entry by a die's last-level TLB, or by a walk, which reads through the memory-side caches; one that
succeeds fills the TLB (R378). -/
def State.lookupDie (s : State) (d asid va : Nat) : Walk × State :=
  match (s.die d).tlb.find? fun e => e.covers asid va with
  | some e => (.leaf e, s.modDie d fun x => { x with tlb := toFront (fun e => e.covers asid va) x.tlb })
  | none =>
    let (w, reads) := s.walk d asid va
    let s := s.touchAll true reads
    match w with
    | .leaf e => (.leaf e, s.modDie d fun x => { x with tlb := tlbTake x.tlb e })
    | w => (w, s)

/-- A translation entry for a core: its micro-TLB, then its die. One that the die cannot cache is used and not cached
(R378). -/
def State.lookup (s : State) (k asid va : Nat) : Walk × State :=
  match (s.core k).utlb.find? fun e => e.covers asid va with
  | some e => (.leaf e, s.modCore k fun x => { x with utlb := toFront (fun e => e.covers asid va) x.utlb })
  | none =>
    match s.lookupDie (dieOf k) asid va with
    | (.leaf e, s) =>
      if (s.die (dieOf k)).tlb.any fun e => e.covers asid va then
        (.leaf e, s.modCore k fun x => { x with utlb := utlbTake x.utlb e })
      else (.leaf e, s)
    | (w, s) => (w, s)

/-! ## Using a leaf -/

/-- What an access needs of a page (R377). -/
inductive Access where
  | fetch
  | read
  | write
  | both
  | any
  deriving DecidableEq, Repr

/-- The leaf allows the access. -/
def Access.allowed (a : Access) (e : Word) : Bool :=
  match a with
  | .fetch => bit e 58
  | .read => bit e 56
  | .write => bit e 57
  | .both => bit e 56 && bit e 57
  | .any => true

/-- Where a virtual byte lies: a physical byte of this package, or a node. -/
inductive Place where
  | here (pa : Nat)
  | node (n : Nat)
  deriving DecidableEq, Repr

/-- Physical base of a half of a publish buffer (R371). -/
def halfBase (ws : List Word) (half : Nat) : Nat := field (ws.getD (2 + half) 0) 38 12 * 4096

/-- SEL of a publish entry. -/
def selOf (ws : List Word) : Nat := field (ws.getD 0 0) 62 62

/-- The publish entry maps the address for the ASID (R372). -/
def publishCovers (ws : List Word) (asid va : Nat) : Bool :=
  let w0 := ws.getD 0 0
  let base := field (ws.getD 1 0) 55 12 * 4096
  bit w0 63 && field w0 60 48 == asid && decide (base ≤ va ∧ va < base + field w0 31 0 * 4096)

/-- The place a leaf gives for an address, or the kind of its failure (R372, R377). -/
def State.placeOf (s : State) (e : TlbEntry) (asid va : Nat) (a : Access) : Except Nat Place :=
  if !a.allowed e.leaf then .error 1
  else if bit e.leaf 60 then .ok (.node (field e.leaf 55 50))
  else if bit e.leaf 59 then
    let ws := Tab.get [] (s.die (field e.leaf 23 22)).publish (field e.leaf 21 12)
    let pa := halfBase ws (selOf ws) + (va - field (ws.getD 1 0) 55 12 * 4096)
    if publishCovers ws asid va && !excluded pa then .ok (.here pa) else .error 2
  else
    let pa := addrOf e.leaf / e.size * e.size + va % e.size
    if excluded pa then .error 2 else .ok (.here pa)

/-- Translation for a core (R378); a walk through a stack that is not ready waits. -/
def translate (k asid va : Nat) (a : Access) : M (Except Nat Place) := do
  let s ← get
  match s.lookup k asid va with
  | (.leaf e, s') => do
    set s'
    pure (s'.placeOf e asid va a)
  | (.failed kind, s') => do
    set s'
    pure (.error kind)
  | (.busy n, _) => pause (.stack n)

/-- Translation for a unit of a die: the mailbox, an ingress MMU, a network engine, a Derrick (R379, R421). -/
def translateDie (d asid va : Nat) (a : Access) : M (Except Nat Place) := do
  let s ← get
  match s.lookupDie d asid va with
  | (.leaf e, s') => do
    set s'
    pure (s'.placeOf e asid va a)
  | (.failed kind, s') => do
    set s'
    pure (.error kind)
  | (.busy n, _) => pause (.stack n)

end Sys2Proof.Machine
end

