-- ==== Sys2Proof/Machine/Mem.lean ====
section
/-! DEFINITION. Tile memory with its check banks and identity words (R222 to R228), effective addresses (R219 to
R221), and the bytes of an access: where each lies, reading them and writing them (R235, R236). -/

namespace Sys2Proof.Machine

/-! ## Identity words -/

/-- The site of a core on its die has this logical index, or 0x3FF (R172, R380). -/
def State.logicalOf (s : State) (k : Nat) : Nat :=
  match (s.die (dieOf k)).coreMap.findIdx? fun e => e == some (k % 1024) with
  | some i => i
  | none => 0x3FF

/-- COREADDR (R172). -/
def State.coreAddr (s : State) (k : Nat) : Word :=
  word (ccOf k * 2 ^ 56 + clusterOf k * 2 ^ 48 + s.logicalOf k * 2 ^ 32 + s.node * 2 ^ 26 + dieOf k * 2 ^ 24
    + yOf k * 2 ^ 19 + xOf k * 2 ^ 14)

/-- The sites of a die that are fused off. -/
def State.fusedOn (s : State) (d : Nat) : Nat := (s.fused.filter fun k => k / 1024 == d).length

/-- Identity word `w` of 0xF8 to 0xFF (R228). -/
def State.identity (s : State) (k w : Nat) : Word :=
  let x := s.core k
  match w with
  | 0xF8 => s.coreAddr k
  | 0xF9 => 0x40324230
  | 0xFA => word (1024 - s.fusedOn (dieOf k) + s.fusedOn (dieOf k) * 65536)
  | 0xFB => word (x.fillLid.toNat + x.fillLen.toNat * 65536)
  | 0xFC => x.bank.setWidth 64
  | _ => 0

/-- The offset lies in the identity words (R222). -/
def identityAt (off : Nat) : Bool := decide (0x7C0 ≤ off ∧ off < 0x800)

/-- A tile byte as it stands, before the check banks are asked. -/
def State.tileByte (s : State) (k off : Nat) : Byte :=
  if identityAt off then BitVec.ofNat 8 ((s.identity k (off / 8)).toNat / 2 ^ (8 * (off % 8)))
  else Memory.read (s.core k).tile off

/-! ## Check banks -/

/-- The wrong symbols that a read of the byte's codeword meets: a bank marked failed counts as one (R223, R224). -/
def Core.wrongSymbols (x : Core) (off : Nat) : Nat :=
  let failed := if x.bank.getLsbD 7 then some (x.bank.toNat % 32) else none
  (x.bad.filter fun b => b.stripe == off / 128 && b.position == off % 8 && some b.bank != failed).length
    + (if failed.isSome then 1 else 0)

/-- The byte's codeword cannot be corrected (R224). -/
def Core.uncorrectable (x : Core) (off : Nat) : Bool := decide (2 ≤ x.wrongSymbols off) && !identityAt off

/-- Bytes read together from one tile: every 8-byte word that the access touches in a stripe with an uncorrectable
codeword reads as all ones (R224). -/
def State.tileBytes (s : State) (k : Nat) (offs : List Nat) : List Byte :=
  let x := s.core k
  if x.bad.isEmpty then offs.map (s.tileByte k)
  else offs.map fun o =>
    if offs.any (fun p => p / 128 == o / 128 && x.uncorrectable p) && !identityAt o then 0xFF else s.tileByte k o

/-- The first byte of an access that cannot be corrected. -/
def State.tileFault (s : State) (k : Nat) (offs : List Nat) : Option Nat :=
  if (s.core k).bad.isEmpty then none else offs.find? (s.core k).uncorrectable

/-- The corrections and uncorrectable reads that an access counts (R223, R224, R415). -/
def State.noteRead (s : State) (k : Nat) (offs : List Nat) : State :=
  let x := s.core k
  if x.bad.isEmpty then s
  else
    let hits := x.bad.filter fun b => offs.any fun o => b.stripe == o / 128 && b.position == o % 8
    if hits.isEmpty then s
    else if offs.any x.uncorrectable then s.setCore k (x.bumpSoft 1 1)
    else s.setCore k { x.bumpSoft 0 hits.length with
      corrected := hits.foldl (fun m b =>
        Tab.put m b.bank ((b.stripe, x.cycle) :: (Tab.get [] m b.bank).filter fun p => p.1 != b.stripe)) x.corrected }

/-- A tile byte is written: its symbol, and the two check symbols of its codeword, which every write recomputes, are made
right (R223). A store to an identity word is dropped. -/
def Core.writeTile (x : Core) (off : Nat) (b : Byte) : Core :=
  if identityAt off then x
  else { x with
    tile := x.tile.write off b
    bad := x.bad.filter fun c => !(c.stripe == off / 128 && c.position == off % 8 &&
      (c.bank == off / 8 % 16 || decide (16 ≤ c.bank))) }

/-- Consecutive tile bytes are written; those beyond the tile are dropped (R220). -/
def Core.writeTileBytes (x : Core) (off : Nat) : List Byte → Core
  | [] => x
  | b :: bs => (if off < 0x100000 then x.writeTile off b else x).writeTileBytes (off + 1) bs

/-- A tile word (R4). -/
def State.tileWord (s : State) (k off : Nat) : Word :=
  wordOf ((upFrom off 8).map fun o => if o < 0x100000 then s.tileByte k o else 0)

/-! ## Effective addresses -/

/-- What an effective address means (R219). -/
inductive Region where
  | tile (core offset : Nat)
  | outside
  | virtual (va : Nat)
  | unmapped
  deriving DecidableEq, Repr

/-- R219, for the core that issues the access. -/
def State.region (s : State) (k : Nat) (a : Word) : Region :=
  if field a 63 60 = 0xF then
    if field a 59 20 = 0 then .tile k (field a 19 0)
    else if field a 59 56 = 1 && zeroBits a 55 53 && zeroBits a 47 20 then
      if s.enabled (peerOf k (field a 52 48)) then .tile (peerOf k (field a 52 48)) (field a 19 0) else .outside
    else .outside
  else if zeroBits a 63 56 then .virtual a.toNat
  else .unmapped

/-- The address is a local tile address under R127 (R212, R363). -/
def localTile (a : Word) : Bool := field a 63 20 == 0xF0000000000

/-- The address lies in tile space (R257). -/
def tileSpace (a : Word) : Bool := field a 63 60 == 0xF

/-- The effective address of a local tile offset. -/
def tileAddr (off : Nat) : Word := word (0xF000000000000000 + off)

/-- The byte at an effective address, or the kind of the fault that its translation meets (R219 to R221, R377). A
write to a peer's tile is a protection fault (R221). -/
def refByte (k asid : Nat) (acc : Access) (a : Word) : M (Except Nat ByteRef) := do
  let s ← get
  match s.region k a with
  | .tile c off =>
    if c = k || acc = .read || acc = .any then pure (.ok (.tile c off)) else pure (.error 1)
  | .outside => pure (.ok (.outside a))
  | .unmapped => pure (.error 0)
  | .virtual va => do
    match ← translate k asid va acc with
    | .error kind => pure (.error kind)
    | .ok (.here pa) => pure (.ok (.hbm pa))
    | .ok (.node n) => pure (.ok (.node n va))

/-- The bytes of an access in ascending order, up to the first that faults; with that one's address and kind. Behind a
byte that lies outside the tile every later byte does (R220). -/
def refBytes (k asid : Nat) (acc : Access) : Nat → Word → M (List ByteRef × Option (Word × Nat))
  | 0, _ => pure ([], none)
  | n + 1, a => do
    match ← refByte k asid acc a with
    | .error kind => pure ([], some (a, kind))
    | .ok (.outside _) => pure ((upFrom 0 (n + 1)).map fun i => .outside (a + word i), none)
    | .ok r => do
      let (rs, e) ← refBytes k asid acc n (a + 1)
      pure (r :: rs, e)

/-! ## Faults of an access -/

/-- The operand translation or protection fault (R180, R236); the walks that met it have filled the TLBs (R378). -/
def operandFault {α : Type} (a : Word) (kind : Nat) (write remote : Bool) : M α := do
  let s ← get
  throw (.walked { cause := 0x06, addr := a, info := word (kind + (if write then 4 else 0) + (if remote then 8 else 0)) } s)

/-- The first out-of-range byte of an access is recorded in OOB of its context (R220). A store to an identity word is
recorded in the same way (R228). -/
def noteOutside (k c : Nat) (write : Bool) (refs : List ByteRef) : M Unit :=
  let hit := refs.findSome? fun r =>
    match r with
    | .outside a => some a
    | .tile _ off => if write && identityAt off then some (tileAddr off) else none
    | _ => none
  match hit with
  | none => pure ()
  | some a => modify fun s => s.modCtx k c fun t => t.outOfRange a

/-! ## Other nodes -/

/-- The answer of another node, for which the unit waits (R229, R425). -/
def askNode (o : Owner) (q : Query) : M Answer := do
  let s ← get
  match s.answer o q with
  | some a => pure a
  | none => throw (.ask o q)

/-- A run of bytes on one page of another node: the node, the first virtual address, the index of its first byte in the
access, and the length, at most 128 (R425). -/
structure Run where
  node : Nat
  va : Nat
  start : Nat
  len : Nat
  deriving DecidableEq, Repr

/-- The runs of an access's bytes, the latest first. -/
def runsOf : List ByteRef → Nat → List Run → List Run
  | [], _, acc => acc
  | .node n va :: rs, i, acc =>
    match acc with
    | r :: more =>
      if r.node = n && r.va + r.len = va && r.start + r.len = i && r.va / 4096 = va / 4096 && r.len < 128 then
        runsOf rs (i + 1) ({ r with len := r.len + 1 } :: more)
      else runsOf rs (i + 1) ({ node := n, va := va, start := i, len := 1 } :: acc)
    | [] => runsOf rs (i + 1) [{ node := n, va := va, start := i, len := 1 }]
  | _ :: rs, i, acc => runsOf rs (i + 1) acc

/-- The runs of an access on other nodes, in ascending order. -/
def nodeRuns (refs : List ByteRef) : List Run := (runsOf refs 0 []).reverse

/-- An answer's STATUS 1 to 3 is the operand fault with the matching kind (R425). -/
def checkAnswer (a : Word) (write : Bool) (x : Answer) : M Unit :=
  if 1 ≤ x.status && x.status ≤ 3 then operandFault a (x.status - 1) write true else pure ()

/-- The error value: every byte 0xFF (R426). -/
def errorBytes (n : Nat) : List Byte := List.replicate n 0xFF

/-- The data of the runs, in order, and whether an error value came (R426). -/
def fetchRuns (o : Owner) (asid : Nat) (base : Word) : List Run → M (List (Run × List Byte) × Bool)
  | [] => pure ([], false)
  | r :: rs => do
    let x ← askNode o { node := r.node, asid, va := r.va, ask := .load r.len }
    checkAnswer (base + word r.start) false x
    let bad := decide (4 ≤ x.status)
    let data := if bad then errorBytes r.len else (x.data ++ errorBytes r.len).take r.len
    let (more, e) ← fetchRuns o asid base rs
    pure ((r, data) :: more, bad || e)

/-- Every page of another node among the runs confirms its translation (R235). -/
def confirmRuns (o : Owner) (asid : Nat) (base : Word) : List Run → M Bool
  | [] => pure false
  | r :: rs => do
    let x ← askNode o { node := r.node, asid, va := r.va, ask := .confirm }
    checkAnswer (base + word r.start) true x
    let e ← confirmRuns o asid base rs
    pure (decide (4 ≤ x.status) || e)

/-- The data of each run are sent and their translation is confirmed (R235, R236). -/
def storeRuns (o : Owner) (asid : Nat) (base : Word) (data : List Byte) : List Run → M Bool
  | [] => pure false
  | r :: rs => do
    let x ← askNode o { node := r.node, asid, va := r.va, ask := .store ((data.drop r.start).take r.len) }
    checkAnswer (base + word r.start) true x
    let e ← storeRuns o asid base data rs
    pure (decide (4 ≤ x.status) || e)

/-- What each byte of an access reads from, once other nodes have sent theirs. -/
def sourcesOf (refs : List ByteRef) (got : List (Run × List Byte)) : List Source :=
  refs.zipIdx.map fun (r, i) =>
    match r with
    | .tile c off => .tile c off
    | .outside _ => .known 0
    | .hbm pa => .hbm pa
    | .node _ _ =>
      match got.find? fun g => decide (g.1.start ≤ i ∧ i < g.1.start + g.1.len) with
      | some g => .known (g.2.getD (i - g.1.start) 0xFF)
      | none => .known 0xFF

/-! ## Reading the sources -/

/-- The tile offsets of the sources that lie in one tile. -/
def tileOffs (k : Nat) (bytes : List Source) : List Nat :=
  bytes.filterMap fun b =>
    match b with
    | .tile c off => if c = k then some off else none
    | _ => none

/-- The tiles that sources lie in. -/
def tilesOf (bytes : List Source) : List Nat :=
  (bytes.filterMap fun b =>
    match b with
    | .tile c _ => some c
    | _ => none).eraseDups

/-- The latest byte that a core's store path holds for a physical address, as a context of that core sees it with a
load issued at `seq`: its own older stores, and every store of the other contexts (R237, R252, R253). -/
def pathByte (stores : List Store) (c seq pa : Nat) : Option Byte :=
  stores.foldl (fun v e =>
    if (e.origin pa).1 != c || (e.origin pa).2 < seq then
      match e.bytes.find? fun b => b.1 == pa with
      | some b => some b.2
      | none => v
    else v) none

/-- A byte of the non-temporal buffer for a physical address, as a load of the context that stored it sees it, issued at
`seq` (R237, R238). A later store of the byte would have sent the line before it. -/
def ntByte (nt : List NtLine) (c seq pa : Nat) : Option Byte :=
  nt.findSome? fun l =>
    if l.node.isNone && l.pa == pa / 64 then
      match Tab.find l.marks (pa % 64) with
      | some m => if m.ctx = c && m.seq < seq then Tab.find l.bytes (pa % 64) else none
      | none => none
    else none

/-- The byte that the core itself still holds for a load of a context: in the buffer, or in the store path. -/
def State.ownByte (s : State) (k c seq pa : Nat) : Option Byte :=
  match ntByte (s.core k).nt c seq pa with
  | some b => some b
  | none => pathByte (s.core k).stores c seq pa

/-- The byte of HBM that a load of a context reads: from the buffer, from the store path, or at its home. -/
def State.loadByte (s : State) (k c seq pa : Nat) : Byte := (s.ownByte k c seq pa).getD (s.hbmByte pa)

/-- A load of a context reads the byte at its home, which delivers the error value (R231). -/
def State.badLoad (s : State) (k c seq pa : Nat) : Bool := s.badByte pa && (s.ownByte k c seq pa).isNone

/-- The physical addresses among sources. -/
def sourcePas (bytes : List Source) : List Nat :=
  bytes.filterMap fun b =>
    match b with
    | .hbm pa => some pa
    | _ => none

/-- Two lists of addresses have one in common. -/
def meets (a b : List Nat) : Bool := a.any b.contains

/-- The sources of an access that its core does not read at once: bytes of HBM and of other cores' tiles. -/
def farSources (k : Nat) (bytes : List Source) : List Source :=
  bytes.filter fun b =>
    match b with
    | .hbm _ => true
    | .tile t _ => t != k
    | .known _ => false

/-- An older load or atomic of the context reads one of the bytes (R237). -/
def Ctx.olderReads (t : Ctx) (seq : Nat) (bytes : List Source) : Bool :=
  t.pending.any fun p => decide (p.seq < seq) && bytes.any p.bytes.contains

/-- A byte of a store-path entry is still to be read by an older load of the context that stored it (R237). -/
def Core.readsBefore (x : Core) (e : Store) : Bool :=
  e.bytes.any fun b => (x.ctx (e.origin b.1).1).olderReads (e.origin b.1).2 [.hbm b.1]

/-- The context has an earlier store to one of the bytes in the store path (R237). -/
def Core.storesBefore (x : Core) (c seq : Nat) (pas : List Nat) : Bool :=
  x.stores.any fun e => e.bytes.any fun b => pas.contains b.1 && (e.origin b.1).1 == c && decide ((e.origin b.1).2 < seq)

/-- The bytes of an access now. A word of HBM of which the access reads an affected byte at its home reads as all ones
(R231). -/
def State.readSources (s : State) (k c seq : Nat) (bytes : List Source) : List Byte :=
  let bad := if s.poison.isEmpty && s.failedStacks.isEmpty then [] else (sourcePas bytes).filter (s.badLoad k c seq)
  bytes.map fun b =>
    match b with
    | .known v => v
    | .hbm pa => if bad.any fun p => p / 8 == pa / 8 then 0xFF else s.loadByte k c seq pa
    | .tile t off =>
      if (s.core t).bad.isEmpty then s.tileByte t off
      else (s.tileBytes t (off :: (tileOffs t bytes).filter (· ≠ off))).headD 0

/-- The address of the first byte that delivers an error value, for the machine check (R224, R231). -/
def State.badSource (s : State) (k c seq : Nat) (bytes : List Source) : Option Word :=
  bytes.findSome? fun b =>
    match b with
    | .hbm pa => if s.badLoad k c seq pa then some (word pa) else none
    | .tile t off => (s.tileFault t [off]).map fun o => tileAddr o
    | .known _ => none

/-- What a read counts, and the machine check of the context that consumes an error value (R224, R231). -/
def State.noteSources (s : State) (k c seq : Nat) (bytes : List Source) : State :=
  let s := (tilesOf bytes).foldl (fun s t => s.noteRead t (tileOffs t bytes)) s
  match s.badSource k c seq bytes with
  | some a => s.machineCheck k c 1 a
  | none => s

/-- The bytes of an access, read at once; a stack that is not ready makes it wait. -/
def readNow (k c seq : Nat) (bytes : List Source) (nt : Bool := false) : M (List Byte) := do
  let s ← get
  match bytes.findSome? fun b =>
    match b with
    | .hbm pa => if s.stackWaits pa then some pa else none
    | _ => none with
  | some pa => pause (.stack (stackOf pa))
  | none =>
    let data := s.readSources k c seq bytes
    set ((s.noteSources k c seq bytes).touchAll (!nt) (sourcePas bytes))
    pure data

end Sys2Proof.Machine
end

