-- ==== Sys2Proof/Machine/Operands.lean ====
section
/-! DEFINITION. Handles as tensor operands: their fields (R161), what a legal one is (R162, R163), and where each
element lies (R271 to R273, R296); and the dual-exponent block (R71 to R77). -/

namespace Sys2Proof.Machine

/-! ## Fields of a handle (R161) -/

/-- Bits hi:lo of a handle. -/
def hfield (h : HandleBits) (hi lo : Nat) : Nat := h.toNat / 2 ^ lo % 2 ^ (hi + 1 - lo)

/-- BASE. -/
def hBase (h : HandleBits) : Nat := hfield h 47 0
/-- FMT. -/
def hFmt (h : HandleBits) : Nat := hfield h 53 48
/-- NDIM: the number of dimensions minus 1. -/
def hDims (h : HandleBits) : Nat := hfield h 55 54
/-- VLEN. -/
def hVlen (h : HandleBits) : Nat := hfield h 59 56
/-- RMODE. -/
def hMode (h : HandleBits) : Nat := hfield h 62 60
/-- CHAN. -/
def hChan (h : HandleBits) : Bool := hfield h 63 63 == 1
/-- EXT of a dimension. -/
def hExt (h : HandleBits) (d : Nat) : Nat := hfield h (79 + 16 * d) (64 + 16 * d)
/-- Lowest bit of STRIDE of a dimension. -/
def strideLow (d : Nat) : Nat := if d < 2 then 128 + 24 * d else 192 + 24 * (d - 2)
/-- STRIDE of a dimension, signed. -/
def hStride (h : HandleBits) (d : Nat) : Int := signedOf 24 (hfield h (strideLow d + 23) (strideLow d))

/-- A handle with bits hi:lo replaced. -/
def hPut (h : HandleBits) (hi lo x : Nat) : HandleBits := BitVec.ofNat 256 (putField h.toNat hi lo x)

/-- EXT of a used dimension; 1 above NDIM. -/
def hLen (h : HandleBits) (d : Nat) : Nat := if d ≤ hDims h then hExt h d else 1

/-- The number of elements (R272). -/
def hCount (h : HandleBits) : Nat := hLen h 0 * hLen h 1 * hLen h 2 * hLen h 3

/-- The number of rows: elements outside dimension 0. -/
def hRows (h : HandleBits) : Nat := hLen h 1 * hLen h 2 * hLen h 3

/-! ## Element formats (R56) -/

/-- What an element format is. -/
inductive Kind where
  | int (signed : Bool) (bits : Nat)
  | float (f : Fmt)
  | dxb (q : Nat)
  | vlf (k : Nat)
  deriving DecidableEq, Repr

/-- The format of a handle; none for a reserved code (R56) or a VLEN of 0 or 15 (R163). -/
def kindOf (h : HandleBits) : Option Kind :=
  match hFmt h with
  | 0x00 => some (.int true 8)
  | 0x01 => some (.int false 8)
  | 0x02 => some (.int true 16)
  | 0x03 => some (.int false 16)
  | 0x04 => some (.int true 32)
  | 0x05 => some (.int false 32)
  | 0x06 => some (.int true 64)
  | 0x07 => some (.int false 64)
  | 0x08 => some (.int true 4)
  | 0x10 => some (.float fmtHalf)
  | 0x11 => some (.float fmtBf)
  | 0x12 => some (.float fmtSingle)
  | 0x13 => some (.float fmtDouble)
  | 0x18 => some (.dxb 6)
  | 0x19 => some (.dxb 2)
  | 0x20 => if hVlen h = 0 || hVlen h = 15 then none else some (.vlf (hVlen h))
  | _ => none

/-- The format, for a handle whose content has been checked. -/
def kind (h : HandleBits) : Kind := (kindOf h).getD (.int true 8)

/-- An integer format. -/
def Kind.isInt : Kind → Bool
  | .int _ _ => true
  | _ => false

/-- A 64-bit format, which few lane instructions accept (R56). -/
def Kind.wide : Kind → Bool
  | .int _ 64 => true
  | .float f => f == fmtDouble
  | _ => false

/-- A VLF format. -/
def Kind.isVlf : Kind → Bool
  | .vlf _ => true
  | _ => false

/-- A DXB format. -/
def Kind.isDxb : Kind → Bool
  | .dxb _ => true
  | _ => false

/-- Bytes of one element of a byte-sized format; for DXB the bytes of a block (R56, R71). -/
def Kind.size : Kind → Nat
  | .int _ b => b / 8
  | .float f => f.width / 8
  | .dxb q => if q = 6 then 34 else 18
  | .vlf k => 3 + k

/-- The limits of an integer format (R54). -/
def intLow (signed : Bool) (bits : Nat) : Int := if signed then -(2 ^ (bits - 1) : Nat) else 0
/-- The largest value of an integer format (R54). -/
def intHigh (signed : Bool) (bits : Nat) : Int := if signed then (2 ^ (bits - 1) : Nat) - 1 else (2 ^ bits : Nat) - 1

/-! ## Legal content (R162, R163) -/

/-- BASE names a tile (R162). -/
def hTile (h : HandleBits) : Bool := hBase h / 2 ^ 44 == 0xF

/-- BASE names a peer tile (R162). -/
def hPeer (h : HandleBits) : Bool := hBase h / 2 ^ 43 == 0x1F

/-- R163, but for the formats an instruction accepts. -/
def contentOk (h : HandleBits) : Bool :=
  hfield h 255 240 == 0 && hfield h 191 176 == 0 && (kindOf h).isSome && decide (hMode h ≤ 4) &&
  (hChan h || !hTile h ||
    (if hPeer h then hfield h 42 41 == 0 && hfield h 35 20 == 0 else hfield h 42 20 == 0))

/-- The effective address that BASE gives (R162). -/
def hAddr (h : HandleBits) : Word :=
  if hTile h then
    if hPeer h then word (0xF100000000000000 + hfield h 40 36 * 2 ^ 48 + hfield h 19 0)
    else tileAddr (hfield h 19 0)
  else word (hBase h)

/-! ## Channels (R296) -/

/-- CH. -/
def chanOf (h : HandleBits) : Nat := hfield h 42 39
/-- DIR = 1: outbound. -/
def chanOut (h : HandleBits) : Bool := hfield h 43 43 == 1
/-- OFF. -/
def chanOff (h : HandleBits) : Nat := hfield h 19 0
/-- DEST, as bits 31:13 of message header word 0. -/
def chanDest (h : HandleBits) : Word := word (hfield h 38 20 * 2 ^ 13)

/-! ## Places of elements (R272, R296) -/

/-- Where an element begins: its first byte (for DXB, its block's first byte) relative to BASE, or to the stream of a
channel; and the nibble, or the element within the block. -/
structure Spot where
  pos : Int
  sub : Nat
  deriving DecidableEq, Repr

/-- The row of an element relative to BASE (R272). -/
def rowOffset (h : HandleBits) (i : Nat) : Int :=
  let j := i / hLen h 0
  (j % hLen h 1 : Nat) * hStride h 1 + (j / hLen h 1 % hLen h 2 : Nat) * hStride h 2
    + (j / hLen h 1 / hLen h 2 : Nat) * hStride h 3

/-- Element `i` packed within a row or a stream. -/
def packedSpot (k : Kind) (row : Int) (i : Nat) (step : Int) : Spot :=
  match k with
  | .int _ 4 => ⟨row + (i / 2 : Nat), i % 2⟩
  | .dxb q => ⟨row + (i / 32 * (Kind.dxb q).size : Nat), i % 32⟩
  | _ => ⟨row + i * step, 0⟩

/-- Where element `i` lies (R272, R296). -/
def spotOf (h : HandleBits) (i : Nat) : Spot :=
  if hChan h then packedSpot (kind h) 0 i (kind h).size
  else packedSpot (kind h) (rowOffset h i) (i % hLen h 0) (hStride h 0)

/-- The bytes of a packed stream (R296, R297). -/
def packedBytes (h : HandleBits) : Nat :=
  match kind h with
  | .int _ 4 => ceilDiv (hCount h) 2
  | .dxb q => ceilDiv (hCount h) 32 * (Kind.dxb q).size
  | k => hCount h * k.size

/-- A packed size rounded up to a multiple of 8 (R297, R298). -/
def streamBytes (h : HandleBits) : Nat := ceilDiv (packedBytes h) 8 * 8

/-- The tile offset at a distance from BASE, modulo 2^20 (R272). -/
def tileSpot (h : HandleBits) (d : Int) : Nat := (((hfield h 19 0 : Nat) + d : Int) % (2 ^ 20 : Nat)).toNat

/-- Offsets, from the first byte of an element's spot, that an access to it touches: the block's header and the
element's byte for DXB (R71), one byte for INT4, else all its bytes. -/
def spotBytes (k : Kind) (sub : Nat) : List Nat :=
  match k with
  | .int _ 4 => [0]
  | .dxb q => if q = 6 then [0, 1, 2 + sub] else [0, 1, 2 + sub / 2]
  | _ => upFrom 0 k.size

/-- The blocks of a row of a DXB operand (R272). -/
def rowBlocks (h : HandleBits) : Nat := ceilDiv (hLen h 0) 32

/-- Where block `j` of row `r` begins when whole blocks are copied: in a channel the blocks follow consecutively (R286,
R296, log 82). -/
def blockPos (h : HandleBits) (r j : Nat) : Int :=
  let row : Int := if hChan h then ((r * rowBlocks h * (kind h).size : Nat) : Int) else rowOffset h (r * hLen h 0)
  row + (j * (kind h).size : Nat)

/-- The byte of a block whose high nibble no element fills when the block holds `n` elements, an odd number (R55). -/
def oddByte (h : HandleBits) (n : Nat) : Option Nat :=
  if kind h = .dxb 2 && n % 2 == 1 then some (2 + n / 2) else none

/-- Every tile offset that an operand's elements touch. -/
def operandBytes (h : HandleBits) : List Nat :=
  (upFrom 0 (hCount h)).flatMap fun i =>
    let p := spotOf h i
    (spotBytes (kind h) p.sub).map fun d => tileSpot h p.pos + d

/-- Every tile offset that a destination is written at: its DXB blocks are written whole (R275). -/
def writtenBytes (h : HandleBits) : List Nat :=
  match kind h with
  | .dxb q => (upFrom 0 (hCount h)).flatMap fun i =>
      let p := spotOf h i
      if p.sub = 0 then (upFrom 0 (Kind.dxb q).size).map fun d => tileSpot h p.pos + d else []
  | _ => operandBytes h

/-- Every tile offset of an operand whose DXB blocks are copied whole, row by row (R286). -/
def copiedBytes (h : HandleBits) : List Nat :=
  match kind h with
  | .dxb q => (upFrom 0 (hRows h)).flatMap fun r => (upFrom 0 (rowBlocks h)).flatMap fun j =>
      (upFrom 0 (Kind.dxb q).size).map fun d => tileSpot h (blockPos h r j) + d
  | _ => operandBytes h

/-- An operand in the local tile: the handle's own tile, or the area of an inbound channel. -/
def localOperand (s : State) (k : Nat) (h : HandleBits) : Bool :=
  if hChan h then !chanOut h
  else hTile h && (!hPeer h || peerOf k (hfield h 40 36) == k) && s.enabled k

/-! ## The dual-exponent block (R71 to R76) -/

/-- The element value of a code as an FP32 pattern (R72, R73). -/
def dxbSingle (q e0 e1 code : Nat) : Nat :=
  let sel := code / 2 ^ (q + 1) % 2
  let neg := code / 2 ^ q % 2 == 1
  let m := code % 2 ^ q
  let e := if sel = 1 then e1 else e0
  if e = 0xFF then fmtSingle.pack neg 255 (2 ^ 22 + sel * 2 ^ (q + 1) + m)
  else (fmtSingle.roundMag 0 neg m ((e : Int) - 127 - (q - 1 : Nat)) false).1

/-- A code from selector, sign and magnitude (R72). -/
def dxbCode (q sel : Nat) (neg : Bool) (m : Nat) : Nat := sel * 2 ^ (q + 1) + (if neg then 2 ^ q else 0) + m

/-- One magnitude against one exponent: the rounded magnitude, whether it saturates, and twice the exponent-free error
against the finer of the two scales, as a magnitude in units of 2^base (R74). -/
def dxbTry (q m : Nat) (e : Int) (ex : Nat) : Nat × Bool × Nat × Int :=
  let unit : Int := (ex : Int) - 127 - (q - 1 : Nat)
  let t := (roundUnits 0 false m e unit false).1
  let r := min t (2 ^ q - 1)
  let base := min e unit
  let err := ((scaleTo base m e : Nat) - (scaleTo base r unit : Nat) : Int).natAbs
  (r, decide (2 ^ q - 1 < t), err, base)

/-- `dxb_element` of R74: the code of an FP32 pattern against two exponents, with its flags. -/
def dxbElement (q e0 e1 x : Nat) : Nat × Flag :=
  match fmtSingle.decode x with
  | .nan neg frac _ =>
    let p := frac / 2 ^ (q + 1) % 2
    let ep := if p = 1 then e1 else e0
    let eo := if p = 1 then e0 else e1
    if ep = 0xFF then (dxbCode q p neg (frac % 2 ^ q), 0#7)
    else if eo = 0xFF then (dxbCode q (1 - p) neg (frac % 2 ^ q), 0#7)
    else (dxbCode q 1 false 0, flagNV)
  | .inf neg =>
    if e0 = 0xFF && e1 = 0xFF then (dxbCode q 1 neg 0, flagNV)
    else
      let sel := if e0 = 0xFF then 1 else if e1 = 0xFF then 0 else if e1 < e0 then 0 else 1
      (dxbCode q sel neg (2 ^ q - 1), flagSAT)
  | .fin neg m e =>
    if e0 = 0xFF && e1 = 0xFF then (dxbCode q 1 neg 0, flagNV)
    else
      let (m0, sat0, err0, base0) := dxbTry q m e e0
      let (m1, sat1, err1, base1) := dxbTry q m e e1
      let base := min base0 base1
      let sel := if e0 = 0xFF then 1 else if e1 = 0xFF then 0
        else if scaleTo base err1 base1 ≤ scaleTo base err0 base0 then 1 else 0
      let (r, sat, err) := if sel = 1 then (m1, sat1, err1) else (m0, sat0, err0)
      (dxbCode q sel neg r, flagIf sat flagSAT ||| flagIf (err != 0) flagNX)

/-- The larger of two magnitudes m · 2^e. -/
def magMax (a b : Nat × Int) : Nat × Int :=
  let base := min a.2 b.2
  if scaleTo base a.1 a.2 < scaleTo base b.1 b.2 then b else a

/-- The exponents that automatic encoding chooses for a block of FP32 patterns (R75). -/
def dxbExponents (q : Nat) (xs : List Nat) : Nat × Nat :=
  let vs := xs.map fmtSingle.decode
  let e1 :=
    if vs.any Num.isInf then 254
    else
      let mx := vs.foldl (fun a v =>
        match v with
        | .fin _ m e => magMax a (m, e)
        | _ => a) (0, 0)
      if mx.1 = 0 then 0
      else
        let e := (mx.2 + mx.1.log2 + 127).toNat
        let t := (roundUnits 0 false mx.1 mx.2 ((e : Int) - 127 - (q - 1 : Nat)) false).1
        if 2 ^ q - 1 < t then min (e + 1) 254 else e
  (if vs.any Num.isNan then 0xFF else e1 - q, e1)

/-- A block's bytes from its header and codes; missing elements are code 0 (R71). -/
def dxbBytes (q e0 e1 : Nat) (codes : List Nat) : List Byte :=
  let full := codes ++ List.replicate (32 - codes.length) 0
  let body := if q = 6 then full.map (BitVec.ofNat 8)
    else (upFrom 0 16).map fun j => BitVec.ofNat 8 (full.getD (2 * j) 0 + 16 * full.getD (2 * j + 1) 0)
  BitVec.ofNat 8 e0 :: BitVec.ofNat 8 e1 :: body

/-- A block of FP32 patterns encoded, with the exponents given or chosen (R74 to R76). -/
def dxbBlock (q : Nat) (keep : Option (Nat × Nat)) (xs : List Nat) : List Byte × Flag :=
  let (e0, e1) := match keep with
    | some e => e
    | none => dxbExponents q (xs ++ List.replicate (32 - xs.length) 0)
  let rs := xs.map (dxbElement q e0 e1)
  (dxbBytes q e0 e1 (rs.map (·.1)), rs.foldl (fun f r => f ||| r.2) 0#7)

/-! ## Values of elements -/

/-- The class bits of a VLF header (R70). -/
def vlfClass (v : Num) : Nat :=
  match v with
  | .nan _ _ _ => 3
  | .inf _ => 2
  | .fin _ m _ => if m = 0 then 1 else 0

/-- A VLF value in memory: its header and value bytes (R70, R157). -/
def vlfBytes (k v : Nat) : List Byte :=
  BitVec.ofNat 8 (k * 16 + vlfClass ((fmtVlf k).decode v)) :: bytesOf (k + 2) v

/-- An element's value: an integer, or a floating value. -/
inductive Val where
  | int (i : Int)
  | num (n : Num)
  deriving DecidableEq, Repr

/-- The value of an element's pattern; a DXB element's pattern is its FP32 value. -/
def Kind.value (k : Kind) (v : Nat) : Val :=
  match k with
  | .int true b => .int (signedOf b v)
  | .int false b => .int (v % 2 ^ b : Nat)
  | .float f => .num (f.decode v)
  | .dxb _ => .num (fmtSingle.decode v)
  | .vlf k => .num ((fmtVlf k).decode v)

end Sys2Proof.Machine
end

