-- ==== Sys2Proof/Machine/Shapes.lean ====
section
/-! DEFINITION. The bytes that queued tensor instructions touch: addresses of elements (R162, R272), matrix masks and
rows (R304, R305), and the bytes a queued lane instruction or `mst` has still to read or write (R277, R313). -/

namespace Sys2Proof.Machine

/-! ## Addresses of elements -/

/-- The effective address of a byte at a distance from BASE; none when a virtual sum leaves 0 to 2^56 − 1. -/
def spotAddr (h : HandleBits) (d : Int) (j : Nat) : Option Word :=
  if hTile h then
    let off := tileSpot h d + j
    some (if hPeer h then word (0xF100000000000000 + hfield h 40 36 * 2 ^ 48 + off) else tileAddr off)
  else
    let v := (hBase h : Nat) + d + j
    if 0 ≤ v ∧ v < (2 ^ 56 : Nat) then some (word v.toNat) else none

/-- The address as a fault reports it. -/
def spotWord (h : HandleBits) (d : Int) (j : Nat) : Word :=
  match spotAddr h d j with
  | some a => a
  | none => intWord ((hBase h : Nat) + d + j)

/-! ## Confirmed translations (R249, R302) -/

/-- Where a confirmed virtual byte is written. -/
def confirmedAt (map : List Confirmed) (va : Nat) : Option Confirmed := map.find? fun c => c.page == va / 4096

/-- SEL of a publish buffer, given as home die and number. -/
def State.selNow (s : State) (b : Nat × Nat) : Nat := selOf (Tab.get [] (s.die b.1).publish b.2)

/-- The physical address that a confirmed page gives a byte, with SEL of its publish buffer as `sel` says (R372). An entry
that no longer maps the byte, or maps it where no translation leads (R366), leaves the translation as it was confirmed
(R249, R302). -/
def Confirmed.paWith (s : State) (sel : Nat × Nat → Nat) (c : Confirmed) (va : Nat) : Nat :=
  match c.buffer with
  | some b =>
    let ws := Tab.get [] (s.die b.1).publish b.2
    let pa := halfBase ws (sel b) + (va - field (ws.getD 1 0) 55 12 * 4096)
    if publishCovers ws c.asid va && !excluded pa then pa else c.pa + va % 4096
  | none => c.pa + va % 4096

/-- The physical address of a confirmed byte of this node, for an access that is performed now. -/
def State.confirmedPa (s : State) (map : List Confirmed) (va : Nat) : Option Nat :=
  match confirmedAt map va with
  | some c => if c.node.isNone then some (c.paWith s s.selNow va) else none
  | none => none

/-! ## Matrix operands (R304, R305) -/

/-- The mask of the first `e` rows or columns (R305). -/
def extMask (e : Nat) : Nat := 2 ^ e - 1

/-- Bit of a mask. -/
def maskBit (m i : Nat) : Bool := m / 2 ^ i % 2 == 1

/-- The row mask in effect of an operand (R305). -/
def rowMask (h : HandleBits) (s : Word) : Nat := field s 15 0 &&& extMask (hLen h 1)

/-- The column mask in effect of `mst` and `mld.r` (R305). -/
def colMask (h : HandleBits) (s : Word) : Nat := field s 31 16 &&& extMask (hLen h 0)

/-- The fetch depth mask of `mma` (R305). -/
def depthMask (h : HandleBits) (s : Word) : Nat := field s 47 32 &&& extMask (hLen h 0)

/-- The places of a mask among 16. -/
def maskList (m : Nat) : List Nat := (upFrom 0 16).filter (maskBit m)

/-- The selected elements of a result, row by row: column and row (R309). -/
def selected (h : HandleBits) (s : Word) : List (Nat × Nat) :=
  (maskList (rowMask h s)).flatMap fun i => (maskList (colMask h s)).map fun n => (n, i)

/-- The place of element (n, i) of a matrix operand. -/
def matrixSpot (h : HandleBits) (n i : Nat) : Spot := spotOf h (n + hLen h 0 * i)

/-- The bytes of the selected elements of a matrix result: distance from BASE and place in the element. -/
def resultBytes (h : HandleBits) (s : Word) : List (Int × Nat) :=
  (selected h s).flatMap fun e => (upFrom 0 (kind h).size).map fun j => ((matrixSpot h e.1 e.2).pos, j)

/-- The handle names a tile that is not the core's own (R219). -/
def otherTile (k : Nat) (h : HandleBits) : Bool := hTile h && hPeer h && peerOf k (hfield h 40 36) != k

/-- Where a byte of a result is written: a tile byte, a physical byte, a byte of another node, or nowhere. -/
def State.targetAt (s : State) (k : Nat) (map : List Confirmed) (h : HandleBits) (d : Int) (j : Nat) : Target :=
  if hTile h then if otherTile k h || decide (0x100000 ≤ tileSpot h d + j) then .dropped else .tile (tileSpot h d + j)
  else
    let va := ((hBase h : Nat) + d + j).toNat
    match confirmedAt map va with
    | some c =>
      match c.node with
      | some n => .node n va
      | none => .hbm (c.paWith s s.selNow va)
    | none => .dropped

/-- The bytes that a queued `mst` of a core will write (R313). -/
def State.targets (s : State) (k : Nat) (e : MatrixEntry) : List Target :=
  match e.op with
  | .store => (resultBytes e.h e.s).map fun b => s.targetAt k e.map e.h b.1 b.2
  | _ => []

/-- Tile offsets among targets. -/
def targetTiles (ts : List Target) : List Nat :=
  ts.filterMap fun t =>
    match t with
    | .tile off => some off
    | _ => none

/-- Physical addresses among targets. -/
def targetPas (ts : List Target) : List Nat :=
  ts.filterMap fun t =>
    match t with
    | .hbm pa => some pa
    | _ => none

/-- Bytes of other nodes among targets. -/
def targetNodes (ts : List Target) : List (Nat × Nat) :=
  ts.filterMap fun t =>
    match t with
    | .node n va => some (n, va)
    | _ => none

/-- A queued `mst` of the core will write the tile byte. -/
def State.mstTile (s : State) (k off : Nat) : Bool :=
  (s.core k).matrix.any fun e => (s.targets k e).contains (.tile off)

/-- A queued `mst` of the core will write the physical byte. -/
def State.mstPa (s : State) (k pa : Nat) : Bool := (s.core k).matrix.any fun e => (s.targets k e).contains (.hbm pa)

/-- A queued `mst` of the core will write the byte of another node. -/
def State.mstNode (s : State) (k : Nat) (b : Nat × Nat) : Bool :=
  (s.core k).matrix.any fun e => (s.targets k e).contains (.node b.1 b.2)

/-! ## Lane instructions (R277) -/

/-- The handles a lane instruction writes through: hd, and the metadata of `vsp24`. -/
def LaneOp.outputs (o : LaneOp) : List HandleBits :=
  match o.instr with
  | .vsp24 _ _ _ _ => [o.hd, o.hb]
  | _ => [o.hd]

/-- The tile bytes of a core that an unexecuted lane instruction will write. -/
def LaneOp.willWrite (s : State) (k : Nat) (o : LaneOp) : List Nat :=
  if o.executed then []
  else (o.outputs.filter fun h => !hChan h && localOperand s k h).flatMap writtenBytes

/-- The tile bytes of a core that an unexecuted lane instruction will read or write. -/
def LaneOp.willTouch (s : State) (k : Nat) (o : LaneOp) : List Nat :=
  if o.executed then []
  else
    let whole := match o.instr with
      | .vcopy _ _ _ => copiedBytes o.ha
      | _ => operandBytes o.ha
    o.willWrite s k ++ (if localOperand s k o.ha then whole else []) ++
      ([o.hd, o.hb, o.mask].filter (localOperand s k)).flatMap operandBytes

/-- A lane instruction of the context will write one of the tile bytes. -/
def State.laneWrites (s : State) (k c : Nat) (bytes : List Nat) : Bool :=
  (s.core k).lanes.any fun o => o.ctx == c && (o.willWrite s k).any bytes.contains

/-- A lane instruction of the context will read or write one of the tile bytes. -/
def State.laneTouches (s : State) (k c : Nat) (bytes : List Nat) : Bool :=
  (s.core k).lanes.any fun o => o.ctx == c && (o.willTouch s k).any bytes.contains

end Sys2Proof.Machine
end

