-- ==== Sys2Proof/Machine/Tally.lean ====
section
/-! DEFINITION. Launches and counters as they are read: launch records and deltas (R31, R33, R383), counter names and
values (R393 to R401), barrier slots (R406), and the messages on their way (R263, R329). -/

namespace Sys2Proof.Machine

/-! ## Launches -/

/-- The record of a launch ID (R383). -/
def State.launch? (s : State) (lid : Nat) : Option Launch := Tab.find s.master.launches lid

/-- The launch ID is live: 0, or a record that is not released (R31). -/
def State.live (s : State) (lid : Nat) : Bool := lid == 0 || (s.launch? lid).isSome

/-- The state with a launch record changed. -/
def State.modLaunch (s : State) (lid : Nat) (f : Launch → Launch) : State :=
  match s.launch? lid with
  | some l => { s with master := { s.master with launches := Tab.put s.master.launches lid (f l) } }
  | none => s

/-- Word `w` of a launch descriptor (R382). -/
def Launch.word (l : Launch) (w : Nat) : Word := l.desc.getD w 0

/-- N of a launch. -/
def Launch.units (l : Launch) : Nat := field (l.word 2) 31 0

/-- The number of chunks of a launch (R39). -/
def Launch.chunkCount (l : Launch) : Nat := ceilDiv l.units 64

/-- The units of a chunk (R39). -/
def Launch.chunkSize (l : Launch) (n : Nat) : Nat := min 64 (l.units - 64 * n)

/-- All chunks dealt. -/
def Launch.allChunks (l : Launch) : List Chunk := l.chunks.flatMap (·.2)

/-- The unit counter of a chunk; 0 when it has not been dealt (R397). -/
def Launch.unitCount (l : Launch) (n : Nat) : Nat :=
  match l.allChunks.find? fun c => c.number == n with
  | some c => c.count
  | none => 0

/-- The sum of the unit counters (R402). -/
def Launch.completed (l : Launch) : Nat := l.allChunks.foldl (fun n c => n + c.count) 0

/-- The delta of a launch at a core changes (R33); launch ID 0 is not counted (R31). -/
def State.count (s : State) (k lid : Nat) (d : Int) : State :=
  if lid = 0 || d = 0 then s
  else s.modCore k fun x => { x with delta := Tab.put x.delta lid (Tab.get 0 x.delta lid + d) }

/-- The delta of a launch at a Derrick changes. -/
def State.countDie (s : State) (d lid : Nat) (n : Int) : State :=
  if lid = 0 || n = 0 then s
  else s.modDie d fun x => { x with derrick := { x.derrick with
    delta := Tab.put x.derrick.delta lid (Tab.get 0 x.derrick.delta lid + n) } }

/-- Messages were sent from a core to cores of other dies (R43, log 27). -/
def State.sent (s : State) (k lid : Nat) (dests : List Nat) (n : Int) : State :=
  if lid = 0 then s
  else dests.foldl (fun s d =>
    if dieOf d = dieOf k then s
    else s.modCore k fun x =>
      { x with cross := Tab.put x.cross (4 * lid + dieOf d) (Tab.get 0 x.cross (4 * lid + dieOf d) + n) }) s

/-- The die of this package that a delivered message comes from (R326, R328, R446). -/
def originDie (own : Nat) (hdr0 hdr1 : Word) : Option Nat :=
  if field hdr0 31 26 = own then some (field hdr1 43 32 / 1024) else none

/-- Messages of a launch are retired at a core (R33); `origin` is the die of this package they come from. One from a die
that has been fenced out counts no more (log 27). -/
def State.retired (s : State) (k lid : Nat) (origin : Option Nat) (n : Int) : State :=
  match origin with
  | some d =>
    if d = dieOf k then s.count k lid (-n)
    else if s.fenced.getLsbD d && !s.master.electing then s
    else (s.sent k lid [1024 * d] (-n)).count k lid (-n)
  | none => s.count k lid (-n)

/-- A unit's handler has retired: its chunk's counter rises (R397). -/
def State.unitRetired (s : State) (lid i : Nat) : State :=
  s.modLaunch lid fun l => { l with chunks := l.chunks.map fun (d, cs) =>
    (d, cs.map fun c => if c.number = i / 64 then { c with count := min 64 (c.count + 1) } else c) }

/-- Work of the launch was lost: it completes with status ERROR (R34, R348). -/
def State.lose (s : State) (lid : Nat) : State := s.modLaunch lid fun l => { l with status := 3 }

/-- The launch, or the unit, is in a core's cancel filter (R36). -/
def Core.filtered (x : Core) (lid : Nat) (unit : Option Nat) : Bool :=
  x.filter.any fun f => f.lid == lid && (f.unit.isNone || f.unit == unit)

/-! ## Counter names (R394) -/

/-- CLASS of a counter name. -/
def nameClass (w : Word) : Nat := field w 63 60

/-- REMOTE of a name of class 0. -/
def nameRemote (w : Word) : Bool := bit w 59

/-- The bits of a name lie in the fields of its class; `cancel` names a unit by its index. -/
def nameOk (w : Word) (cancel : Bool) : Bool :=
  match nameClass w with
  | 0 => if nameRemote w then zeroBits w 58 32 && zeroBits w 12 8 else zeroBits w 58 8
  | 1 => zeroBits w 59 10
  | 2 => zeroBits w 59 48 && (cancel || zeroBits w 31 26)
  | 3 => zeroBits w 59 16
  | 4 => zeroBits w 59 32
  | 5 => zeroBits w 59 29
  | 6 => zeroBits w 59 13
  | _ => false

/-! ## Values of counters (R395 to R401) -/

/-- A completion word (R395). -/
def completionWord (complete : Bool) (status count : Nat) : Word :=
  word ((if complete then 2 ^ 63 + status % 4 * 2 ^ 56 else 0) + min count 0xFFFFFFFF)

/-- The word of an item that the master does not know. -/
def unknownWord : Word := 0x4000000000000000#64

/-- A graph, phase or job by its class, ASID and number. -/
def State.item? (s : State) (cls asid num : Nat) : Option Item :=
  s.master.items.find? fun i => i.cls == cls && i.asid == asid && i.num == num

/-- The state with an item changed. -/
def State.modItem (s : State) (cls asid num : Nat) (f : Item → Item) : State :=
  { s with master := { s.master with items := s.master.items.map fun i =>
      if i.cls = cls && i.asid = asid && i.num = num then f i else i } }

/-- The completion word of an item. -/
def State.itemWord (s : State) (cls asid num : Nat) : Word :=
  match s.item? cls asid num with
  | some i => completionWord i.done i.status i.count
  | none => unknownWord

/-- The value of a counter of classes 1 to 6, read under an ASID (R401). -/
def State.counterWord (s : State) (asid : Nat) (name : Word) : Word :=
  match nameClass name with
  | 1 => Tab.get 0 (s.die (field name 9 8)).engine.counters (field name 7 0)
  | 2 =>
    match s.launch? (field name 47 32) with
    | some l => word (l.unitCount (field name 25 0))
    | none => unknownWord
  | 3 =>
    match s.launch? (field name 15 0) with
    | some l => completionWord (l.state = .complete) l.status l.last
    | none => unknownWord
  | 4 => s.itemWord 4 asid (field name 31 0)
  | 5 => s.itemWord 5 (field name 28 16) (field name 15 0)
  | 6 => s.itemWord 6 (field name 12 0) 0
  | _ => 0

/-- The value of a named counter as a core reads it (R401). -/
def State.counterAt (s : State) (k : Nat) (name : Word) : Word :=
  if nameClass name = 0 then Tab.get 0 (s.core k).sc (field name 7 0)
  else s.counterWord (s.core k).asid.toNat name

/-- The condition of `cnt.wait` (R401). -/
def State.counterHolds (s : State) (k : Nat) (name target : Word) : Bool :=
  let v := s.counterAt k name
  match nameClass name with
  | 0 => decide (0 ≤ (v - target).toInt)
  | 1 => decide (0 ≤ signedOf 48 (v - target).toNat)
  | 2 => v == unknownWord || decide (target.toNat ≤ v.toNat)
  | _ => bit v 63 || bit v 62

/-! ## Barrier slots -/

/-- The slot that holds a rectangle (R406). -/
def Core.slotFor (x : Core) (rect : Word) : Option (Nat × BarSlot) := x.slots.find? fun p => p.2.rect == rect

/-! ## Messages -/

/-- KIND of a message (R326). -/
def Msg.kind (m : Msg) : Nat := field m.hdr1 12 10
/-- LEN of a message. -/
def Msg.len (m : Msg) : Nat := field m.hdr1 7 0
/-- LID of a message. -/
def Msg.lid (m : Msg) : Nat := field m.hdr1 31 16
/-- TAG of a message. -/
def Msg.tag (m : Msg) : Nat := field m.hdr1 63 48
/-- CLASS of a message: HI. -/
def Msg.isHi (m : Msg) : Bool := bit m.hdr1 8
/-- OFFSET of a message (R325). -/
def Msg.offset (m : Msg) : Nat := field m.hdr0 63 32

/-- The message travels in the HI channel (R329). -/
def Msg.inHi (m : Msg) : Bool := sinkKind m.kind || (m.kind == 0 && m.isHi)

/-- The short ID of a core (R328). -/
def shortId (k : Nat) : Nat := k

/-- LO traffic finds no free entry in the core's Tip region (R335). -/
def Core.tipFull (x : Core) : Bool :=
  decide (3584 ≤ x.tipLo.length + (x.tipPark.filter fun e => !e.msg.isHi).length) ||
  decide (4096 ≤ x.tipHi.length + x.tipLo.length + x.tipPark.length)

/-! ## Destinations (R325, R380, R381) -/

/-- A die's core map as it stands, empty for a fenced die (R392). -/
def State.mapOf (s : State) (d : Nat) : List (Option Nat) := if s.fenced.getLsbD d then [] else (s.die d).coreMap

/-- The core of this node that bits 25:13 of a header word 0 name: a site, or a logical index of a die's map. -/
def State.resolve (s : State) (w : Word) : Option Nat :=
  let d := field w 25 24
  let k := if bit w 13 then
      match (s.mapOf d).getD (field w 23 14) none with
      | some site => d * 1024 + site
      | none => 4096
    else siteKey d (field w 23 19) (field w 18 14)
  if s.enabled k then some k else none

/-- NODE of a header word 0. -/
def nodeOf (w : Word) : Nat := field w 31 26

/-- The destination of a header word 0 can be sent to (R348): an enabled core of this node, or a node that is not
marked unreachable. -/
def State.destinationOk (s : State) (w : Word) : Bool :=
  if nodeOf w = s.node then (s.resolve w).isSome else s.path (nodeOf w) != 0

/-- The destination cores of a header word 0; none on another node. -/
def State.destsOf (s : State) (w : Word) : List Nat :=
  if nodeOf w = s.node then (s.resolve w).toList else []

/-! ## Scopes (R250 to R252) -/

/-- The cores of the gang of a context; the core alone when it belongs to none (R250). -/
def State.gangCores (s : State) (k c : Nat) : List Nat :=
  let lead := match (s.ctx k c).gang with
    | .following _ pos _ => k - pos
    | _ => k
  let members := (s.core lead).ctxs.findSome? fun p =>
    match p.2.gang with
    | .leading _ ms => some ms
    | _ => none
  match (s.ctx k c).gang, members with
  | .alone, _ => [k]
  | .joining _, _ => [k]
  | _, some ms => lead :: ms.map (lead + ·)
  | _, none => [k]

/-- The destination lies in a cover's set (R250). -/
def State.inScope (s : State) (k : Nat) (f : Cover) (node : Nat) (dests : List Nat) : Bool :=
  if 6 ≤ f.scope then true
  else if node ≠ s.node then false
  else dests.any fun d =>
    match f.scope with
    | 0 => false
    | 1 => d == k
    | 2 => f.cores.contains d
    | 3 => dieOf d == dieOf k && clusterOf d == clusterOf k
    | 4 => dieOf d == dieOf k
    | _ => true

/-- The context sent the flight, or a message that merged into it. -/
def Flight.sentBy (f : Flight) (k c : Nat) : Bool := (f.src == k && f.ctx == c) || f.also.contains (k, c)

/-- A sink message of the context toward some destination of a set is not delivered: it waits in the outbox, in a
channel, in a router or at an atomic engine, or, toward another node, for a flit's acknowledgement (R252, log 15). The
deposits of a copy are no messages of the context (R260, R264). -/
def State.sinksOut (s : State) (k c : Nat) (p : Nat → List Nat → Bool) : Bool :=
  let mine := fun (f : Flight) => f.sentBy k c && f.part.isNone && sinkKind f.msg.kind &&
    (if f.dest < 8192 then p s.node [f.dest] else p (f.dest - 8192) [])
  ((s.core k).outbox.any fun e => e.ctx == c && e.part.isNone && sinkKind e.msg.kind && p e.node e.dests) ||
  s.hiFlights.any mine || (s.routers.any fun r => r.2.any mine) ||
  (s.dies.any fun d => d.2.atomics.any fun e => e.2.queue.any fun q =>
    match q.deposit with
    | some f => mine f
    | none => false) ||
  (s.ports.any fun r => (r.2.out ++ r.2.unacked).any fun f =>
    f.senders.contains (k, c) && p f.packet.dst [])

/-- The request is a write of a context's instruction or matrix entry, or of a core's save or restore (R260). -/
def Owner.ofCore (o : Owner) (k : Nat) : Bool :=
  match o with
  | .ctx j _ => j == k
  | .matrix j _ _ => j == k
  | .core j => j == k
  | .left j _ => j == k
  | _ => false

/-- A write of this owner may be visible to a context: all but a copy's, which the context has to observe (R264), and a
line's of the non-temporal buffer (R262). -/
def Owner.visible (o : Owner) : Bool :=
  match o with
  | .copy _ _ => false
  | .line _ _ _ => false
  | .gone => false
  | _ => true

/-- A packet with this transaction number still waits for a flit. -/
def State.unsent (s : State) (tx : Nat) : Bool :=
  s.ports.any fun p => p.2.out.any fun f => f.packet.txid == tx && f.packet.kind != 1 && f.packet.src == s.node

/-- The write requests to other nodes that stand and are not performed at a scope: not sent, or not acknowledged
(R252). -/
def State.writesOut (s : State) (scope : Nat) (o : Owner → Bool) : List Nat :=
  if scope < 2 then []
  else s.requests.filterMap fun r =>
    if o r.2.owner && r.2.query.writes && (decide (6 ≤ scope) || s.unsent r.1) then some r.1 else none

/-! ## Bound writes (R255, R369) -/

/-- A valid region entry. -/
def regionValid (ws : List Word) : Bool := bit (ws.getD 0 0) 63

/-- ASID of a region entry. -/
def regionAsid (ws : List Word) : Nat := field (ws.getD 3 0) 12 0

/-- A region entry binds a virtual byte to an object (R255). -/
def regionBinds (ws : List Word) (asid va : Nat) (object : Nat × Nat) : Bool :=
  let base := field (ws.getD 0 0) 55 12 * 4096
  regionValid ws && regionAsid ws == asid && object.1 == asid && field (ws.getD 1 0) 55 3 * 8 == object.2 &&
  decide (base ≤ va ∧ va < base + field (ws.getD 2 0) 31 0 * 4096)

/-- A byte at home on a die is bound to the object under the die's copy of the table (R255, R370). -/
def State.bound (s : State) (d asid va : Nat) (object : Nat × Nat) : Bool :=
  (s.die d).regions.any fun r => regionBinds r.2 asid va object

/-- The virtual address that a byte of a store-path entry was stored under. -/
def Store.vaOf (e : Store) (pa : Nat) : Nat := Tab.get 0 e.pages (pa / 4096) * 4096 + pa % 4096

/-- A release covers the store, or the operation is not a release (R261). -/
def Cover.takes (f : Cover) (s : State) (e : Store) : Bool :=
  match f.object with
  | none => true
  | some o => e.bytes.any fun b => s.bound (homeDie b.1) e.asid (e.vaOf b.1) o

/-- A release covers the atomic, or the operation is not a release (R261). -/
def Cover.takesAtomic (f : Cover) (s : State) (p : Pending) : Bool :=
  match f.object with
  | none => true
  | some o => s.bound ((p.bytes.findSome? fun b =>
      match b with
      | .hbm pa => some (homeDie pa)
      | _ => none).getD 0) p.asid p.va o

/-- What an operation of a context covers, fixed when it issues (R250, R260, R261, R263). Writes to other nodes that other
cores of the package have made may be visible to the context from the panel scope on, and are all waited for there
(log 16). -/
def State.freshCover (s : State) (k c scope : Nat) (object : Option (Nat × Nat)) : Cover :=
  { scope, cores := s.gangCores k c, seq := (s.core k).seq, object, replies := if 9 ≤ scope then s.mailbox.done else []
    requests := s.writesOut scope fun o => if 6 ≤ scope then o.visible else o.ofCore k }

/-- The cover of a wait. -/
def WaitOn.cover? (w : WaitOn) : Option Cover :=
  match w with
  | .performed f => some f
  | .fenced f => some f
  | .ordered f _ _ => some f
  | _ => none

/-- The wait of a `gang.lead` (R186). -/
def WaitOn.leads (w : WaitOn) : Bool :=
  match w with
  | .gang n => n != 0
  | _ => false

/-- A wait that stands until its instruction retires: of an `end` that has issued (R135), of a `gang.lead` (R186), and of
an operation that has fixed what it covers (R250). -/
def WaitOn.kept (w : WaitOn) : Bool := w = .allResults || w.leads || w.cover?.isSome

/-- The cover of the operation in a context: the one it issued with, if it has waited (R250). -/
def State.coverOf (s : State) (k c scope : Nat) (object : Option (Nat × Nat)) : Cover :=
  match (s.ctx k c).waitOn.bind WaitOn.cover? with
  | some f => if f.scope = scope && f.object = object then f else s.freshCover k c scope object
  | none => s.freshCover k c scope object

/-- A write of an `mst` of the context that was queued before a place of its core's program order (R313). -/
def Owner.queuedBefore (k c seq : Nat) (o : Owner) : Bool :=
  match o with
  | .matrix j d id => j == k && d == c && decide (id < seq)
  | _ => false

/-- Every earlier write of the context that a cover takes, and every such write of its core that it may have seen, is
performed at the cover's scope (R252, R260, R261). The core's store path is waited for up to the place of the operation,
whichever context stored (log 16). Tile writes are unbound (R255). -/
def State.writesDone (s : State) (k c : Nat) (f : Cover) : Bool :=
  let x := s.core k
  (f.scope == 0 ||
    ((f.object.isSome || !(x.lanes.any fun o => o.ctx == c)) &&
     !(x.matrix.any fun e => e.ctx == c && e.op == .store) &&
     !((x.ctx c).pending.any fun p => !p.ready && f.takesAtomic s p))) &&
  (decide (f.scope < 2) || !(x.stores.any fun e => !e.nt && decide (e.seq < f.seq) && f.takes s e)) &&
  (f.requests.all fun tx => !(s.writesOut f.scope Owner.visible).contains tx) &&
  (s.writesOut f.scope (Owner.queuedBefore k c f.seq)).isEmpty &&
  !(f.replies.any s.mailbox.done.contains)

/-- Every earlier `st.nt` of the context is performed at a scope (R262): its lines have left the buffer, and the writes
that they became are performed. -/
def State.ntDone (s : State) (k c scope : Nat) : Bool :=
  let x := s.core k
  !(x.nt.any fun l => l.holds c) &&
  (decide (scope < 2) || !(x.stores.any fun e => e.nt && e.holds c)) &&
  (s.writesOut scope fun o =>
    match o with
    | .line j _ cs => j == k && cs.contains c
    | _ => false).isEmpty

/-- The separating scope of a context and a message's destinations (R251). -/
def State.separating (s : State) (k node : Nat) (dests : List Nat) : Nat :=
  if node ≠ s.node then 6 else if dests.all (· == k) then 1 else 5

/-- R263 toward destinations: covered writes performed at the separating scope, and earlier sinks to the same
destination delivered. -/
def State.sendOrdered (s : State) (k c : Nat) (f : Cover) (node : Nat) (dests : List Nat) : Bool :=
  s.writesDone k c f &&
  !s.sinksOut k c fun n ds => n == node && (node != s.node || ds.any dests.contains)

end Sys2Proof.Machine
end

