-- ==== Sys2Proof/Machine/Waits.lean ====
section
/-! DEFINITION. When each wait of a context is over (R16). -/

namespace Sys2Proof.Machine

/-- A former follower of the leader has not executed its forwarded `gang.leave` (R29, R186). -/
def State.stillFollows (s : State) (k j : Nat) : Bool :=
  (s.core (k + j)).ctxs.any fun p =>
    match p.2.gang with
    | .following x pos _ => x == xOf k && pos == j
    | _ => false

/-- The follower cores of a leader have contexts that wait for it, and no former follower is left (R27, R186). -/
def State.followersWait (s : State) (k n : Nat) : Bool :=
  (upFrom 1 7).all (fun j => decide (32 ≤ xOf k + j) || !s.stillFollows k j) &&
  (upFrom 1 n).all fun j => (s.core (k + j)).ctxs.any fun p =>
    p.2.state = .wait &&
    match p.2.gang with
    | .joining x => x == xOf k
    | _ => false

/-- An address may have been translated by an entry that a `tlbinv` removes: with one address named, the two lie in one
page of the greatest size (R390, log 80). -/
def sameEntry (asid va : Option Nat) (a v : Nat) : Bool :=
  (asid.isNone || asid == some a) &&
  match va with
  | some w => w / 2 ^ 30 == v / 2 ^ 30
  | none => true

/-- A translation of a removed page is in use by a copy or a matrix entry (R390). -/
def confirmedUnder (map : List Confirmed) (asid va : Option Nat) : Bool :=
  map.any fun c =>
    sameEntry asid va c.asid (c.page * 4096)

/-- The row of a matrix entry whose data are still to come was translated under a removed entry (R319). -/
def MatrixEntry.leftUnder (e : MatrixEntry) (asid va : Option Nat) : Bool :=
  (e.left.getD []).any fun b =>
    match b.2 with
    | .hbm _ => sameEntry asid va e.asid b.1.toNat
    | .node _ _ => sameEntry asid va e.asid b.1.toNat
    | _ => false

/-- Nothing that was translated under a removed entry is in progress (R390): loads, atomics and stores, buffered lines on
their way, confirmed translations of copies and of the matrix queue, rows of the matrix queue whose fetch has left (R319),
lock requests, atomics of other nodes, and requests
to other nodes. -/
def State.translationsDone (s : State) (asid va : Option Nat) : Bool :=
  let hit := sameEntry asid va
  (s.cores.all fun p =>
    (p.2.stores.all fun e => (e.pages.all fun q => !hit e.asid (q.2 * 4096)) && e.marks.all fun m => !hit m.2.asid m.2.va) &&
    (p.2.ctxs.all fun q => q.2.pending.all fun l => !hit l.asid l.va) &&
    (p.2.copies.all fun c => !confirmedUnder c.map asid va) &&
    (p.2.matrix.all fun e => !confirmedUnder e.map asid va && !e.leftUnder asid va)) &&
  ((s.locks ++ s.retries).all fun q => !hit q.asid q.va) &&
  (s.dies.all fun d => d.2.atomics.all fun e => e.2.queue.all fun q => q.node.isNone || !hit q.asid q.va) &&
  s.requests.all fun r => r.2.owner = .gone || !hit r.2.query.asid r.2.query.va

/-- What a waiting context waits for has come. -/
def State.waitOver (s : State) (k c : Nat) (w : WaitOn) : Bool :=
  let x := s.core k
  let t := x.ctx c
  match w with
  | .results => t.beforeIssue.isSome
  | .oldestWindow => (t.windows.head?.map fun w => w.result.isSome).getD true
  | .ldqHead => (t.ldq.head?.map fun e => e.value.isSome).getD true
  | .ldqRoom => decide (t.ldq.length < 16)
  | .loads => t.pending.isEmpty
  | .allResults => t.pending.isEmpty && t.windows.all (fun w => w.result.isSome) &&
      t.ldq.all (fun e => e.value.isSome) && !(x.lanes.any fun o => o.ctx == c)
  | .performed f => s.writesDone k c f
  | .fenced f => t.pending.isEmpty && s.writesDone k c f && !s.sinksOut k c (s.inScope k f)
  | .drained scope => s.ntDone k c scope
  | .ordered f node dests => s.sendOrdered k c f node dests
  | .outbox n => decide (x.outbox.length + n ≤ 16)
  | .tipRoom => !x.tipFull
  | .spoil => decide (x.spoil.length < 32)
  | .laneRoom => decide (x.lanes.length < 8)
  | .channel needs => needs.all fun p => decide (p.2 ≤ (Tab.get 0 x.cb p.1).toNat)
  | .laneBytes bytes => bytes.isEmpty || (!s.laneTouches k c bytes && !bytes.any (s.mstTile k))
  | .laneReads bytes => bytes.isEmpty || (!s.laneWrites k c bytes && !bytes.any (s.mstTile k))
  | .globalBytes pas => !pas.any (s.mstPa k)
  | .nodeBytes bytes => !bytes.any (s.mstNode k)
  | .copyRoom tag => decide (Tab.get 0 x.tagCount tag < 15 ∧ x.copies.length < 16)
  | .matrixRoom => decide (x.matrix.length < 8)
  | .fetched id => !x.matrix.any fun e => e.id == id && !e.fetched
  | .flags => !(x.lanes.any fun o => o.ctx == c) && !(x.matrix.any fun e => e.ctx == c) && !t.floatsPending (upFrom 0 32)
  | .tags mask all => if all then x.tags &&& mask == mask else x.tags &&& mask != 0
  | .counter name target => s.counterHolds k name target
  | .barrier phase =>
    match x.slotFor t.barRect with
    | some (_, b) => decide (0 < (b.phase - phase).toInt)
    | none => true
  | .gang n => n != 0 && s.followersWait k n
  | .lock => t.latch != .asked
  | .answer => t.latch != .asked
  | .remote q => (s.answer (.ctx k c) q).isSome
  | .stack n => s.stackReady n || s.failedStacks.contains n
  | .changed => !((s.master.bindings ++ s.master.regionChanges ++ s.master.filters ++ s.master.exchanges).any fun e =>
      e.core == k && e.ctx == c)
  | .copies die buffer own =>
    if own then !x.copies.any fun e => e.form == .shadow die buffer
    else s.cores.all fun p => !p.2.copies.any fun e => e.form == .shadow die buffer
  | .invalidated asid va => s.translationsDone asid va
  | .engine die receive => s.ready.getLsbD (44 + die) &&
      (let e := (s.die die).engine
       decide ((if receive then e.recvQ.length else e.sendQ.length) < 1024))
  | .restore => x.restoring.isNone && !x.jobBusy
  | .command => x.command.isNone
  | .stepping d => (Tab.get {} x.bench.domains d).stepLeft == 0
  | .domain d => ((Tab.get {} x.bench.domains d).stepper).isNone
  | .floats d regs => !(x.ctx d).floatsPending regs
  | .image => !x.ctxs.any fun p => p.1 != c && p.2.imaging
  | .written =>
    !(x.lanes.any fun o => o.ctx == c) && !(x.matrix.any fun e => e.ctx == c && e.op == .store) &&
    !(t.pending.any fun p => !p.ready) && !(x.stores.any fun e => e.holds c) && !(x.nt.any fun l => l.holds c) &&
    !(s.requests.any fun r => r.2.query.writes &&
      match r.2.owner with
      | .ctx j d => j == k && d == c
      | .matrix j d _ => j == k && d == c
      | .line j _ cs => j == k && cs.contains c
      | .left j d => j == k && d == c
      | _ => false)

/-- The instruction waits until a condition holds (R16). -/
def waitUntil (w : WaitOn) : M Unit := do
  let s ← get
  if s.waitOver s.iss.core s.iss.ctx w then pure () else pause w

/-- The writes that the instruction in the slot covers are performed at a scope (R252). -/
def waitPerformed (scope : Nat) (object : Option (Nat × Nat) := none) : M Unit := do
  let (k, c) ← here
  let s ← get
  waitUntil (.performed (s.coverOf k c scope object))

/-- Every earlier access of the context has reached the point that a fence of the scope asks for (R260). -/
def waitFenced (scope : Nat) : M Unit := do
  let (k, c) ← here
  let s ← get
  waitUntil (.fenced (s.coverOf k c scope none))

/-- What precedes a message to the destinations is ordered before it (R263). -/
def waitOrdered (node : Nat) (dests : List Nat) : M Unit := do
  let (k, c) ← here
  let s ← get
  waitUntil (.ordered (s.coverOf k c (s.separating k node dests) none) node dests)

/-- The instruction has begun what it does and waits for the rest at a boundary; it is executed again when the wait is
over, and reads its operands again, so the load-data queue stands as it did in `old`. -/
def holdOn (old : Ctx) (w : WaitOn) : M Unit :=
  modMyCtx fun t => { t with state := .wait, waitOn := some w, ldq := old.ldq }

/-- The instruction has sent its request and waits for the answer (R188); it is executed again when it has come, and
reads its operands again. -/
def awaitAnswer (old : Ctx) (w : WaitOn) : M Unit :=
  modMyCtx fun t => { t with state := .wait, waitOn := some w, latch := .asked, ldq := old.ldq }

/-- The answer of another node to a request that is not sent twice: until it comes the instruction is not at a boundary
(R188). -/
def askOnce (old : Ctx) (q : Query) : M (Option Answer) := do
  let (k, c) ← here
  let s ← get
  match s.answer (.ctx k c) q with
  | some a => pure (some a)
  | none => do
    modify fun s => s.askNode (dieOf k) (.ctx k c) q
    awaitAnswer old (.remote q)
    pure none

end Sys2Proof.Machine
end

