-- ==== Sys2Proof/Machine/Issue.lean ====
section
/-! DEFINITION. An issue slot of a core (R25 to R29): which context issues, its next instruction (R87 to R95), and
what follows when it has retired. -/

namespace Sys2Proof.Machine

/-! ## Which context issues -/

/-- The contexts of a core whose wait is over become READY (R16), with a new deadline (R26). What an
instruction has fixed when it issued stays until it retires (R135, R250). -/
def State.wake (s : State) (k : Nat) : State :=
  (s.core k).ctxs.foldl (fun s p =>
    match p.2.waitOn with
    | some w =>
      if p.2.state = .wait && s.waitOver k p.1 w then
        s.modCtx k p.1 fun t => { t with
          state := .ready, waitOn := if w.kept then some w else none, deadline := (s.core k).cycle + 15 }
      else s
    | none => s) s

/-- A context at an instruction boundary takes a pending machine check (R181, R183). One that waits for the answer to
a request it has sent is not at a boundary (R188), and an `acq` whose answer has come from another node ends first
(R258). -/
def State.takeChecks (s : State) (k : Nat) : State :=
  (s.core k).ctxs.foldl (fun s p =>
    match p.2.checks with
    | [] => s
    | (source, addr) :: rest =>
      if (p.2.state = .ready || p.2.state = .wait) && p.2.atBoundary && !s.lockAnswered k p.1 then
        let s := s.modCtx k p.1 fun t => { t with checks := rest }
        s.trapCtx k p.1 0x10 p.2.pc addr (word source)
      else s) s

/-- The context of a core that follows a leader at a position, with its forwarding buffer (R28). -/
def Core.followerAt (x : Core) (pos : Nat) : Option (Nat × List Forwarded) :=
  x.ctxs.findSome? fun p =>
    match p.2.gang with
    | .following _ q buffer => if q = pos then some (p.1, buffer) else none
    | _ => none

/-- A follower of this leader holds eight forwarded instructions (R28), is being saved, or may stand in a save record of
its core (log 22). -/
def State.gangFull (s : State) (k : Nat) (members : List Nat) : Bool :=
  members.any fun pos =>
    match (s.core (k + pos)).followerAt pos with
    | some (c, buffer) => decide (8 ≤ buffer.length) || (s.ctx (k + pos) c).state = .saving
    | none => (s.core (k + pos)).saveMap != 0

/-- A context can issue now: it is READY, a follower has a forwarded instruction, and a leader's followers have room
(R28). -/
def State.canIssue (s : State) (k : Nat) (t : Ctx) : Bool :=
  t.state = .ready &&
  match t.gang with
  | .following _ _ buffer => !buffer.isEmpty
  | .leading _ members => !s.gangFull k members
  | _ => true

/-- The context follows a gang leader. -/
def Ctx.follows (t : Ctx) : Bool :=
  match t.gang with
  | .following _ _ _ => true
  | _ => false

/-- Distance of a context from a round-robin pointer. -/
def robin (pointer c : Nat) : Nat := (c + 16 - pointer % 16) % 16

/-- The element with the least key; the first of equals. -/
def leastBy {α : Type} (key : α → Nat) : List α → Option α
  | [] => none
  | a :: l =>
    match leastBy key l with
    | none => some a
    | some b => if key b < key a then some b else some a

/-- R26: the LO context that is owed the slot. -/
def State.owed (s : State) (k : Nat) : Option Nat :=
  let x := s.core k
  let los := x.ctxs.filter fun p => decide (p.1 < 12) && p.2.state = .ready && !p.2.hi
  let due := (upFrom 0 16).any fun d => decide (d + 1 ≤ (los.filter fun p => p.2.deadline ≤ x.cycle + d).length)
  if due then
    (leastBy (fun p => p.2.deadline * 16 + robin x.nextLo p.1) (los.filter fun p => s.canIssue k p.2)).map (·.1)
  else none

/-- The READY context of a class that the round robin chooses (R25). -/
def State.nextOf (s : State) (k : Nat) (hi : Bool) : Option Nat :=
  let x := s.core k
  let pointer := if hi then x.nextHi else x.nextLo
  (leastBy (fun p => robin pointer p.1)
    (x.ctxs.filter fun p => decide (p.1 < 15) && p.2.hi == hi && !p.2.follows && s.canIssue k p.2)).map (·.1)

/-- R25: the context that issues in this cycle. -/
def State.chosen (s : State) (k : Nat) : Option Nat :=
  let x := s.core k
  if (x.ctx 15).state = .ready then some 15
  else
    match s.owed k with
    | some c => some c
    | none =>
      match x.ctxs.find? fun p => p.2.follows && s.canIssue k p.2 with
      | some p => some p.1
      | none =>
        match s.nextOf k true with
        | some c => some c
        | none => s.nextOf k false

/-- The slot is the context's: the round-robin pointer of its class goes past it, and its deadline is set (R25,
R26). -/
def State.grant (s : State) (k c : Nat) : State :=
  let t := s.ctx k c
  let owed := c ≠ 15 && s.owed k == some c
  let s := s.modCore k fun x =>
    if c = 15 then x else if t.hi then { x with nextHi := (c + 1) % 16 } else { x with nextLo := (c + 1) % 16 }
  let s := if owed then s.modCore k fun x => x.bump 0 6 1 else s
  let s := s.setCtx k c { t with deadline := (s.core k).cycle + 16 }
  { s with iss := { core := k, ctx := c, pc := t.pc, next := t.pc } }

/-! ## Fetching (R87, R89, R232) -/

/-- The fetch fault of the instruction in the slot (R89). -/
def fetchFault {α : Type} (halfword : Word) (kind : Nat) : M α := do
  let s ← get
  throw (.walked { cause := 0x01, addr := halfword, info := word kind } s)

/-- The set of the instruction cache that a line may stand in: 128 sets of 4 lines (R218, log 8). -/
def CodeLine.set (l : CodeLine) : Nat := l.va / 64 % 128

/-- The instruction cache takes a line; in a full set the first to come is the first to go (R218, log 8). -/
def Core.takeLine (x : Core) (l : CodeLine) : Core :=
  let mates := x.icache.filter fun m => m.set == l.set
  { x with icache := l :: if mates.length < 4 then x.icache else
      match mates.getLast? with
      | some old => x.icache.erase old
      | none => x.icache }

/-- The 64 bytes of the line of an address (R232); a fault is the fault of the halfword that is being fetched. A fetch
waits for a queued `mst` of the core that will write one of the bytes (R313). -/
def fetchLine (halfword : Word) (va : Nat) : M (List Byte) := do
  let s ← get
  let (k, c) := (s.iss.core, s.iss.ctx)
  let asid := (s.core k).asid.toNat
  match (s.core k).icache.find? fun l => l.asid == asid && l.va == va with
  | some l => pure l.bytes
  | none =>
    match ← translate k asid va .fetch with
    | .error kind => fetchFault halfword kind
    | .ok (.here pa) => do
      needStack pa
      waitUntil (.globalBytes (upFrom pa 64))
      let s ← get
      let bytes := s.hbmBytes pa 64
      let s := s.touch pa true
      let s := match (upFrom pa 64).find? s.badByte with
        | some b => s.machineCheck k c 1 (word b)
        | none => s
      set (s.modCore k fun x => x.takeLine { asid, va, bytes })
      pure bytes
    | .ok (.node n) => do
      let a ← askNode (.ctx k c) { node := n, asid, va, ask := .load 64 }
      if 1 ≤ a.status && a.status ≤ 3 then fetchFault halfword (a.status - 1)
      else
        let bytes := if 4 ≤ a.status then errorBytes 64 else (a.data ++ errorBytes 64).take 64
        if 4 ≤ a.status then modMyCtx Ctx.remoteError else pure ()
        modMyCore fun x => x.takeLine { asid, va, bytes }
        pure bytes

/-- The halfword of code at an address. Code lies in virtual space alone (R219, log 13). -/
def fetchHalf (a : Word) : M (BitVec 16) := do
  if zeroBits a 63 56 then
    let line ← fetchLine a (a.toNat / 64 * 64)
    let i := a.toNat % 64
    pure (line.getD (i + 1) 0 ++ line.getD i 0)
  else fetchFault a 0

/-- The instruction's bits at an address (R87). -/
def fetchCode (a : Word) : M Code := do
  let low ← fetchHalf a
  if low.getLsbD 0 then
    let high ← fetchHalf (a + 2)
    pure (.long (high ++ low))
  else pure (.short low)

/-- The length of a code in bytes (R87). -/
def Code.bytes : Code → Nat
  | .short _ => 2
  | .long _ => 4

/-! ## The repeat prefix (R93 to R95) -/

/-- A word with each register field of the mask moved on by `j` (R93). -/
def stepBits (mask : BitVec 4) (j : Nat) : List (Nat × Nat × Nat) → Nat → Nat
  | [], w => w
  | (b, lo, n) :: fs, w =>
    stepBits mask j fs (if mask.getLsbD b then putField w (lo + n - 1) lo (w / 2 ^ lo % 2 ^ n + j) else w)

/-- The code of repetition `j` (R93). -/
def stepCode (mask : BitVec 4) (j : Nat) (c : Code) : Code :=
  match decode c with
  | .error _ => c
  | .ok i =>
    match c with
    | .short h => .short (BitVec.ofNat 16 (stepBits mask j i.stepFields h.toNat))
    | .long w => .long (BitVec.ofNat 32 (stepBits mask j i.stepFields w.toNat))

/-- R94: the instruction may follow a prefix with this mask. -/
def repeatable (mask : BitVec 4) (c : Code) : Bool :=
  (match c with
   | .short h => !h.getLsbD 15
   | .long w =>
     let major := w.toNat / 2 % 64
     !(decide (0x08 ≤ major ∧ major ≤ 0x0B) || major == 0x3D || major == 0x3E)) &&
  (match decode c with
   | .ok i => (upFrom 0 4).all fun b => !mask.getLsbD b || i.stepFields.any fun f => f.1 == b
   | .error _ => true)

/-! ## The next instruction -/

/-- The instruction in the slot: the head of the forwarding buffer for a follower (R28), else the code at the PC, or
the current repetition of the code after the prefix there (R95). An illegal encoding is the step of R107; of a repetition
it is the encoding with its stepped fields (log 94). The issue latch holds its code and addresses. -/
def nextInstr : M Instr := do
  let t ← myCtx
  match t.gang with
  | .following _ _ (f :: _) => do
    modify fun s => { s with iss := { s.iss with
      code := f.code, pc := f.pc, next := f.next, forwarded := true, repi := f.repi, save := f.save } }
    match decode f.code with
    | .ok i => pure i
    | .error _ => pure .illegalInstruction
  | _ => do
    let (code, next) ← match t.repeating with
      | some (_, mask) => do
        let c ← fetchCode (t.pc + 2)
        pure (stepCode mask t.repi c, t.pc + 2 + word (Code.bytes c))
      | none => do
        let c ← fetchCode t.pc
        pure (c, t.pc + word (Code.bytes c))
    modify fun s => { s with iss := { s.iss with code := code, pc := t.pc, next := next } }
    match decode code with
    | .ok i => pure i
    | .error _ => pure .illegalInstruction

/-- Before an instruction issues, the windows that close deliver their results (R100); none if one is awaited. -/
def State.closeAt (s : State) (k c : Nat) : Option State :=
  ((s.ctx k c).beforeIssue).map fun t => s.setCtx k c t

/-! ## After the instruction -/

/-- The leader forwards its retired instruction to its followers (R28, R185). -/
def State.forward (before s : State) (i : Instr) : State :=
  let k := before.iss.core
  match (before.ctx k before.iss.ctx).gang with
  | .leading _ members =>
    if i = .trap || i = .brk || i = .rep then s
    else
      let f : Forwarded :=
        { code := before.iss.code, pc := before.iss.pc, next := before.iss.next
          repi := (before.ctx k before.iss.ctx).repi, save := s.iss.save }
      members.foldl (fun s pos =>
        match (s.core (k + pos)).followerAt pos with
        | some (c, _) => s.modCtx (k + pos) c fun t =>
          match t.gang with
          | .following x q buffer => { t with gang := .following x q (buffer ++ [f]) }
          | _ => t
        | none => s) s
  | _ => s

/-- A follower's executed instruction leaves its buffer. -/
def Ctx.shiftBuffer (t : Ctx) : Ctx :=
  match t.gang with
  | .following x pos (_ :: buffer) => { t with gang := .following x pos buffer }
  | _ => t

/-- What follows when the instruction in the slot has retired. -/
def State.settle (before : State) (i : Instr) (s : State) : State :=
  if s.iss.retired then
    if before.iss.forwarded then s.modCtx before.iss.core before.iss.ctx Ctx.shiftBuffer
    else before.forward s i
  else s

/-- The outcome with `settle` applied to a next state. -/
def settled (before : State) (i : Instr) (o : Host.Outcome State Fault Refusal) : Host.Outcome State Fault Refusal :=
  match o with
  | .next s => .next (before.settle i s)
  | .fault f => .fault f
  | .refused r => .refused r

/-! ## The slot up to execution -/

/-- What an issue slot comes to: an instruction to execute in a state, or a state in which none issues. -/
inductive Slot where
  | run (i : Instr) (s : State)
  | idle (s : State)

/-- The slot's instruction is fetched and decoded; a fetch fault is taken (R89). -/
def State.fetched (s : State) : Slot :=
  match nextInstr.run s with
  | .ok (i, s') => .run i s'
  | .error e => .idle (e.outcome s)

/-- The core issues no more: a supervisor fault or a thermal trip has stopped it (R184, R434). -/
def State.halted (s : State) (k : Nat) : Bool := (s.core k).stopped || s.tripped

/-- The slot is a context's: the windows that close before its instruction deliver their results, and it is fetched. A
result that finds the store-data queue full faults there (R120, log 43). -/
def State.begin (s : State) (k c : Nat) : Slot :=
  match s.closeAt k c with
  | none => .idle (s.enterWait .results)
  | some s' => if (s'.ctx k c).overfull then .idle (s.takeTrap { cause := 0x04, info := 3 }) else s'.fetched

/-- What a core's front end does in a cycle, up to the instruction it issues (R25, R26). A machine check that it takes
may stop the core (R183, R184). -/
def State.slot (s : State) (k : Nat) : Slot :=
  if s.halted k then .idle s
  else
    let s := (s.wake k).takeChecks k
    if s.halted k then .idle s
    else
      match s.chosen k with
      | none => .idle s
      | some c => (s.grant k c).begin k c

end Sys2Proof.Machine
end

