-- ==== Sys2Proof/Machine/Agenda.lean ====
section
/-! DEFINITION. Which unit moves when the agenda names none (log 4). -/

namespace Sys2Proof.Machine

/-- A context of the core could issue now. -/
def State.hasWork (s : State) (k : Nat) : Bool := s.enabled k && ((s.wake k).chosen k).isSome

/-- The turn that comes when the agenda is empty: an issue slot of the first core that has something to issue, or of core
0. -/
def State.defaultTurn (s : State) : Turn := .slot (((s.cores.find? fun p => s.hasWork p.1).map (·.1)).getD 0)

/-- The step is one that no core fetches, and not the step of an illegal encoding. -/
def isUnitStep (i : Instr) : Bool := (encode i).isNone && i != .illegalInstruction

/-- The context in the slot has begun a repetition, and may issue its first instruction. -/
def State.prefixed (s : State) : Bool :=
  let t := s.ctx s.iss.core s.iss.ctx
  t.repeating.isSome && t.state = .ready

/-- The virtual address at which the host places an instruction. -/
def codeBase : Nat := 0x2000000000

/-- The physical page behind it. -/
def codePage : Nat := 0x10000

/-- Code stands where core 0's context 0 issues next. -/
def State.placeCode (s : State) (bytes : List Byte) : State :=
  let s := s.modCore 0 fun x =>
    { x.setCtx 0 { x.ctx 0 with state := .ready, pc := word codeBase } with
      utlb := utlbTake x.utlb
        { asid := x.asid.toNat, va := codeBase, size := 4096, leaf := word (0xC700000000000000 + codePage) }
      icache := x.icache.filter fun l => l.va != codeBase }
  let s := { s with ready := BitVec.allOnes 54, agenda := [.slot 0] }
  { s with hbm := (bytes.zipIdx codePage).foldl (fun m b => m.write b.2 b.1) s.hbm }

end Sys2Proof.Machine
end

