-- ==== Sys2Proof/Config.lean ====
section
/-! DEFINITION. What the spec leaves open and the model keeps free: constants without a body, so that nothing can be
proved of their values (log 5, log 11). -/

namespace Sys2Proof.Config

/-- The free values, by the number of the draw (log 5). -/
opaque freeValue : Nat → BitVec 64

/-- The Ed25519 signature that the package's key gives a byte string (R433); the key is in the package's fuses
(log 11). -/
opaque signature : List Byte → BitVec 512

/-- The certificate chain of the package's identity key (R433, log 11). -/
opaque certificates : Unit → List Byte

/-- SHA-512 of a byte string (R433, log 11). -/
opaque sha512 : List Byte → BitVec 512

/-- The short ID that a lock word records for a holder on another node: a LOCKREQ does not carry the core's (R254, R425,
log 34). -/
opaque remoteHolder : Nat → BitVec 16

end Sys2Proof.Config
end

