-- ==== Sys2Proof/Machine/LaneUnit.lean ====
section
/-! DEFINITION. What a lane instruction computes when the vector unit executes it (R272 to R298). -/

namespace Sys2Proof.Machine

/-! ## The vector unit's computation -/

/-- What an execution gathers: flags, the bytes of an outbound stream (R298), and the results of a block that is not
yet encoded (R275). -/
structure LaneAcc where
  fl : Flag := 0
  stream : Memory := []
  block : List Nat := []
  deriving DecidableEq

/-- A computation of the vector unit. -/
abbrev L := StateT LaneAcc M

/-- Flags are gathered. -/
def laneFlag (f : Flag) : L Unit := modify fun a => { a with fl := a.fl ||| f }

/-- A lane instruction in execution: its core and its queue entry. -/
structure LaneRun where
  k : Nat
  op : LaneOp

/-- The rounding mode: that of the destination (R62). -/
def LaneRun.mode (r : LaneRun) : Nat := hMode r.op.hd

/-! ## Element access (R235, R272, R273) -/

/-- The core whose tile a handle names; none for a peer that the package lacks. -/
def State.operandCore (s : State) (k : Nat) (h : HandleBits) : Option Nat :=
  let c := if hChan h || !hPeer h then k else peerOf k (hfield h 40 36)
  if s.enabled c then some c else none

/-- The effective address of a tile offset of an operand. -/
def operandAddr (h : HandleBits) (off : Nat) : Word :=
  if !hChan h && hPeer h then word (0xF100000000000000 + hfield h 40 36 * 2 ^ 48 + off) else tileAddr off

/-- `n` bytes of an operand from a spot on, as one access (R235): out-of-range bytes read 0 (R220). -/
def laneRead (r : LaneRun) (h : HandleBits) (p : Int) (skip n : Nat) : L (List Byte) := do
  if hChan h && chanOut h then
    let a ← get
    pure ((upFrom (p.toNat + skip) n).map a.stream.read)
  else
    let s ← getThe State
    let base := tileSpot h p + skip
    let core := s.operandCore r.k h
    let refs := (upFrom base n).map fun o =>
      match core with
      | some c => if o < 0x100000 then ByteRef.tile c o else .outside (operandAddr h o)
      | none => .outside (operandAddr h o)
    (noteOutside r.k r.op.ctx false refs : M Unit)
    (readNow r.k r.op.ctx 0 (sourcesOf refs []) : M (List Byte))

/-- Bytes of the destination from a spot on are written; out-of-range bytes are dropped (R220). -/
def laneWrite (r : LaneRun) (h : HandleBits) (p : Int) (skip : Nat) (bytes : List Byte) : L Unit := do
  if hChan h then
    modify fun a => { a with stream := (bytes.zipIdx (p.toNat + skip)).foldl (fun m b => m.write b.2 b.1) a.stream }
  else
    let s ← getThe State
    let base := tileSpot h p + skip
    let there := (s.operandCore r.k h).isSome
    let refs := (upFrom base bytes.length).map fun o =>
      if there && o < 0x100000 then ByteRef.tile r.k o else .outside (operandAddr h o)
    (noteOutside r.k r.op.ctx true refs : M Unit)
    if there then modifyThe State fun s => s.modCore r.k fun x => x.writeTileBytes base bytes else pure ()

/-- An element's bits as they stand: for VLF with its header, for DXB its code. -/
def readRaw (r : LaneRun) (h : HandleBits) (i : Nat) : L Nat := do
  let p := spotOf h i
  match kind h with
  | .int _ 4 => do
    let b ← laneRead r h p.pos 0 1
    pure (natOf b / 16 ^ p.sub % 16)
  | .dxb q =>
    if q = 6 then do
      let b ← laneRead r h p.pos (2 + p.sub) 1
      pure (natOf b)
    else do
      let b ← laneRead r h p.pos (2 + p.sub / 2) 1
      pure (natOf b / 16 ^ (p.sub % 2) % 16)
  | k => do
    let b ← laneRead r h p.pos 0 k.size
    pure (natOf b)

/-- An element's pattern: a DXB element as FP32 (R73); a VLF element whose header has another length is the default
NaN and sets NV (R273). -/
def readPattern (r : LaneRun) (h : HandleBits) (i : Nat) : L Nat := do
  let v ← readRaw r h i
  match kind h with
  | .dxb q => do
    let e ← laneRead r h (spotOf h i).pos 0 2
    pure (dxbSingle q (natOf (e.take 1)) (natOf (e.drop 1)) v)
  | .vlf k =>
    if v / 16 % 16 = k then pure (v / 256)
    else do
      laneFlag flagNV
      pure (fmtVlf k).nan
  | _ => pure v

/-- An element's value. -/
def readVal (r : LaneRun) (h : HandleBits) (i : Nat) : L Val := do
  let v ← readPattern r h i
  pure ((kind h).value v)

/-- The position read for element `i`: a one-element source is broadcast (R274). -/
def pick (h : HandleBits) (i : Nat) : Nat := if hCount h = 1 then 0 else i

/-- An element's bits are written as they are (R286). -/
def writeRaw (r : LaneRun) (h : HandleBits) (i v : Nat) : L Unit := do
  let p := spotOf h i
  match kind h with
  | .int _ 4 => do
    let old ← laneRead r h p.pos 0 1
    laneWrite r h p.pos 0 [BitVec.ofNat 8 (putField (natOf old) (4 * p.sub + 3) (4 * p.sub) v)]
  | k => laneWrite r h p.pos 0 (bytesOf k.size v)

/-- The element is the last of its DXB block (R71, R275). -/
def blockEnds (h : HandleBits) (i : Nat) : Bool :=
  (if hChan h then (i + 1) % 32 == 0 else (i % hLen h 0 + 1) % 32 == 0 || i % hLen h 0 + 1 == hLen h 0) ||
  i + 1 == hCount h

/-- A block of `n` elements is written whole, but for a high nibble that none of an odd number fills (R55, R275,
log 81). -/
def writeBlock (r : LaneRun) (h : HandleBits) (pos : Int) (n : Nat) (bytes : List Byte) : L Unit := do
  match oddByte h n with
  | none => laneWrite r h pos 0 bytes
  | some j => do
    let old ← laneRead r h pos j 1
    let b := BitVec.ofNat 8 (putField (natOf old) 3 0 ((bytes.getD j 0).toNat % 16))
    laneWrite r h pos 0 (bytes.set j b)

/-- An element's pattern is written: a VLF value with its header (R273), a DXB result into its block, which is written
whole when its last result has come (R275, log 81). `keep` gives the exponents of `vcvt.keep` (R76). -/
def writePattern (r : LaneRun) (h : HandleBits) (keep : Option (Nat × Nat)) (i v : Nat) : L Unit := do
  match kind h with
  | .vlf k => laneWrite r h (spotOf h i).pos 0 (vlfBytes k v)
  | .dxb q => do
    modify fun a => { a with block := a.block ++ [v] }
    if blockEnds h i then
      let a ← get
      let (bytes, fl) := dxbBlock q keep a.block
      laneFlag fl
      set { (← get) with block := [] }
      let n := a.block.length
      writeBlock r h (spotOf h (i + 1 - n)).pos n bytes
    else pure ()
  | _ => writeRaw r h i v

/-! ## Results (R66, R67, R82, R280) -/

/-- Some operand is VLF, so results are exact until the destination's rounding (R280). -/
def LaneRun.exactPath (r : LaneRun) : Bool :=
  [r.op.hd, r.op.ha, r.op.hb].any fun h => hCount h != 0 && (kind h).isVlf

/-- All operands are integer (R280). -/
def LaneRun.integers (r : LaneRun) (srcs : List HandleBits) : Bool := (r.op.hd :: srcs).all fun h => (kind h).isInt

/-- An operand as a number: an integer is converted to FP32 under the destination's mode, unless the computation is
exact (R280). -/
def toNum (r : LaneRun) (v : Val) : L Num := do
  match v with
  | .num n => pure n
  | .int i =>
    if r.exactPath then pure (Num.ofInt i)
    else do
      let (p, fl) := fmtSingle.roundMag r.mode (decide (i < 0)) i.natAbs 0 false
      laneFlag fl
      pure (fmtSingle.decode p)

/-- A value converted to the destination format and written (R54, R66, R67, R285). -/
def putConverted (r : LaneRun) (keep : Option (Nat × Nat)) (i : Nat) (v : Val) : L Unit := do
  let h := r.op.hd
  match kind h, v with
  | .int sg b, .int x => do
    let y := max (intLow sg b) (min x (intHigh sg b))
    laneFlag (flagIf (y != x) flagSAT)
    writeRaw r h i (y % (2 ^ b : Nat)).toNat
  | .int sg b, .num n => do
    let (y, fl) := toInteger r.mode (intLow sg b) (intHigh sg b) n
    laneFlag fl
    writeRaw r h i (y % (2 ^ b : Nat)).toNat
  | k, v => do
    let n := match v with
      | .int x => Num.ofInt x
      | .num n => n
    let f := match k with
      | .float f => f
      | .vlf k => fmtVlf k
      | _ => fmtSingle
    let (p, fl) := f.convert r.mode n
    laneFlag fl
    writePattern r h keep i p

/-- An exact result rounded and written as element `i`: once to the destination when a VLF operand takes part, else
to FP32 and then converted (R82, R280). -/
def putResult (r : LaneRun) (i : Nat) (x : Exact × Flag) : L Unit := do
  let h := r.op.hd
  if r.exactPath then
    match kind h with
    | .int _ _ => do
      laneFlag x.2
      putConverted r none i (.num x.1.num)
    | k => do
      let f := match k with
        | .float f => f
        | .vlf k => fmtVlf k
        | _ => fmtSingle
      let (p, fl) := f.finish r.mode x
      laneFlag fl
      writePattern r h none i p
  else do
    let (p, fl) := fmtSingle.finish r.mode x
    laneFlag fl
    putConverted r none i (.num (fmtSingle.decode p))

/-- An integer result wraps in the destination's width (R82). -/
def putWrapped (r : LaneRun) (i : Nat) (x : Int) : L Unit :=
  match kind r.op.hd with
  | .int _ b => writeRaw r r.op.hd i (x % (2 ^ b : Nat)).toNat
  | _ => pure ()

/-- A step for every position from `i` on, `n` of them, in ascending order (R275). -/
def eachPos (f : Nat → L Unit) (i : Nat) : Nat → L Unit
  | 0 => pure ()
  | n + 1 => do
    f i
    eachPos f (i + 1) n

/-- An integer operand's value. -/
def Val.asInt : Val → Int
  | .int i => i
  | .num _ => 0

/-! ## Elementwise arithmetic (R282 to R284) -/

/-- hd[i] := a[i] op b[i] (R282). -/
def lane2 (r : LaneRun) (fi : Int → Int → Int) (ff : Nat → Num → Num → Exact × Flag) : L Unit :=
  eachPos (fun i => do
    let a ← readVal r r.op.ha (pick r.op.ha i)
    let b ← readVal r r.op.hb (pick r.op.hb i)
    if r.integers [r.op.ha, r.op.hb] then putWrapped r i (fi a.asInt b.asInt)
    else do
      let x ← toNum r a
      let y ← toNum r b
      putResult r i (ff r.mode x y)) 0 (hCount r.op.hd)

/-- hd[i] := fma(a[i], b[i], old hd[i]) (R282). -/
def lane3 (r : LaneRun) : L Unit :=
  eachPos (fun i => do
    let a ← readVal r r.op.ha (pick r.op.ha i)
    let b ← readVal r r.op.hb (pick r.op.hb i)
    let d ← readVal r r.op.hd i
    if r.integers [r.op.ha, r.op.hb] then putWrapped r i (a.asInt * b.asInt + d.asInt)
    else do
      let x ← toNum r a
      let y ← toNum r b
      let z ← toNum r d
      putResult r i (fmaNum r.mode x y z)) 0 (hCount r.op.hd)

/-- hd[i] := f(a[i]), rounded (R283). -/
def laneFunction (r : LaneRun) (f : Num → Exact × Flag) : L Unit :=
  eachPos (fun i => do
    let a ← readVal r r.op.ha (pick r.op.ha i)
    let x ← toNum r a
    putResult r i (f x)) 0 (hCount r.op.hd)

/-- Negation or absolute value: integers wrap; on a floating operand the sign bit alone is changed, of the value as the
computation's format holds it (R60, R282). -/
def laneSign (r : LaneRun) (fi : Int → Int) (ff : Num → Num) : L Unit :=
  eachPos (fun i => do
    let a ← readVal r r.op.ha (pick r.op.ha i)
    if r.integers [r.op.ha] then putWrapped r i (fi a.asInt)
    else do
      let x ← toNum r a
      let y := ff x
      if r.exactPath then putConverted r none i (.num y)
      else do
        let (p, fl) := fmtSingle.convert r.mode y
        laneFlag fl
        putConverted r none i (.num (fmtSingle.decode p))) 0 (hCount r.op.hd)

/-- The absolute value of a number (R60). -/
def Num.abs : Num → Num
  | .nan _ f b => .nan false f b
  | .inf _ => .inf false
  | .fin _ m e => .fin false m e

/-- a · 2^n (R284). -/
def scaleNum (a b : Num) : Exact × Flag :=
  match b with
  | .nan _ _ _ => (.nan, flagNV)
  | _ =>
    let t : Int := match b with
      | .inf neg => if neg then -40000 else 40000
      | .fin neg m e => (toInteger 1 (-40000) 40000 (.fin neg m e)).1
      | _ => 0
    match a with
    | .fin neg m e => (.fin neg m (e + t) false, 0#7)
    | .inf neg => (.inf neg, 0#7)
    | _ => (.nan, nvIf [a])

/-- `vscale` (R284). -/
def laneScale (r : LaneRun) : L Unit :=
  eachPos (fun i => do
    let a ← readVal r r.op.ha (pick r.op.ha i)
    let b ← readVal r r.op.hb (pick r.op.hb i)
    let x ← toNum r a
    let n := match b with
      | .int v => Num.ofInt v
      | .num v => v
    putResult r i (scaleNum x n)) 0 (hCount r.op.hd)

/-! ## Conversion, copy and generation (R285, R286) -/

/-- `vcvt` and `vcvt.keep` (R285): a DXB destination takes FP32 inputs (R74). -/
def laneConvert (r : LaneRun) (keep : Option (Nat × Nat)) : L Unit :=
  eachPos (fun i => do
    let a ← readVal r r.op.ha i
    putConverted r keep i a) 0 (hCount r.op.hd)

/-- `vcopy`: elements bit for bit, DXB by whole blocks with their headers (R286). -/
def laneCopy (r : LaneRun) : L Unit :=
  match kind r.op.ha with
  | .dxb q =>
    eachPos (fun row => eachPos (fun j => do
      let b ← laneRead r r.op.ha (blockPos r.op.ha row j) 0 (Kind.dxb q).size
      writeBlock r r.op.hd (blockPos r.op.hd row j) (min 32 (hLen r.op.hd 0 - 32 * j)) b) 0 (rowBlocks r.op.hd))
      0 (hRows r.op.hd)
  | _ =>
    eachPos (fun i => do
      let v ← readRaw r r.op.ha i
      writeRaw r r.op.hd i v) 0 (hCount r.op.hd)

/-- `vbcast`: element 0, read once (R286). -/
def laneBroadcast (r : LaneRun) : L Unit := do
  if hCount r.op.hd = 0 then pure ()
  else
    let v ← readRaw r r.op.ha 0
    eachPos (fun i => writeRaw r r.op.hd i v) 0 (hCount r.op.hd)

/-- `viota` (R286). -/
def laneIota (r : LaneRun) : L Unit :=
  eachPos (fun i => putConverted r none i (.int (r.op.s.toInt + i))) 0 (hCount r.op.hd)

/-! ## Logic, shifts, compare and selection (R287 to R290) -/

/-- A logic operation on the bits of each element (R287). -/
def laneLogic (r : LaneRun) (f : Nat → Nat → Nat) : L Unit :=
  eachPos (fun i => do
    let a ← readRaw r r.op.ha (pick r.op.ha i)
    let b ← readRaw r r.op.hb (pick r.op.hb i)
    writeRaw r r.op.hd i (f a b)) 0 (hCount r.op.hd)

/-- A shift of each element by b[i][5:0] (R287): left, or right with the sign's copies for a signed format. -/
def laneShift (r : LaneRun) (left : Bool) : L Unit :=
  eachPos (fun i => do
    let a ← readVal r r.op.ha (pick r.op.ha i)
    let b ← readRaw r r.op.hb (pick r.op.hb i)
    let c := b % 64
    putWrapped r i (if left then a.asInt * (2 ^ c : Nat) else a.asInt / (2 ^ c : Nat))) 0 (hCount r.op.hd)

/-- The relation of a condition code between two values, and its flags (R153, R288). -/
def laneRelation (cc : Nat) (a b : Val) : Bool × Flag :=
  match a, b with
  | .int x, .int y => (match cc with
    | 0 => decide (x = y)
    | 1 => decide (x < y)
    | 2 => decide (x ≤ y)
    | 3 => false
    | _ => decide (x ≠ y), 0#7)
  | .num x, .num y =>
    let nan := x.isNan || y.isNan
    let d := x.compare y
    (match cc with
    | 0 => !nan && d == 0
    | 1 => !nan && decide (d < 0)
    | 2 => !nan && decide (d ≤ 0)
    | 3 => nan
    | _ => nan || d != 0,
    if cc = 1 || cc = 2 then flagIf nan flagNV else nvIf [x, y])
  | _, _ => (false, 0#7)

/-- `vcmp` (R288). -/
def laneCompare (r : LaneRun) : L Unit :=
  eachPos (fun i => do
    let a ← readVal r r.op.ha (pick r.op.ha i)
    let b ← if bit r.op.s 3 then
        pure (match a with
          | .int _ => Val.int 0
          | .num _ => Val.num (.fin false 0 0))
      else readVal r r.op.hb (pick r.op.hb i)
    let (t, fl) := laneRelation (field r.op.s 2 0) a b
    laneFlag fl
    writeRaw r r.op.hd i (if t then 1 else 0)) 0 (hCount r.op.hd)

/-- A mask element is true (R289). -/
def maskTrue (r : LaneRun) (i : Nat) : L Bool := do
  let v ← readRaw r r.op.mask i
  pure (v != 0)

/-- `vsel` (R289). -/
def laneSelect (r : LaneRun) : L Unit :=
  eachPos (fun i => do
    let t ← maskTrue r i
    let v ← if t then readRaw r r.op.ha (pick r.op.ha i) else readRaw r r.op.hb (pick r.op.hb i)
    writeRaw r r.op.hd i v) 0 (hCount r.op.hd)

/-- `vcompress`, from position `i` on with `n` true elements before it (R290). -/
def compressFrom (r : LaneRun) (i n : Nat) : Nat → L Nat
  | 0 => pure n
  | more + 1 => do
    let t ← maskTrue r i
    if t then
      if n < hCount r.op.hd then
        let v ← readPattern r r.op.ha i
        writePattern r r.op.hd none n v
      else pure ()
      compressFrom r (i + 1) (n + 1) more
    else compressFrom r (i + 1) n more

/-- `vexpand`, from position `i` on with `n` elements taken (R290). -/
def expandFrom (r : LaneRun) (i n : Nat) : Nat → L Nat
  | 0 => pure n
  | more + 1 => do
    let t ← maskTrue r i
    if t && decide (n < hCount r.op.ha) then
      let v ← readPattern r r.op.ha n
      writePattern r r.op.hd none i v
      expandFrom r (i + 1) (n + 1) more
    else expandFrom r (i + 1) n more

/-! ## Reductions (R83, R291) -/

/-- One round of the pairwise tree (R83). -/
def pairUp {α : Type} (f : α → α → L α) : List α → L (List α)
  | a :: b :: rest => do
    let c ← f a b
    let more ← pairUp f rest
    pure (c :: more)
  | l => pure l

/-- The rounds that bring the elements of any handle to one: a count is below 2^64 (R161). -/
def treeRounds : Nat := 64

/-- What a computation writes, without its flags (R83). -/
def quietly (x : L Unit) : L Unit := do
  let a ← get
  x
  modify fun b => { b with fl := a.fl }

/-- The pairwise tree of R83, for a number of rounds. -/
def treeOf {α : Type} (f : α → α → L α) : Nat → List α → L (List α)
  | 0, l => pure l
  | n + 1, l =>
    if l.length ≤ 1 then pure l
    else do
      let m ← pairUp f l
      treeOf f n m

/-- The format in which a reduction rounds each operation (R280, R291); none when a VLF operand takes part and the
destination is an integer, so that nothing is rounded before the destination. -/
def LaneRun.sumFmt (r : LaneRun) : Option Fmt :=
  if r.exactPath then
    match kind r.op.hd with
    | .float f => some f
    | .vlf k => some (fmtVlf k)
    | .dxb _ => some fmtSingle
    | .int _ _ => none
  else some fmtSingle

/-- One floating operation of a reduction. -/
def reduceStep (r : LaneRun) (larger : Bool) (a b : Num) : L Num := do
  let x := if larger then extremum true a b else addNum r.mode a b
  match r.sumFmt with
  | some f => do
    let (p, fl) := f.finish r.mode x
    laneFlag fl
    pure (f.decode p)
  | none => do
    laneFlag x.2
    pure x.1.num

/-- Values of `n` consecutive elements of ha. -/
def readRun (r : LaneRun) (i : Nat) : Nat → L (List Val)
  | 0 => pure []
  | n + 1 => do
    let v ← readVal r r.op.ha i
    let more ← readRun r (i + 1) n
    pure (v :: more)

/-- The values as numbers. -/
def toNums (r : LaneRun) : List Val → L (List Num)
  | [] => pure []
  | v :: vs => do
    let n ← toNum r v
    let more ← toNums r vs
    pure (n :: more)

/-- Elements in one group when the `n` innermost dimensions are reduced (R291). -/
def groupSize (h : HandleBits) (n : Nat) : Nat :=
  if n = 0 || hDims h < n then hCount h else if n = 1 then hLen h 0 else hLen h 0 * hLen h 1

/-- The number of groups (R291). -/
def groupCount (h : HandleBits) (n : Nat) : Nat :=
  if n = 0 || hDims h < n then 1 else if n = 1 then hRows h else hLen h 2 * hLen h 3

/-- One group is reduced and written as element `j` (R83, R291). An integer result wraps once, when it is written (log
83). -/
def reduceGroup (r : LaneRun) (larger : Bool) (j : Nat) : L Unit := do
  let size := groupSize r.op.ha (field r.op.s 1 0)
  let vs ← readRun r (j * size) size
  if (kind r.op.ha).isInt then
    let xs := vs.map Val.asInt
    match xs, kind r.op.hd with
    | [], .int sg b => putWrapped r j (if larger then intLow sg b else 0)
    | x :: rest, _ => putWrapped r j (rest.foldl (fun a b => if larger then max a b else a + b) x)
    | _, _ => pure ()
  else
    let ns ← toNums r vs
    match ns with
    | [] => quietly (putResult r j (if larger then .inf true else .fin false 0 0 false, 0#7))
    | _ => do
      let nan := ns.any Num.isNan
      laneFlag (nvIf ns)
      let t ← treeOf (reduceStep r larger) treeRounds ns
      putResult r j (if nan then .nan else (t.headD (.fin false 0 0)).exact, 0#7)

/-- `vred.sum` and `vred.max` (R291). -/
def laneReduce (r : LaneRun) (larger : Bool) : L Unit :=
  eachPos (reduceGroup r larger) 0 (groupCount r.op.ha (field r.op.s 1 0))

/-! ## Sparsity, softmax and top-k (R292 to R294) -/

/-- The rank of an element among its group: NaN above all, then the magnitude (R292). -/
def outranks (a b : Val) : Bool :=
  match a, b with
  | .int x, .int y => decide (y.natAbs < x.natAbs)
  | .num x, .num y =>
    if x.isNan then !y.isNan
    else if y.isNan then false
    else decide (0 < x.abs.compare y.abs)
  | _, _ => false

/-- How many of a group's elements rank above the one at `p`: greater ones, and equal ones at lower positions. -/
def rankAt (vs : List Val) (p : Nat) : Nat :=
  let v := vs.getD p (.int 0)
  (vs.zipIdx.filter fun w => outranks w.1 v || (!outranks v w.1 && decide (w.2 < p))).length

/-- Group `g` of row `row` is packed (R292). -/
def packGroup (r : LaneRun) (row g : Nat) : L Unit := do
  let e0 := hLen r.op.ha 0
  let vs ← readRun r (row * e0 + 4 * g) 4
  let kept := (upFrom 0 4).filter fun p => decide (rankAt vs p < 2)
  let p0 := kept.getD 0 0
  let p1 := kept.getD 1 0
  putConverted r none (row * (e0 / 2) + 2 * g) (vs.getD p0 (.int 0))
  putConverted r none (row * (e0 / 2) + 2 * g + 1) (vs.getD p1 (.int 0))
  let pos := (spotOf r.op.hb (row * ceilDiv e0 8 + g / 2)).pos
  let old ← laneRead r r.op.hb pos 0 1
  laneWrite r r.op.hb pos 0
    [BitVec.ofNat 8 (putField (natOf old) (4 * (g % 2) + 3) (4 * (g % 2)) (4 * p1 + p0))]

/-- `vsp24` (R292). -/
def laneSparse (r : LaneRun) : L Unit :=
  eachPos (fun row => eachPos (fun g => packGroup r row g) 0 (hLen r.op.ha 0 / 4)) 0 (hRows r.op.ha)

/-- The terms e^(x − m) of a softmax row, rounded to FP32 (R293). -/
def softTerms (r : LaneRun) (m : Num) : List Num → L (List Num)
  | [] => pure []
  | x :: xs => do
    let d := if !x.isNan && !m.isNan && x.compare m == 0 then (Exact.fin false 0 0 false, 0#7) else subNum r.mode x m
    let e := expNum d.1.num
    let (p, fl) := fmtSingle.finish r.mode (e.1, e.2 ||| d.2)
    laneFlag fl
    let more ← softTerms r m xs
    pure (fmtSingle.decode p :: more)

/-- The row's softmax pair (R293). -/
def softRow (r : LaneRun) (row : Nat) : L Unit := do
  let e0 := hLen r.op.ha 0
  let vs ← readRun r (row * e0) e0
  let ns ← toNums r vs
  laneFlag (nvIf ns)
  let top ← treeOf (reduceStep r true) treeRounds ns
  let m := if ns.any Num.isNan then .nan false (2 ^ 22) 23 else top.headD (.inf true)
  putResult r (2 * row) (m.exact, 0#7)
  if m.isNan then writePattern r r.op.hd none (2 * row + 1) fmtSingle.nan
  else do
    let es ← softTerms r m ns
    let sum ← treeOf (reduceStep r false) treeRounds es
    putResult r (2 * row + 1) ((sum.headD (.fin false 0 0)).exact, 0#7)

/-- `vsmx` (R293). -/
def laneSoftmax (r : LaneRun) : L Unit := eachPos (softRow r) 0 (hRows r.op.ha)

/-- The order of TOPK: descending value, −0 below +0, then ascending position (R294). -/
def ranksBefore (a b : Num × Nat) : Bool :=
  let d := a.1.compare b.1
  if d = 0 then
    if a.1.isZero && a.1.neg != b.1.neg then b.1.neg else decide (a.2 < b.2)
  else decide (0 < d)

/-- Insertion into a sorted list of entries. -/
def insertRanked (a : Num × Nat) : List (Num × Nat) → List (Num × Nat)
  | [] => [a]
  | b :: l => if ranksBefore a b then a :: b :: l else b :: insertRanked a l

/-- A TOPK entry: the value in FP32 and the position (R294). -/
def topEntry (x : Nat) (a : Num × Nat) : Nat := (fmtSingle.convert 0 a.1).1 + (x + a.2) % 2 ^ 32 * 2 ^ 32

/-- One row of `vtopk` (R294). -/
def topRow (r : LaneRun) (row : Nat) : L Unit := do
  let e0 := hLen r.op.ha 0
  let n := field r.op.s 3 0
  let vs ← readRun r (row * e0) e0
  let ns ← toNums r vs
  let sorted := (ns.zipIdx.filter fun a => !a.1.isNan).foldl (fun l a => insertRanked a l) []
  let entries := (sorted.take n).map (topEntry (field r.op.s 63 32))
  eachPos (fun j => writeRaw r r.op.hd (row * n + j) (entries.getD j 0xFFFFFFFFFF800000)) 0 n

/-- `vtopk` (R294). -/
def laneTop (r : LaneRun) : L Unit := eachPos (topRow r) 0 (hRows r.op.ha)

/-! ## Gather and scatter (R295) -/

/-- A zero of a format: for VLF +0 with its header (R295). -/
def zeroRaw : Kind → Nat
  | .vlf k => natOf (vlfBytes k 0)
  | _ => 0

/-- `vgather` from position `i` on, with `n` indices out of range before it (R295). -/
def gatherFrom (r : LaneRun) (i n : Nat) : Nat → L Nat
  | 0 => pure n
  | more + 1 => do
    let j ← readVal r r.op.hb i
    if 0 ≤ j.asInt && decide (j.asInt < hCount r.op.ha) then
      let v ← readRaw r r.op.ha j.asInt.toNat
      writeRaw r r.op.hd i v
      gatherFrom r (i + 1) n more
    else
      writeRaw r r.op.hd i (zeroRaw (kind r.op.hd))
      gatherFrom r (i + 1) (n + 1) more

/-- `vscatter` from position `i` on (R295). -/
def scatterFrom (r : LaneRun) (i n : Nat) : Nat → L Nat
  | 0 => pure n
  | more + 1 => do
    let j ← readVal r r.op.hb i
    if 0 ≤ j.asInt && decide (j.asInt < hCount r.op.hd) then
      let v ← readRaw r r.op.ha i
      writeRaw r r.op.hd j.asInt.toNat v
      scatterFrom r (i + 1) n more
    else scatterFrom r (i + 1) (n + 1) more

/-! ## The operation of a queue entry -/

/-- The computation of a lane instruction, with its scalar result. -/
def LaneRun.compute (r : LaneRun) : L Nat :=
  let none' (x : L Unit) : L Nat := do
    x
    pure 0
  match r.op.instr with
  | .vadd _ _ _ _ => none' (lane2 r (fun a b => a + b) addNum)
  | .vsub _ _ _ _ => none' (lane2 r (fun a b => a - b) subNum)
  | .vmul _ _ _ _ => none' (lane2 r (fun a b => a * b) fun _ a b => mulNum a b)
  | .vfma _ _ _ _ => none' (lane3 r)
  | .vmin _ _ _ _ => none' (lane2 r min fun _ a b => extremum false a b)
  | .vmax _ _ _ _ => none' (lane2 r max fun _ a b => extremum true a b)
  | .vabs _ _ _ => none' (laneSign r (fun a => a.natAbs) Num.abs)
  | .vneg _ _ _ => none' (laneSign r (fun a => -a) Num.negate)
  | .vcvt _ _ _ => none' (laneConvert r none)
  | .vcvtKeep _ _ _ _ => none' (laneConvert r (some (field r.op.s 7 0, field r.op.s 15 8)))
  | .vscale _ _ _ _ => none' (laneScale r)
  | .vexp _ _ _ => none' (laneFunction r expNum)
  | .vrcp _ _ _ => none' (laneFunction r (rcpNum 23))
  | .vrsqrt _ _ _ => none' (laneFunction r (rsqrtNum 23))
  | .vtanh _ _ _ => none' (laneFunction r tanhNum)
  | .vcopy _ _ _ => none' (laneCopy r)
  | .vbcast _ _ _ => none' (laneBroadcast r)
  | .viota _ _ _ => none' (laneIota r)
  | .vand _ _ _ _ => none' (laneLogic r (· &&& ·))
  | .vor _ _ _ _ => none' (laneLogic r (· ||| ·))
  | .vxor _ _ _ _ => none' (laneLogic r (· ^^^ ·))
  | .vshl _ _ _ _ => none' (laneShift r true)
  | .vshr _ _ _ _ => none' (laneShift r false)
  | .vcmp _ _ _ _ _ => none' (laneCompare r)
  | .vsel _ _ _ _ _ => none' (laneSelect r)
  | .vcompress _ _ _ _ => compressFrom r 0 0 (hCount r.op.ha)
  | .vexpand _ _ _ _ => expandFrom r 0 0 (hCount r.op.hd)
  | .vredSum _ _ _ _ => none' (laneReduce r false)
  | .vredMax _ _ _ _ => none' (laneReduce r true)
  | .vsp24 _ _ _ _ => none' (laneSparse r)
  | .vsmx _ _ _ => none' (laneSoftmax r)
  | .vtopk _ _ _ _ => none' (laneTop r)
  | .vgather _ _ _ _ _ => gatherFrom r 0 0 (hCount r.op.hb)
  | .vscatter _ _ _ _ _ => scatterFrom r 0 0 (hCount r.op.hb)
  | _ => pure 0

end Sys2Proof.Machine
end

