-- ==== Sys2Proof/Machine/Transfer.lean ====
section
/-! DEFINITION. Loads and stores as operations on bytes (R233 to R238): the bytes of an access, what it waits for, its
data, and where a load's result goes. -/

namespace Sys2Proof.Machine

/-! ## The bytes of an access -/

/-- The ASID of the core in the slot. -/
def myAsid : M Nat := do
  let x ← myCore
  pure x.asid.toNat

/-- The bytes of an access of the context in the slot, every one translated and checked (R235, R236). Where a byte
fails, bytes below it on other nodes may fail first. -/
def accessRefs (acc : Access) (n : Nat) (a : Word) (write : Bool) : M (List ByteRef) := do
  let (k, c) ← here
  let asid ← myAsid
  let (refs, err) ← refBytes k asid acc n a
  match err with
  | none => pure refs
  | some (b, kind) => do
    let _ ← if write then confirmRuns (.ctx k c) asid a (nodeRuns refs) else do
      let (_, e) ← fetchRuns (.ctx k c) asid a (nodeRuns refs)
      pure e
    operandFault b kind write false

/-- The tile offsets of a core among the bytes. -/
def refTiles (k : Nat) (refs : List ByteRef) : List Nat :=
  refs.filterMap fun r =>
    match r with
    | .tile c off => if c = k then some off else none
    | _ => none

/-- The physical addresses among the bytes. -/
def refPas (refs : List ByteRef) : List Nat :=
  refs.filterMap fun r =>
    match r with
    | .hbm pa => some pa
    | _ => none

/-- The bytes of other nodes among the bytes of an access. -/
def refNodes (refs : List ByteRef) : List (Nat × Nat) :=
  refs.filterMap fun r =>
    match r with
    | .node n va => some (n, va)
    | _ => none

/-- A read waits for a lane instruction of the context or a queued `mst` that will write one of its bytes (R277,
R313). -/
def awaitReads (refs : List ByteRef) : M Unit := do
  let (k, _) ← here
  waitUntil (.laneReads (refTiles k refs))
  waitUntil (.globalBytes (refPas refs))
  waitUntil (.nodeBytes (refNodes refs))

/-- A store waits for a lane instruction of the context that will touch, or a queued `mst` that will write, one of its
bytes (R277, R313). -/
def awaitWrites (refs : List ByteRef) : M Unit := do
  let (k, _) ← here
  waitUntil (.laneBytes (refTiles k refs))
  waitUntil (.globalBytes (refPas refs))
  waitUntil (.nodeBytes (refNodes refs))

/-- The data of a read from other nodes, with REMERR for an error value (R426). -/
def remoteData (asid : Nat) (a : Word) (refs : List ByteRef) : M (List (Run × List Byte)) := do
  let (k, c) ← here
  let (got, bad) ← fetchRuns (.ctx k c) asid a (nodeRuns refs)
  if bad then modMyCtx Ctx.remoteError else pure ()
  pure got

/-- What each byte of a checked read comes from, after its waits. -/
def readRefs (a : Word) (refs : List ByteRef) : M (List Source) := do
  let (k, c) ← here
  let asid ← myAsid
  awaitReads refs
  let got ← remoteData asid a refs
  noteOutside k c false refs
  pure (sourcesOf refs got)

/-- `n` bytes read in program order before the instruction retires: an earlier load of one of the bytes has returned
first (R237). -/
def readBytes (n : Nat) (a : Word) : M (List Byte) := do
  let (k, c) ← here
  let refs ← accessRefs .read n a false
  let s ← get
  if (s.ctx k c).olderReads (s.core k).seq (farSources k (sourcesOf refs [])) then pause .loads
  else do
    let srcs ← readRefs a refs
    let s ← get
    readNow k c (s.core k).seq srcs

/-! ## Results of loads -/

/-- The value of a load from its bytes (R165, R233). -/
def LoadForm.value (f : LoadForm) (bs : List Byte) : BitVec 256 :=
  match f with
  | .signed => (BitVec.ofInt 64 (signedOf (8 * bs.length) (natOf bs))).setWidth 256
  | .unsigned => BitVec.ofNat 256 (natOf bs)
  | .handle => BitVec.ofNat 256 (natOf bs)

/-- A result has arrived: it fills the window or the load-data entry of its number, if there still is one (R100,
R119). -/
def Ctx.fill (t : Ctx) (id : Nat) (v : BitVec 256) : Ctx :=
  { t with
    windows := t.windows.map fun w => if w.id = id then { w with result := some v } else w
    ldq := t.ldq.map fun e => if e.id = id then { e with value := some (v.setWidth 64) } else e }

/-- Where the result of a load or atomic goes: nowhere for s0 (R116), the load-data queue for s60 (R119), a push for s61
(R120), else a register. -/
structure Dest where
  file : RegFile
  reg : Nat
  la : Nat

/-- The result opens no window (R101). -/
def Dest.windowless (d : Dest) : Bool := d.file = .scalar && (d.reg = 0 || d.reg = 60)

/-- Room for the result: a window (R101). The push of a result to s61 takes place when its window closes (R120). -/
def makeRoomFor (d : Dest) : M Unit := do
  if d.windowless then pure () else makeRoom

/-- The load-data queue has room for the result (R119). -/
def needEntry (d : Dest) : M Unit := if d.file = .scalar && d.reg = 60 then waitUntil .ldqRoom else pure ()

/-- The instruction retires; its result, known or awaited, is number `id` (R100, R119). -/
def retireResult (d : Dest) (id : Nat) (result : Option (BitVec 256)) : M Unit := do
  retire
  if d.file = .scalar && d.reg = 0 then pure ()
  else if d.file = .scalar && d.reg = 60 then
    modMyCtx fun t => { t with ldq := t.ldq ++ [{ id, value := result.map (·.setWidth 64) }] }
  else modMyCtx fun t => { t with windows := t.windows ++ [{ file := d.file, reg := d.reg, count := d.la, result, id }] }

/-- Every source is the core's own tile or is known, so that the data come at once. -/
def atHand (k : Nat) (srcs : List Source) : Bool :=
  srcs.all fun b =>
    match b with
    | .tile c _ => c == k
    | .hbm _ => false
    | .known _ => true

/-- A load of `n` bytes at an address (R233, R236): data of the own tile are read at once; others arrive later. An
address that faults does so before the wait for room in s60 (log 104). -/
def loadInto (d : Dest) (form : LoadForm) (nt : Bool) (n : Nat) (a : Word) : M Unit := do
  let (k, c) ← here
  let asid ← myAsid
  let refs ← accessRefs .read n a false
  needEntry d
  let srcs ← readRefs a refs
  let id ← freshId k c
  if atHand k srcs then
    let bs ← readNow k c 0 srcs
    retireResult d id (some (form.value bs))
  else
    let seq ← freshSeq k
    retireResult d id none
    modMyCtx fun t => { t with pending := t.pending ++ [{ id, bytes := srcs, form, seq, nt, asid, va := a.toNat }] }

/-! ## Stores -/

/-- The number of pages that `n` bytes from a virtual address on lie in. -/
def pagesOf (a : Word) (n : Nat) : Nat := (a.toNat + n - 1) / 4096 + 1 - a.toNat / 4096

/-- The bytes of an access with the data they take. -/
def pairBytes (refs : List ByteRef) (data : List Byte) : List (ByteRef × Byte) := refs.zip data

/-- The virtual page of each physical page that the bytes of an access at `a` lie in (R255). -/
def pageNames (refs : List ByteRef) (a : Word) : Tab Nat :=
  refs.zipIdx.foldl (fun m r =>
    match r.1 with
    | .hbm pa => Tab.put m (pa / 4096) ((a.toNat + r.2) / 4096)
    | _ => m) []

/-- The physical addresses that an access's bytes take data at. -/
def globalBytes (refs : List ByteRef) (data : List Byte) : List (Nat × Byte) :=
  (pairBytes refs data).filterMap fun p =>
    match p.1 with
    | .hbm pa => some (pa, p.2)
    | _ => none

/-- Local bytes of a store at `a`: tile bytes are written, global ones enter the store path (R252), behind buffered lines
that hold one of them (R237). -/
def State.storeLocal (s : State) (k c asid : Nat) (a : Word) (refs : List ByteRef) (data : List Byte) : State :=
  let s := (pairBytes refs data).foldl (fun s p =>
    match p.1 with
    | .tile _ off => s.modCore k fun x => x.writeTile off p.2
    | _ => s) s
  let global := globalBytes refs data
  if global.isEmpty then s
  else
    let s := s.flushPas k (global.map (·.1))
    s.modCore k fun x => { x with
      seq := x.seq + 1
      stores := x.stores ++ [{ ctx := c, seq := x.seq, bytes := global, asid, pages := pageNames refs a }] }

/-- The data of a store on other nodes: every page is confirmed before any byte is sent when there is more than one
(R235). -/
def storeRemote (a : Word) (refs : List ByteRef) (data : List Byte) : M Unit := do
  let (k, c) ← here
  let asid ← myAsid
  let runs := nodeRuns refs
  if runs.isEmpty then pure ()
  else
    let e ← if pagesOf a refs.length = 1 then pure false else confirmRuns (.ctx k c) asid a runs
    let f ← storeRuns (.ctx k c) asid a data runs
    if e || f then modMyCtx Ctx.remoteError else pure ()

/-- Runs of bytes on other nodes leave as stores that nothing waits for. -/
def State.postRuns (s : State) (o : Owner) (d asid : Nat) (data : List Byte) (runs : List Run) : State :=
  runs.foldl (fun s r =>
    s.askNode d o { node := r.node, asid, va := r.va, ask := .store ((data.drop r.start).take r.len) }) s

/-- A byte of the access lies in global memory, on this node or another. -/
def ByteRef.global (r : ByteRef) : Bool :=
  match r with
  | .hbm _ => true
  | .node _ _ => true
  | _ => false

/-- A byte of the access lies beyond the core: in global memory, on another node, or in a peer's tile. -/
def ByteRef.far (k : Nat) (r : ByteRef) : Bool :=
  match r with
  | .tile c _ => c != k
  | .outside _ => false
  | .hbm _ => true
  | .node _ _ => true

/-- A store of bytes at an address (R234 to R236). -/
def storeBytes (a : Word) (data : List Byte) : M Unit := do
  let (k, c) ← here
  let asid ← myAsid
  let refs ← accessRefs .write data.length a true
  awaitWrites refs
  storeRemote a refs data
  noteOutside k c true refs
  modify fun s => s.storeLocal k c asid a refs data

/-! ## Non-temporal stores (R238) -/

/-- The line of a buffered byte: a local line, or a virtual line of another node under an ASID. -/
def NtLine.takes (l : NtLine) (node : Option Nat) (asid va pa : Nat) : Bool :=
  l.node == node && (if node.isNone then l.pa == pa / 64 else l.asid == asid && l.va / 64 == va / 64)

/-- One byte enters the non-temporal buffer. A line that holds another context's byte there, or one that an older load
of the context is still to read, goes first, so that each context finds its own bytes (R237); and the oldest line goes
when the buffer needs room. -/
def State.bufferByte (s : State) (k : Nat) (m : Mark) (node : Option Nat) (pa : Nat) (b : Byte) : State :=
  let same := fun (l : NtLine) => l.takes node m.asid m.va pa
  let clash := fun (l : NtLine) => same l &&
    match Tab.find l.marks (m.va % 64) with
    | some o => o.ctx != m.ctx || (node.isNone && ((s.core k).ctx m.ctx).olderReads m.seq [.hbm pa])
    | none => false
  let s := s.sendLines k clash
  let x := s.core k
  if x.nt.any same then
    let add := fun (l : NtLine) =>
      if same l then { l with bytes := Tab.put l.bytes (m.va % 64) b, marks := Tab.put l.marks (m.va % 64) m } else l
    s.setCore k { x with nt := x.nt.map add }
  else
    let s := match x.nt with
      | l :: _ => if x.nt.length < 8 then s else s.sendLine k l
      | [] => s
    s.modCore k fun x => { x with
      seq := x.seq + 1
      nt := x.nt ++ [{ id := x.seq, node, asid := m.asid, va := m.va, pa := pa / 64, bytes := [(m.va % 64, b)]
                       marks := [(m.va % 64, m)] }] }

/-- `st.nt` (R238): tile bytes are written at once, global ones enter the buffer. -/
def storeNonTemporal (a : Word) (data : List Byte) : M Unit := do
  let (k, c) ← here
  let asid ← myAsid
  let refs ← accessRefs .write data.length a true
  awaitWrites refs
  let e ← confirmRuns (.ctx k c) asid a (nodeRuns refs)
  if e then modMyCtx Ctx.remoteError else pure ()
  noteOutside k c true refs
  let seq ← freshSeq k
  modify fun s => ((pairBytes refs data).zipIdx).foldl (fun s q =>
    let m : Mark := { ctx := c, seq, asid, va := a.toNat + q.2 }
    match q.1.1 with
    | .tile _ off => s.modCore k fun x => x.writeTile off q.1.2
    | .outside _ => s
    | .hbm pa => s.bufferByte k m none pa q.1.2
    | .node n _ => s.bufferByte k m (some n) 0 q.1.2) s

end Sys2Proof.Machine
end

