-- ==== Sys2Proof/Machine/Lanes.lean ====
section
/-! DEFINITION. Issue of the lane instructions (R271 to R298), and the steps in which the vector unit executes and
completes them (R275 to R278, R298). -/

namespace Sys2Proof.Machine

/-! ## Formats that instructions accept (R56, R280) -/

/-- Arithmetic: every format but the 64-bit ones. -/
def arithKind (k : Kind) : Bool := !k.wide

/-- Special functions: no VLF. -/
def functionKind (k : Kind) : Bool := !k.wide && !k.isVlf

/-- The scaled operand of `vscale`: no integer (R284). -/
def scaleKind (k : Kind) : Bool := !k.wide && !k.isInt

/-- Selection and movement: no DXB. -/
def moveKind (k : Kind) : Bool := !k.wide && !k.isDxb

/-- Every format. -/
def anyKind (_ : Kind) : Bool := true

/-- An integer format of any width. -/
def intKind (k : Kind) : Bool := k.isInt

/-- An integer format of up to 32 bits. -/
def narrowInt (k : Kind) : Bool := k.isInt && !k.wide

/-- FP16, BF16, FP32 and DXB (R293, R294). -/
def rowKind (k : Kind) : Bool :=
  match k with
  | .float f => f != fmtDouble
  | .dxb _ => true
  | _ => false

/-- FP16, BF16, FP32 and integers of 8 bits or more (R292). -/
def sparseKind (k : Kind) : Bool :=
  match k with
  | .float f => f != fmtDouble
  | .int _ b => b != 4
  | _ => false

/-- Equal formats, and equal VLEN for VLF. -/
def sameFormat (a b : HandleBits) : Bool := hFmt a == hFmt b && (hFmt a != 0x20 || hVlen a == hVlen b)

/-! ## Operand checks (R163, R271, R274, R296) -/

/-- An operand as an instruction uses it: the handle, whether it is the destination hd, and the accepted formats. -/
structure LaneUse where
  h : HandleBits
  out : Bool
  ok : Kind → Bool

/-- A channel descriptor that suits its use (R296). -/
def State.channelOk (s : State) (h : HandleBits) (out : Bool) : Bool :=
  hfield h 47 44 == 0 && chanOut h == out &&
  if out then chanOff h % 8 == 0 && s.destinationOk (chanDest h) else hfield h 38 20 == 0

/-- The content of an operand (R163, R280, R296). -/
def LaneUse.contentOk (u : LaneUse) (s : State) : Bool :=
  Machine.contentOk u.h && u.ok (kind u.h) && (!hChan u.h || s.channelOk u.h u.out)

/-- Every operand's content, and then its location (R271), is legal; the fault reports a BASE that is no tile's (R180). -/
def checkUses (uses : List LaneUse) : M Unit := do
  let s ← get
  if uses.all fun u => u.contentOk s then pure () else handleFault
  match uses.find? fun u => !hChan u.h && !hTile u.h with
  | some u => valueFault (hAddr u.h)
  | none => pure ()

/-- A destination is not in a peer tile (R221, R271); the tile of a fused-off site is out of range (R219). -/
def checkOutput (h : HandleBits) : M Unit := do
  let (k, _) ← here
  let s ← get
  if !hChan h && hPeer h && peerOf k (hfield h 40 36) ≠ k && s.enabled (peerOf k (hfield h 40 36)) then
    let off := (leastNat (operandBytes h)).getD (hfield h 19 0)
    operandFault (word (0xF100000000000000 + hfield h 40 36 * 2 ^ 48 + off)) 1 true false
  else pure ()

/-- The count is `n`, or 1 and broadcast (R274). -/
def countFits (h : HandleBits) (n : Nat) : Bool := hCount h == n || hCount h == 1

/-- The bytes of a channel operand of an instruction: a copy of DXB elements moves whole blocks (R286, R297, log 82). -/
def laneStream (i : Instr) (h : HandleBits) : Nat :=
  match i with
  | .vcopy _ _ _ => if (kind h).isDxb then ceilDiv (hRows h * rowBlocks h * (kind h).size) 8 * 8 else streamBytes h
  | _ => streamBytes h

/-- Bytes that inbound operands take from each channel (R297). -/
def channelNeeds (i : Instr) (srcs : List HandleBits) : Tab Nat :=
  srcs.foldl (fun m h => if hChan h then Tab.put m (chanOf h) (Tab.get 0 m (chanOf h) + laneStream i h) else m) []

/-! ## Entering the queue (R276, R297) -/

/-- What an instruction enters: its computation, the handles it reads, and the inbound operands. -/
structure LaneEntry where
  instr : Instr
  hd : HandleBits
  ha : HandleBits := 0
  hb : HandleBits := 0
  mask : HandleBits := 0
  s : Word := 0
  srcs : List HandleBits

/-- The instruction enters the lane queue, and its channels' counts fall; `winId` is the number of its scalar result. -/
def enterLane (e : LaneEntry) (winId : Option Nat) : M Unit := do
  let (k, c) ← here
  waitUntil .laneRoom
  let needs := channelNeeds e.instr e.srcs
  waitUntil (.channel needs)
  let seq ← freshSeq k
  modMyCore fun x =>
    let t := x.ctx c
    { x with
      cb := needs.foldl (fun m p => Tab.put m p.1 (Tab.get 0 m p.1 - BitVec.ofNat 32 p.2)) x.cb
      lanes := x.lanes ++ [{ ctx := c, instr := e.instr, hd := e.hd, ha := e.ha, hb := e.hb, mask := e.mask, s := e.s,
                             rmode := t.rmode, lid := t.sendLid, hi := t.hi, asid := x.asid.toNat, winId, seq }] }

/-- The instruction enters the queue and retires. -/
def issueLane (e : LaneEntry) : M Unit := do
  checkOutput e.hd
  enterLane e none
  retire

/-- The instruction enters the queue, retires, and opens a window on its scalar result (R278, R100). -/
def issueLaneCount (e : LaneEntry) (rs : BitVec 6) (la : BitVec 4) : M Unit := do
  checkOutput e.hd
  let (k, c) ← here
  let id ← freshId k c
  enterLane e (some id)
  retireResult { file := .scalar, reg := rs.toNat, la := la.toNat } id none

/-- Handle register `n` of the context. -/
def handleAt (n : Nat) : M HandleBits := do
  let t ← myCtx
  pure (t.handle n)

/-- Element 0 of a handle as an operand of one element (R91). -/
def firstElement (h : HandleBits) : HandleBits := hPut (hPut h 55 54 0) 79 64 1

/-! ## Shapes of instructions -/

/-- Two sources, elementwise (R280, R282, R284). -/
def laneBinary (i : Instr) (okA okB : Kind → Bool) (hd ha hb : HandleBits) (srcs : List HandleBits) : M Unit := do
  checkUses [⟨hd, true, arithKind⟩, ⟨ha, false, okA⟩, ⟨hb, false, okB⟩]
  require (countFits ha (hCount hd) && countFits hb (hCount hd))
  issueLane { instr := i, hd, ha, hb, srcs }

/-- The 32-bit form of a binary operation. -/
def laneForm (i : Instr) (okA : Kind → Bool) (hd ha hb : BitVec 4) : M Unit := do
  let d ← handleAt hd.toNat
  let a ← handleAt ha.toNat
  let b ← handleAt hb.toNat
  laneBinary i okA arithKind d a b [a, b]

/-- Variant 0b10: hd op element 0 of ha (R91); an empty ha has no element 0 (log 18). -/
def laneFirst (i : Instr) (okA : Kind → Bool) (hd ha : BitVec 4) : M Unit := do
  let d ← handleAt hd.toNat
  let a ← handleAt ha.toNat
  checkUses [⟨d, true, arithKind⟩, ⟨d, false, okA⟩, ⟨a, false, arithKind⟩]
  require (hCount a != 0)
  laneBinary i okA arithKind d d (firstElement a) [a]

/-- One source, elementwise (R282, R283). -/
def laneUnary (i : Instr) (ok : Kind → Bool) (hd ha : BitVec 4) : M Unit := do
  let d ← handleAt hd.toNat
  let a ← handleAt ha.toNat
  checkUses [⟨d, true, ok⟩, ⟨a, false, ok⟩]
  require (countFits a (hCount d))
  issueLane { instr := i, hd := d, ha := a, srcs := [a] }

/-- `vcvt` (R285). -/
def laneVcvt (hd ha : BitVec 4) : M Unit := do
  let d ← handleAt hd.toNat
  let a ← handleAt ha.toNat
  checkUses [⟨d, true, anyKind⟩, ⟨a, false, anyKind⟩]
  require (hCount a == hCount d)
  issueLane { instr := .vcvt 0 0 0, hd := d, ha := a, srcs := [a] }

/-- `vcopy` (R286). -/
def laneVcopy (hd ha : BitVec 4) : M Unit := do
  let d ← handleAt hd.toNat
  let a ← handleAt ha.toNat
  checkUses [⟨d, true, anyKind⟩, ⟨a, false, anyKind⟩]
  require (sameFormat d a && hCount a == hCount d && (!(kind a).isDxb || hLen a 0 == hLen d 0))
  issueLane { instr := .vcopy 0 0 0, hd := d, ha := a, srcs := [a] }

/-- `vbcast` (R286); an empty ha has no element 0 (log 18). -/
def laneVbcast (hd ha : BitVec 4) : M Unit := do
  let d ← handleAt hd.toNat
  let a ← handleAt ha.toNat
  checkUses [⟨d, true, moveKind⟩, ⟨a, false, moveKind⟩]
  require (sameFormat d a && (hCount a != 0 || hCount d == 0))
  issueLane { instr := .vbcast 0 0 0, hd := d, ha := a, srcs := [a] }

/-- A reduction of `r` dimensions (R291). -/
def laneReduction (larger : Bool) (hd ha : BitVec 4) (r : Word) : M Unit := do
  let d ← handleAt hd.toNat
  let a ← handleAt ha.toNat
  checkUses [⟨d, true, arithKind⟩, ⟨a, false, arithKind⟩]
  require (r.toNat < 3 && hCount d == groupCount a (field r 1 0) && (!(kind a).isInt || (kind d).isInt))
  issueLane { instr := if larger then .vredMax 0 0 0 0 else .vredSum 0 0 0 0, hd := d, ha := a, s := r, srcs := [a] }

/-- `vand`, `vor` and `vxor` (R287). -/
def laneLogical (i : Instr) (hd ha hb : BitVec 4) : M Unit := do
  let d ← handleAt hd.toNat
  let a ← handleAt ha.toNat
  let b ← handleAt hb.toNat
  checkUses [⟨d, true, intKind⟩, ⟨a, false, intKind⟩, ⟨b, false, intKind⟩]
  require (sameFormat d a && sameFormat d b && countFits a (hCount d) && countFits b (hCount d))
  issueLane { instr := i, hd := d, ha := a, hb := b, srcs := [a, b] }

/-- `vshl` and `vshr` (R287). -/
def laneShifts (i : Instr) (hd ha hb : BitVec 4) : M Unit := do
  let d ← handleAt hd.toNat
  let a ← handleAt ha.toNat
  let b ← handleAt hb.toNat
  checkUses [⟨d, true, intKind⟩, ⟨a, false, intKind⟩, ⟨b, false, intKind⟩]
  require (sameFormat d a && countFits a (hCount d) && countFits b (hCount d))
  issueLane { instr := i, hd := d, ha := a, hb := b, srcs := [a, b] }

/-- The number of positions that `vcmp` compares (R288). -/
def compareCount (a b : HandleBits) : Nat := if hCount a = 1 then hCount b else hCount a

/-- `vcmp` (R288). -/
def laneVcmp (hd ha hb : BitVec 4) (c : Word) : M Unit := do
  let d ← handleAt hd.toNat
  let a ← handleAt ha.toNat
  let b ← handleAt hb.toNat
  if bit c 3 then
    checkUses [⟨d, true, narrowInt⟩, ⟨a, false, arithKind⟩]
    require (c.toNat < 16 && field c 2 0 ≤ 4 && hb == 0#4 && hCount d == hCount a)
    issueLane { instr := .vcmp 0 0 0 0 0, hd := d, ha := a, s := c, srcs := [a] }
  else
    checkUses [⟨d, true, narrowInt⟩, ⟨a, false, arithKind⟩, ⟨b, false, arithKind⟩]
    let n := compareCount a b
    require (c.toNat < 16 && field c 2 0 ≤ 4 && countFits a n && countFits b n && hCount d == n &&
      (kind a).isInt == (kind b).isInt)
    issueLane { instr := .vcmp 0 0 0 0 0, hd := d, ha := a, hb := b, s := c, srcs := [a, b] }

/-- `vsel` (R289). -/
def laneVsel (hd ha hb : BitVec 4) (m : Word) : M Unit := do
  let d ← handleAt hd.toNat
  let a ← handleAt ha.toNat
  let b ← handleAt hb.toNat
  require (m.toNat < 16)
  let mask ← handleAt m.toNat
  checkUses [⟨d, true, moveKind⟩, ⟨a, false, moveKind⟩, ⟨b, false, moveKind⟩, ⟨mask, false, intKind⟩]
  require (sameFormat d a && sameFormat d b && hCount mask == hCount d && countFits a (hCount d) &&
    countFits b (hCount d))
  issueLane { instr := .vsel 0 0 0 0 0, hd := d, ha := a, hb := b, mask, srcs := [a, b, mask] }

/-- `vcompress` and `vexpand` (R290). -/
def laneSqueeze (expand : Bool) (hd ha : BitVec 4) (rs : BitVec 6) (la : BitVec 4) : M Unit := do
  makeRoomFor { file := .scalar, reg := rs.toNat, la := la.toNat }
  let m ← readS rs
  let d ← handleAt hd.toNat
  let a ← handleAt ha.toNat
  require (m.toNat < 16)
  let mask ← handleAt m.toNat
  checkUses [⟨d, true, moveKind⟩, ⟨a, false, moveKind⟩, ⟨mask, false, intKind⟩]
  require (sameFormat d a && hCount mask == (if expand then hCount d else hCount a))
  issueLaneCount { instr := if expand then .vexpand 0 0 0 0 else .vcompress 0 0 0 0, hd := d, ha := a, mask,
                   srcs := [a, mask] } rs la

/-- `vgather` and `vscatter` (R295). -/
def laneIndexed (scatter : Bool) (hd ha hb : BitVec 4) (rs : BitVec 6) (la : BitVec 4) : M Unit := do
  makeRoomFor { file := .scalar, reg := rs.toNat, la := la.toNat }
  let d ← handleAt hd.toNat
  let a ← handleAt ha.toNat
  let b ← handleAt hb.toNat
  checkUses [⟨d, true, moveKind⟩, ⟨a, false, moveKind⟩, ⟨b, false, narrowInt⟩]
  require (sameFormat d a && hCount b == (if scatter then hCount a else hCount d))
  issueLaneCount { instr := if scatter then .vscatter 0 0 0 0 0 else .vgather 0 0 0 0 0, hd := d, ha := a, hb := b,
                   srcs := [a, b] } rs la

/-! ## The instructions -/

/-- `vadd` (R282). -/
def execVadd (hd ha hb : BitVec 4) (_la : BitVec 4) (s : State) : Host.Outcome State Fault Refusal :=
  runM (laneForm (.vadd 0 0 0 0) arithKind hd ha hb) s

/-- `vadd hd, ha`: hd op ha (R91, R282). -/
def execVadd16 (hd ha : BitVec 4) (s : State) : Host.Outcome State Fault Refusal :=
  runM (laneForm (.vadd 0 0 0 0) arithKind hd hd ha) s

/-- `vadd.r`: ha op hd (R91, R282). -/
def execVaddR (hd ha : BitVec 4) (s : State) : Host.Outcome State Fault Refusal :=
  runM (laneForm (.vadd 0 0 0 0) arithKind hd ha hd) s

/-- `vadd.b`: hd op element 0 of ha (R91, R282). -/
def execVaddB (hd ha : BitVec 4) (s : State) : Host.Outcome State Fault Refusal :=
  runM (laneFirst (.vadd 0 0 0 0) arithKind hd ha) s

/-- `vsub` (R282). -/
def execVsub (hd ha hb : BitVec 4) (_la : BitVec 4) (s : State) : Host.Outcome State Fault Refusal :=
  runM (laneForm (.vsub 0 0 0 0) arithKind hd ha hb) s

/-- `vsub hd, ha`: hd op ha (R91, R282). -/
def execVsub16 (hd ha : BitVec 4) (s : State) : Host.Outcome State Fault Refusal :=
  runM (laneForm (.vsub 0 0 0 0) arithKind hd hd ha) s

/-- `vsub.r`: ha op hd (R91, R282). -/
def execVsubR (hd ha : BitVec 4) (s : State) : Host.Outcome State Fault Refusal :=
  runM (laneForm (.vsub 0 0 0 0) arithKind hd ha hd) s

/-- `vsub.b`: hd op element 0 of ha (R91, R282). -/
def execVsubB (hd ha : BitVec 4) (s : State) : Host.Outcome State Fault Refusal :=
  runM (laneFirst (.vsub 0 0 0 0) arithKind hd ha) s

/-- `vmul` (R282). -/
def execVmul (hd ha hb : BitVec 4) (_la : BitVec 4) (s : State) : Host.Outcome State Fault Refusal :=
  runM (laneForm (.vmul 0 0 0 0) arithKind hd ha hb) s

/-- `vmul hd, ha`: hd op ha (R91, R282). -/
def execVmul16 (hd ha : BitVec 4) (s : State) : Host.Outcome State Fault Refusal :=
  runM (laneForm (.vmul 0 0 0 0) arithKind hd hd ha) s

/-- `vmul.r`: ha op hd (R91, R282). -/
def execVmulR (hd ha : BitVec 4) (s : State) : Host.Outcome State Fault Refusal :=
  runM (laneForm (.vmul 0 0 0 0) arithKind hd ha hd) s

/-- `vmul.b`: hd op element 0 of ha (R91, R282). -/
def execVmulB (hd ha : BitVec 4) (s : State) : Host.Outcome State Fault Refusal :=
  runM (laneFirst (.vmul 0 0 0 0) arithKind hd ha) s

/-- `vmin` (R282). -/
def execVmin (hd ha hb : BitVec 4) (_la : BitVec 4) (s : State) : Host.Outcome State Fault Refusal :=
  runM (laneForm (.vmin 0 0 0 0) arithKind hd ha hb) s

/-- `vmin hd, ha`: hd op ha (R91, R282). -/
def execVmin16 (hd ha : BitVec 4) (s : State) : Host.Outcome State Fault Refusal :=
  runM (laneForm (.vmin 0 0 0 0) arithKind hd hd ha) s

/-- `vmin.r`: ha op hd (R91, R282). -/
def execVminR (hd ha : BitVec 4) (s : State) : Host.Outcome State Fault Refusal :=
  runM (laneForm (.vmin 0 0 0 0) arithKind hd ha hd) s

/-- `vmin.b`: hd op element 0 of ha (R91, R282). -/
def execVminB (hd ha : BitVec 4) (s : State) : Host.Outcome State Fault Refusal :=
  runM (laneFirst (.vmin 0 0 0 0) arithKind hd ha) s

/-- `vmax` (R282). -/
def execVmax (hd ha hb : BitVec 4) (_la : BitVec 4) (s : State) : Host.Outcome State Fault Refusal :=
  runM (laneForm (.vmax 0 0 0 0) arithKind hd ha hb) s

/-- `vmax hd, ha`: hd op ha (R91, R282). -/
def execVmax16 (hd ha : BitVec 4) (s : State) : Host.Outcome State Fault Refusal :=
  runM (laneForm (.vmax 0 0 0 0) arithKind hd hd ha) s

/-- `vmax.r`: ha op hd (R91, R282). -/
def execVmaxR (hd ha : BitVec 4) (s : State) : Host.Outcome State Fault Refusal :=
  runM (laneForm (.vmax 0 0 0 0) arithKind hd ha hd) s

/-- `vmax.b`: hd op element 0 of ha (R91, R282). -/
def execVmaxB (hd ha : BitVec 4) (s : State) : Host.Outcome State Fault Refusal :=
  runM (laneFirst (.vmax 0 0 0 0) arithKind hd ha) s

/-- `vscale` (R284). -/
def execVscale (hd ha hb : BitVec 4) (_la : BitVec 4) (s : State) : Host.Outcome State Fault Refusal :=
  runM (laneForm (.vscale 0 0 0 0) scaleKind hd ha hb) s

/-- `vscale hd, ha`: hd op ha (R91, R284). -/
def execVscale16 (hd ha : BitVec 4) (s : State) : Host.Outcome State Fault Refusal :=
  runM (laneForm (.vscale 0 0 0 0) scaleKind hd hd ha) s

/-- `vscale.r`: ha op hd (R91, R284). -/
def execVscaleR (hd ha : BitVec 4) (s : State) : Host.Outcome State Fault Refusal :=
  runM (laneForm (.vscale 0 0 0 0) scaleKind hd ha hd) s

/-- `vscale.b`: hd op element 0 of ha (R91, R284). -/
def execVscaleB (hd ha : BitVec 4) (s : State) : Host.Outcome State Fault Refusal :=
  runM (laneFirst (.vscale 0 0 0 0) scaleKind hd ha) s

/-- `vfma` (R282). -/
def execVfma (hd ha hb : BitVec 4) (_la : BitVec 4) (s : State) : Host.Outcome State Fault Refusal :=
  runM (laneForm (.vfma 0 0 0 0) arithKind hd ha hb) s

/-- `vfma hd, ha`: squares (R91, R282). -/
def execVfma16 (hd ha : BitVec 4) (s : State) : Host.Outcome State Fault Refusal :=
  runM (laneForm (.vfma 0 0 0 0) arithKind hd ha ha) s

/-- `vabs` (R282). -/
def execVabs (hd ha : BitVec 4) (_la : BitVec 4) (s : State) : Host.Outcome State Fault Refusal :=
  runM (laneUnary (.vabs 0 0 0) arithKind hd ha) s

/-- `vabs`, 16-bit form (R91, R282). -/
def execVabs16 (hd ha : BitVec 4) (s : State) : Host.Outcome State Fault Refusal :=
  runM (laneUnary (.vabs 0 0 0) arithKind hd ha) s

/-- `vneg` (R282). -/
def execVneg (hd ha : BitVec 4) (_la : BitVec 4) (s : State) : Host.Outcome State Fault Refusal :=
  runM (laneUnary (.vneg 0 0 0) arithKind hd ha) s

/-- `vneg`, 16-bit form (R91, R282). -/
def execVneg16 (hd ha : BitVec 4) (s : State) : Host.Outcome State Fault Refusal :=
  runM (laneUnary (.vneg 0 0 0) arithKind hd ha) s

/-- `vexp` (R283). -/
def execVexp (hd ha : BitVec 4) (_la : BitVec 4) (s : State) : Host.Outcome State Fault Refusal :=
  runM (laneUnary (.vexp 0 0 0) functionKind hd ha) s

/-- `vexp`, 16-bit form (R91, R283). -/
def execVexp16 (hd ha : BitVec 4) (s : State) : Host.Outcome State Fault Refusal :=
  runM (laneUnary (.vexp 0 0 0) functionKind hd ha) s

/-- `vrcp` (R283). -/
def execVrcp (hd ha : BitVec 4) (_la : BitVec 4) (s : State) : Host.Outcome State Fault Refusal :=
  runM (laneUnary (.vrcp 0 0 0) functionKind hd ha) s

/-- `vrcp`, 16-bit form (R91, R283). -/
def execVrcp16 (hd ha : BitVec 4) (s : State) : Host.Outcome State Fault Refusal :=
  runM (laneUnary (.vrcp 0 0 0) functionKind hd ha) s

/-- `vrsqrt` (R283). -/
def execVrsqrt (hd ha : BitVec 4) (_la : BitVec 4) (s : State) : Host.Outcome State Fault Refusal :=
  runM (laneUnary (.vrsqrt 0 0 0) functionKind hd ha) s

/-- `vtanh` (R283). -/
def execVtanh (hd ha : BitVec 4) (_la : BitVec 4) (s : State) : Host.Outcome State Fault Refusal :=
  runM (laneUnary (.vtanh 0 0 0) functionKind hd ha) s

/-- `vcvt` (R285). -/
def execVcvt (hd ha : BitVec 4) (_la : BitVec 4) (s : State) : Host.Outcome State Fault Refusal :=
  runM (laneVcvt hd ha) s

/-- `vcvt`, 16-bit form (R91, R285). -/
def execVcvt16 (hd ha : BitVec 4) (s : State) : Host.Outcome State Fault Refusal :=
  runM (laneVcvt hd ha) s

/-- `vcopy` (R286). -/
def execVcopy (hd ha : BitVec 4) (_la : BitVec 4) (s : State) : Host.Outcome State Fault Refusal :=
  runM (laneVcopy hd ha) s

/-- `vcopy`, 16-bit form (R91, R286). -/
def execVcopy16 (hd ha : BitVec 4) (s : State) : Host.Outcome State Fault Refusal :=
  runM (laneVcopy hd ha) s

/-- `vbcast` (R286). -/
def execVbcast (hd ha : BitVec 4) (_la : BitVec 4) (s : State) : Host.Outcome State Fault Refusal :=
  runM (laneVbcast hd ha) s

/-- `vbcast`, 16-bit form (R91, R286). -/
def execVbcast16 (hd ha : BitVec 4) (s : State) : Host.Outcome State Fault Refusal :=
  runM (laneVbcast hd ha) s

/-- `vred.sum` (R291). -/
def execVredSum (hd ha : BitVec 4) (rs : BitVec 6) (_la : BitVec 4) (s : State) : Host.Outcome State Fault Refusal :=
  runM (do
    let r ← readS rs
    laneReduction false hd ha r) s

/-- `vred.sum` of all dimensions (R91, R291). -/
def execVredSum16 (hd ha : BitVec 4) (s : State) : Host.Outcome State Fault Refusal :=
  runM (laneReduction false hd ha 0) s

/-- `vred.sum` of the innermost dimension (R91, R291). -/
def execVredSumD1 (hd ha : BitVec 4) (s : State) : Host.Outcome State Fault Refusal :=
  runM (laneReduction false hd ha 1) s

/-- `vred.sum` of the two innermost dimensions (R91, R291). -/
def execVredSumD2 (hd ha : BitVec 4) (s : State) : Host.Outcome State Fault Refusal :=
  runM (laneReduction false hd ha 2) s

/-- `vred.max` (R291). -/
def execVredMax (hd ha : BitVec 4) (rs : BitVec 6) (_la : BitVec 4) (s : State) : Host.Outcome State Fault Refusal :=
  runM (do
    let r ← readS rs
    laneReduction true hd ha r) s

/-- `vred.max` of all dimensions (R91, R291). -/
def execVredMax16 (hd ha : BitVec 4) (s : State) : Host.Outcome State Fault Refusal :=
  runM (laneReduction true hd ha 0) s

/-- `vred.max` of the innermost dimension (R91, R291). -/
def execVredMaxD1 (hd ha : BitVec 4) (s : State) : Host.Outcome State Fault Refusal :=
  runM (laneReduction true hd ha 1) s

/-- `vred.max` of the two innermost dimensions (R91, R291). -/
def execVredMaxD2 (hd ha : BitVec 4) (s : State) : Host.Outcome State Fault Refusal :=
  runM (laneReduction true hd ha 2) s

/-- `vand` (R287). -/
def execVand (hd ha hb : BitVec 4) (_la : BitVec 4) (s : State) : Host.Outcome State Fault Refusal :=
  runM (laneLogical (.vand 0 0 0 0) hd ha hb) s

/-- `vor` (R287). -/
def execVor (hd ha hb : BitVec 4) (_la : BitVec 4) (s : State) : Host.Outcome State Fault Refusal :=
  runM (laneLogical (.vor 0 0 0 0) hd ha hb) s

/-- `vxor` (R287). -/
def execVxor (hd ha hb : BitVec 4) (_la : BitVec 4) (s : State) : Host.Outcome State Fault Refusal :=
  runM (laneLogical (.vxor 0 0 0 0) hd ha hb) s

/-- `vshl` (R287). -/
def execVshl (hd ha hb : BitVec 4) (_la : BitVec 4) (s : State) : Host.Outcome State Fault Refusal :=
  runM (laneShifts (.vshl 0 0 0 0) hd ha hb) s

/-- `vshr` (R287). -/
def execVshr (hd ha hb : BitVec 4) (_la : BitVec 4) (s : State) : Host.Outcome State Fault Refusal :=
  runM (laneShifts (.vshr 0 0 0 0) hd ha hb) s

/-- `vcmp` (R288). -/
def execVcmp (hd ha hb : BitVec 4) (rs : BitVec 6) (_la : BitVec 4) (s : State) : Host.Outcome State Fault Refusal :=
  runM (do
    let v ← readS rs
    laneVcmp hd ha hb v) s

/-- `vsel` (R289). -/
def execVsel (hd ha hb : BitVec 4) (rs : BitVec 6) (_la : BitVec 4) (s : State) : Host.Outcome State Fault Refusal :=
  runM (do
    let v ← readS rs
    laneVsel hd ha hb v) s

/-- `vcompress` (R290). -/
def execVcompress (hd ha : BitVec 4) (rs : BitVec 6) (la : BitVec 4) (s : State) : Host.Outcome State Fault Refusal :=
  runM (laneSqueeze false hd ha rs la) s

/-- `vexpand` (R290). -/
def execVexpand (hd ha : BitVec 4) (rs : BitVec 6) (la : BitVec 4) (s : State) : Host.Outcome State Fault Refusal :=
  runM (laneSqueeze true hd ha rs la) s

/-- `vgather` (R295). -/
def execVgather (hd ha hb : BitVec 4) (rs : BitVec 6) (la : BitVec 4) (s : State) : Host.Outcome State Fault Refusal :=
  runM (laneIndexed false hd ha hb rs la) s

/-- `vscatter` (R295). -/
def execVscatter (hd ha hb : BitVec 4) (rs : BitVec 6) (la : BitVec 4) (s : State) : Host.Outcome State Fault Refusal :=
  runM (laneIndexed true hd ha hb rs la) s

/-- `vsp24` (R292); the metadata are no channel (R296). -/
def execVsp24 (hd ha hb : BitVec 4) (_la : BitVec 4) (s : State) : Host.Outcome State Fault Refusal :=
  runM (do
    let d ← handleAt hd.toNat
    let a ← handleAt ha.toNat
    let b ← handleAt hb.toNat
    checkUses [⟨d, true, functionKind⟩, ⟨a, false, sparseKind⟩, ⟨b, true, fun k => k == .int false 8⟩]
    if hChan b then handleFault else pure ()
    let e0 := hLen a 0
    require (e0 % 4 == 0 && hCount d == hCount a / 2 && hCount b == hRows a * ceilDiv e0 8)
    checkOutput b
    issueLane { instr := .vsp24 0 0 0 0, hd := d, ha := a, hb := b, srcs := [a] }) s

/-- `vsmx` (R293). -/
def execVsmx (hd ha : BitVec 4) (_la : BitVec 4) (s : State) : Host.Outcome State Fault Refusal :=
  runM (do
    let d ← handleAt hd.toNat
    let a ← handleAt ha.toNat
    checkUses [⟨d, true, fun k => k == .float fmtSingle⟩, ⟨a, false, rowKind⟩]
    require (hLen d 0 == 2 && hRows d == hRows a)
    issueLane { instr := .vsmx 0 0 0, hd := d, ha := a, srcs := [a] }) s

/-- `vtopk` (R294). -/
def execVtopk (hd ha : BitVec 4) (rs : BitVec 6) (_la : BitVec 4) (s : State) : Host.Outcome State Fault Refusal :=
  runM (do
    let v ← readS rs
    let d ← handleAt hd.toNat
    let a ← handleAt ha.toNat
    checkUses [⟨d, true, fun k => k == .int false 64⟩, ⟨a, false, rowKind⟩]
    let n := field v 31 0
    require (1 ≤ n && n ≤ 8 && hLen d 0 == n && hRows d == hRows a)
    issueLane { instr := .vtopk 0 0 0 0, hd := d, ha := a, s := v, srcs := [a] }) s

/-- `viota` (R286). -/
def execViota (hd : BitVec 4) (rs : BitVec 6) (_la : BitVec 4) (s : State) : Host.Outcome State Fault Refusal :=
  runM (do
    let v ← readS rs
    let d ← handleAt hd.toNat
    checkUses [⟨d, true, moveKind⟩]
    issueLane { instr := .viota 0 0 0, hd := d, s := v, srcs := [] }) s

/-- `vcvt.keep` (R285). -/
def execVcvtKeep (hd ha : BitVec 4) (rs : BitVec 6) (_la : BitVec 4) (s : State) : Host.Outcome State Fault Refusal :=
  runM (do
    let v ← readS rs
    let d ← handleAt hd.toNat
    let a ← handleAt ha.toNat
    checkUses [⟨d, true, anyKind⟩, ⟨a, false, anyKind⟩]
    require (zeroBits v 63 16 && (kind d).isDxb && hCount a == hCount d)
    issueLane { instr := .vcvtKeep 0 0 0 0, hd := d, ha := a, s := v, srcs := [a] }) s

/-! ## Execution and completion (R275, R277, R278, R298) -/

/-- Header word 1 of a message (R326). -/
def headerWord (tag src lid cop kind : Nat) (hold hi : Bool) (len : Nat) : Word :=
  word (tag % 65536 * 2 ^ 48 + src % 65536 * 2 ^ 32 + lid % 65536 * 2 ^ 16 + cop % 8 * 2 ^ 13 + kind % 8 * 2 ^ 10
    + (if hold then 512 else 0) + (if hi then 256 else 0) + len % 256)

/-- Deposits of a stream (R298): up to 192 bytes each, at rising offsets. -/
def streamDeposits (dest : Word) (tag src lid : Nat) (hi : Bool) (off : Nat) (bytes : List Byte) : Nat → List Msg
  | 0 => []
  | n + 1 =>
    if bytes.isEmpty then []
    else
      let part := bytes.take 192
      { hdr0 := word (off % 2 ^ 20 * 2 ^ 32) ||| dest, hdr1 := headerWord tag src lid 0 1 false hi part.length,
        payload := wordsOf (ceilDiv part.length 8) part } ::
        streamDeposits dest tag src lid hi (off + 192) (bytes.drop 192) n

/-- The deposits of an executed instruction's outbound destination (R298). -/
def LaneOp.deposits (o : LaneOp) (k : Nat) (stream : Memory) : List Msg :=
  if hChan o.hd then
    let n := laneStream o.instr o.hd
    streamDeposits (chanDest o.hd) (0x8000 + chanOf o.hd) (shortId k) o.lid.toNat o.hi (chanOff o.hd)
      ((upFrom 0 n).map stream.read) (n / 192 + 1)
  else []

/-- LANE_EXECUTE: the instruction at the head of a core's lane queue reads, computes and writes (R275, R277). -/
def execLaneExecute (s : State) : Host.Outcome State Fault Refusal :=
  runEvent (do
    let k := s.input.core
    match (s.core k).lanes with
    | [] => notNow
    | o :: _ =>
      if o.executed || (o.willTouch s k).any (s.mstTile k) then notNow
      else do
        let (n, acc) ← (LaneRun.compute { k, op := o }).run {}
        modify fun s => s.modCore k fun x =>
          { x.bump 0 5 (hCount o.hd) with lanes := x.lanes.modifyHead fun o =>
              { o with executed := true, flags := acc.fl.setWidth 6, count := word n, out := o.deposits k acc.stream } }) s

/-- The writes that precede a lane instruction are performed at a scope (R263, R298): those of older store-path
entries, of `mst`, and to other nodes. -/
def State.laneOrdered (s : State) (k : Nat) (o : LaneOp) (scope : Nat) : Bool :=
  let x := s.core k
  !(x.matrix.any fun e => e.ctx == o.ctx && e.op == .store) &&
  !((x.ctx o.ctx).pending.any fun p => !p.ready && decide (p.seq < o.seq)) &&
  (decide (scope < 2) || !(x.stores.any fun e => !e.nt && decide (e.seq < o.seq))) &&
  (s.writesOut scope fun w => if 6 ≤ scope then w.visible else w.ofCore k).isEmpty

/-- A message is accepted (R45): it enters the outbox, and the launch's sent count rises by its copies. -/
def State.accept (s : State) (k : Nat) (e : OutEntry) : State :=
  let s := s.modCore k fun x => { x with outbox := x.outbox ++ [e] }
  if !e.counted then s
  else if e.node = s.node then (s.sent k e.msg.lid e.dests 1).count k e.msg.lid e.dests.length
  else s.count k e.msg.lid 1

/-- LANE_COMPLETE: the next deposit of the executed head instruction is accepted, or, when none is left, the
instruction delivers its flags and its scalar result and leaves the queue (R278, R298). -/
def execLaneComplete (s : State) : Host.Outcome State Fault Refusal :=
  runEvent (do
    let k := s.input.core
    let x := s.core k
    match x.lanes with
    | [] => notNow
    | o :: rest =>
      match o.out with
      | m :: more =>
        let node := nodeOf m.hdr0
        let dests := s.destsOf m.hdr0
        let scope := s.separating k node dests
        if o.executed && x.outbox.length < 16 && s.laneOrdered k o scope then
          set ((s.modCore k fun x => { x with lanes := x.lanes.modifyHead fun o => { o with out := more } }).accept k
            { msg := m, ctx := o.ctx, node, dests })
        else notNow
      | [] =>
        if o.executed then
          set ((s.modCore k fun x => { x with lanes := rest }).modCtx k o.ctx fun t =>
            let t := t.orFlags (o.flags.setWidth 7)
            match o.winId with
            | some id => t.fill id (o.count.setWidth 256)
            | none => t)
        else notNow) s

end Sys2Proof.Machine
end

