-- ==== Sys2Proof/Machine/FloatWindow.lean ====
section
/-! DEFINITION. The variable-length float window: length, arithmetic, comparison, moves and conversions (R143 to
R156). The loads and stores of R157 to R159 stand in Machine/Loads.lean. -/

namespace Sys2Proof.Machine

/-! ## The context whose floats an instruction uses -/

/-- The context that a float instruction works on: context 15 with FV = 1 works on the selected one (R177). -/
def State.floatCtx (s : State) : Nat :=
  let x := s.core s.iss.core
  if s.iss.ctx = 15 && bit x.ctxsel 8 then field x.ctxsel 3 0 else s.iss.ctx

/-- The registers an instruction names exist (R146), and the selected context is TRAPPED or FREE (R177): the context
to work on. The lowest register that does not exist is reported (log 14). -/
def floats (regs : List (BitVec 5)) : M Nat := do
  let s ← get
  let c := s.floatCtx
  let t := s.ctx s.iss.core c
  match leastNat ((regs.map BitVec.toNat).filter fun n => !floatExists t.len n) with
  | some n => raise { cause := 0x03, info := word (n + 256 * t.len) }
  | none =>
    if c = s.iss.ctx || c = 15 || t.state = .trapped || t.state = .free then
      if t.floatsPending (regs.map BitVec.toNat) then pause (.floats c (regs.map BitVec.toNat)) else pure c
    else privilegeFault

/-- Every earlier float result of a context has been written (R147). -/
def allFloats (c : Nat) : M Unit := do
  let s ← get
  if (s.ctx s.iss.core c).floatsPending (upFrom 0 32) then pause (.floats c (upFrom 0 32)) else pure ()

/-- The float context. -/
def floatsOf (c : Nat) : M Ctx := do
  let s ← get
  pure (s.ctx s.iss.core c)

/-- Change the float context. -/
def modFloats (c : Nat) (f : Ctx → Ctx) : M Unit := modify fun s => s.modCtx s.iss.core c f

/-- MODE of RMODE (R170). -/
def Ctx.mode (t : Ctx) : Nat := field t.rmode 2 0

/-- The format of the current length (R68). -/
def Ctx.fmt (t : Ctx) : Fmt := fmtVlf t.len

/-- The value of fN. -/
def Ctx.value (t : Ctx) (n : BitVec 5) : Num := t.fmt.decode (t.float n.toNat)

/-- The flags that arose and are enabled (R65). -/
def Ctx.trapping (t : Ctx) (fl : Flag) : Flag := fl &&& (BitVec.ofNat 7 (field t.rmode 12 8))

/-- Flags are delivered, or trap when enabled, with the register that R65 names; every flag that arose is reported
(log 14). -/
def deliver (c : Nat) (reg : BitVec 5) (fl : Flag) : M Unit := do
  let t ← floatsOf c
  if t.trapping fl = 0#7 then modFloats c fun t => t.orFlags fl
  else raise { cause := 0x07, info := word ((fl.toNat % 32) + 256 * reg.toNat) }

/-- fd := the pattern, with its flags; retires. -/
def floatResult (c : Nat) (fd : BitVec 5) (r : Nat × Flag) : M Unit := do
  deliver c fd r.2
  modFloats c fun t => t.setFloat fd.toNat r.1
  retire

/-- rd := the word, with the flags that arose; retires. -/
def scalarResult (c : Nat) (rd : BitVec 6) (fa : BitVec 5) (v : Word) (fl : Flag) : M Unit := do
  writeS rd v
  deliver c fa fl
  retire

/-! ## Operand forms -/

/-- fd := f(fa, fb), rounded once (R152). -/
def float2 (f : Ctx → Num → Num → Exact × Flag) (fd fa fb : BitVec 5) : M Unit := do
  let c ← floats [fd, fa, fb]
  let t ← floatsOf c
  floatResult c fd (t.fmt.finish t.mode (f t (t.value fa) (t.value fb)))

/-- fd := f(fa, fb, old fd), rounded once (R152). -/
def float3 (f : Ctx → Num → Num → Num → Exact × Flag) (fd fa fb : BitVec 5) : M Unit := do
  let c ← floats [fd, fa, fb]
  let t ← floatsOf c
  floatResult c fd (t.fmt.finish t.mode (f t (t.value fa) (t.value fb) (t.value fd)))

/-- fd := f(fa), rounded once (R152). -/
def float1 (f : Ctx → Num → Exact × Flag) (fd fa : BitVec 5) : M Unit := do
  let c ← floats [fd, fa]
  let t ← floatsOf c
  floatResult c fd (t.fmt.finish t.mode (f t (t.value fa)))

/-- fd := the bits of fa with another sign (R60). -/
def floatSign (f : Nat → Nat → Nat) (fd fa : BitVec 5) : M Unit := do
  let c ← floats [fd, fa]
  let t ← floatsOf c
  let top := 2 ^ (widthOf t.len - 1)
  modFloats c fun t => t.setFloat fd.toNat (f top (t.float fa.toNat))
  retire

/-- A comparison: the relation over values that are no NaN, the answer when one is, and whether a quiet NaN sets NV
(R153). -/
def floatCompare (rel : Int → Bool) (unordered quietNV : Bool) (rd : BitVec 6) (fa fb : BitVec 5) : M Unit := do
  let c ← floats [fa, fb]
  let t ← floatsOf c
  let a := t.value fa
  let b := t.value fb
  let nan := a.isNan || b.isNan
  let fl := if quietNV then flagIf nan flagNV else nvIf [a, b]
  scalarResult c rd fa (flagWord (if nan then unordered else rel (a.compare b))) fl

/-- fd := a scalar converted (R156). -/
def toFloat (f : Word → Num) (fd : BitVec 5) (ra : BitVec 6) : M Unit := do
  let c ← floats [fd]
  let a ← readS ra
  let t ← floatsOf c
  floatResult c fd (t.fmt.convert t.mode (f a))

/-- rd := a float converted to an integer (R67, R156). -/
def floatToInt (lo hi : Int) (rd : BitVec 6) (fa : BitVec 5) : M Unit := do
  let c ← floats [fa]
  let t ← floatsOf c
  let (i, fl) := toInteger t.mode lo hi (t.value fa)
  scalarResult c rd fa (intWord i) fl

/-- rd := a float converted to an IEEE format (R66, R156). -/
def floatToIeee (f : Fmt) (rd : BitVec 6) (fa : BitVec 5) : M Unit := do
  let c ← floats [fa]
  let t ← floatsOf c
  let (v, fl) := f.convert t.mode (t.value fa)
  scalarResult c rd fa (word v) fl

/-- The class of a value (R154). -/
def classOf (f : Fmt) (v : Nat) : Nat :=
  match f.decode v with
  | .nan _ frac bits => if frac < 2 ^ (bits - 1) then 8 else 9
  | .inf neg => if neg then 0 else 7
  | .fin neg m _ =>
    if m = 0 then (if neg then 3 else 4)
    else if m < 2 ^ f.frac then (if neg then 2 else 5)
    else (if neg then 1 else 6)

/-- `fround` (R152). -/
def roundIntegral (f : Fmt) (mode : Nat) (v : Nat) : Nat × Flag :=
  match f.decode v with
  | .nan neg frac bits => (f.nan, nvIf [.nan neg frac bits])
  | .inf _ => (v, 0#7)
  | .fin neg m e =>
    if m = 0 || 0 ≤ e then (v, 0#7)
    else
      let (n, inexact) := roundUnits mode neg m e 0 false
      ((f.roundMag mode neg n 0 false).1, flagIf inexact flagNX)

/-! ## Changing the length (R149, R150) -/

/-- The new length: k8, or s[ra] in the register form (R149). -/
def newLength (ra : BitVec 6) (k : BitVec 8) : M Nat := do
  if ra = 0#6 then pure k.toNat
  else
    let a ← readS ra
    if 1 ≤ a.toNat && a.toNat ≤ 14 then pure a.toNat else valueFault

/-- PREC with another LEN; LM stays (R149). -/
def Ctx.withLen (t : Ctx) (k : Nat) : Ctx := { t with prec := word (putField t.prec.toNat 3 0 k) }

/-- Each surviving register converted, from fN up for n registers: number, pattern and flags (R150). -/
def convertPool (t : Ctx) (k : Nat) (n : Nat) : Nat → List (Nat × Nat × Flag)
  | 0 => []
  | more + 1 =>
    if floatExists k n && floatExists t.len n then
      let (v, fl) := (fmtVlf k).convert t.mode (t.fmt.decode (t.float n))
      (n, v, fl) :: convertPool t k (n + 1) more
    else convertPool t k (n + 1) more

/-- `setprec.keep` on a context (R150). -/
def keepPool (c k : Nat) : M Unit := do
  let t ← floatsOf c
  let regs := convertPool t k 0 32
  match regs.find? fun r => t.trapping r.2.2 != 0#7 with
  | some (n, _, fl) => raise { cause := 0x07, info := word ((fl.toNat % 32) + 256 * n) }
  | none =>
    let pool := regs.foldl (fun p r => poolSet p k r.1 r.2.1) 0#1024
    modFloats c fun t => ({ t.withLen k with pool := pool } : Ctx).orFlags (regs.foldl (fun f r => f ||| r.2.2) 0#7)

/-! ## Meanings -/

/-- `fadd` (R152). -/
def execFadd (fd fa fb : BitVec 5) (s : State) : Host.Outcome State Fault Refusal :=
  runM (float2 (fun t a b => addNum t.mode a b) fd fa fb) s

/-- `fsub` (R152). -/
def execFsub (fd fa fb : BitVec 5) (s : State) : Host.Outcome State Fault Refusal :=
  runM (float2 (fun t a b => subNum t.mode a b) fd fa fb) s

/-- `fmul` (R152). -/
def execFmul (fd fa fb : BitVec 5) (s : State) : Host.Outcome State Fault Refusal :=
  runM (float2 (fun _ a b => mulNum a b) fd fa fb) s

/-- `fdiv` (R152). -/
def execFdiv (fd fa fb : BitVec 5) (s : State) : Host.Outcome State Fault Refusal :=
  runM (float2 (fun t a b => divNum t.fmt.frac a b) fd fa fb) s

/-- `fmin` (R152). -/
def execFmin (fd fa fb : BitVec 5) (s : State) : Host.Outcome State Fault Refusal :=
  runM (float2 (fun _ a b => extremum false a b) fd fa fb) s

/-- `fmax` (R152). -/
def execFmax (fd fa fb : BitVec 5) (s : State) : Host.Outcome State Fault Refusal :=
  runM (float2 (fun _ a b => extremum true a b) fd fa fb) s

/-- `ffma`: a · b + d (R152). -/
def execFfma (fd fa fb : BitVec 5) (s : State) : Host.Outcome State Fault Refusal :=
  runM (float3 (fun t a b d => fmaNum t.mode a b d) fd fa fb) s

/-- `fnma`: d − a · b (R152). -/
def execFnma (fd fa fb : BitVec 5) (s : State) : Host.Outcome State Fault Refusal :=
  runM (float3 (fun t a b d => fmaNum t.mode a.negate b d) fd fa fb) s

/-- `fsqrt` (R152). -/
def execFsqrt (fd fa : BitVec 5) (s : State) : Host.Outcome State Fault Refusal :=
  runM (float1 (fun t a => sqrtNum t.fmt.frac a) fd fa) s

/-- `fneg` (R60). -/
def execFneg (fd fa : BitVec 5) (s : State) : Host.Outcome State Fault Refusal :=
  runM (floatSign (fun top v => if v < top then v + top else v - top) fd fa) s

/-- `fabs` (R60). -/
def execFabs (fd fa : BitVec 5) (s : State) : Host.Outcome State Fault Refusal :=
  runM (floatSign (fun top v => v % top) fd fa) s

/-- `fclass` (R154). -/
def execFclass (rd : BitVec 6) (fa : BitVec 5) (s : State) : Host.Outcome State Fault Refusal :=
  runM (do
    let c ← floats [fa]
    let t ← floatsOf c
    writeS rd (word (2 ^ classOf t.fmt (t.float fa.toNat)))
    retire) s

/-- `fround` (R152). -/
def execFround (fd fa : BitVec 5) (s : State) : Host.Outcome State Fault Refusal :=
  runM (do
    let c ← floats [fd, fa]
    let t ← floatsOf c
    floatResult c fd (roundIntegral t.fmt t.mode (t.float fa.toNat))) s

/-- `fmv.x` (R155). -/
def execFmvX (rd : BitVec 6) (fa : BitVec 5) (j : BitVec 6) (s : State) : Host.Outcome State Fault Refusal :=
  runM (do
    let c ← floats [fa]
    let t ← floatsOf c
    writeS rd (word (t.float fa.toNat / 2 ^ (64 * j.toNat)))
    retire) s

/-- `fmv.f` (R155). -/
def execFmvF (fd : BitVec 5) (ra : BitVec 6) (j : BitVec 6) (s : State) : Host.Outcome State Fault Refusal :=
  runM (do
    let c ← floats [fd]
    let a ← readS ra
    let t ← floatsOf c
    let v := putField (t.float fd.toNat) (64 * j.toNat + 63) (64 * j.toNat) a.toNat
    modFloats c fun t => t.setFloat fd.toNat (v % 2 ^ widthOf t.len)
    retire) s

/-- `fcmp.eq` (R153). -/
def execFcmpEq (rd : BitVec 6) (fa fb : BitVec 5) (s : State) : Host.Outcome State Fault Refusal :=
  runM (floatCompare (fun d => d == 0) false false rd fa fb) s

/-- `fcmp.lt` (R153). -/
def execFcmpLt (rd : BitVec 6) (fa fb : BitVec 5) (s : State) : Host.Outcome State Fault Refusal :=
  runM (floatCompare (fun d => decide (d < 0)) false true rd fa fb) s

/-- `fcmp.le` (R153). -/
def execFcmpLe (rd : BitVec 6) (fa fb : BitVec 5) (s : State) : Host.Outcome State Fault Refusal :=
  runM (floatCompare (fun d => decide (d ≤ 0)) false true rd fa fb) s

/-- `fcmp.un` (R153). -/
def execFcmpUn (rd : BitVec 6) (fa fb : BitVec 5) (s : State) : Host.Outcome State Fault Refusal :=
  runM (floatCompare (fun _ => false) true false rd fa fb) s

/-- `fcvt.f.s` (R156). -/
def execFcvtFS (fd : BitVec 5) (ra : BitVec 6) (s : State) : Host.Outcome State Fault Refusal :=
  runM (toFloat (fun a => Num.ofInt a.toInt) fd ra) s

/-- `fcvt.f.u` (R156). -/
def execFcvtFU (fd : BitVec 5) (ra : BitVec 6) (s : State) : Host.Outcome State Fault Refusal :=
  runM (toFloat (fun a => Num.ofInt a.toNat) fd ra) s

/-- `fcvt.f.h` (R156). -/
def execFcvtFH (fd : BitVec 5) (ra : BitVec 6) (s : State) : Host.Outcome State Fault Refusal :=
  runM (toFloat (fun a => fmtHalf.decode (field a 15 0)) fd ra) s

/-- `fcvt.f.bf` (R156). -/
def execFcvtFBf (fd : BitVec 5) (ra : BitVec 6) (s : State) : Host.Outcome State Fault Refusal :=
  runM (toFloat (fun a => fmtBf.decode (field a 15 0)) fd ra) s

/-- `fcvt.f.w` (R156). -/
def execFcvtFW (fd : BitVec 5) (ra : BitVec 6) (s : State) : Host.Outcome State Fault Refusal :=
  runM (toFloat (fun a => fmtSingle.decode (field a 31 0)) fd ra) s

/-- `fcvt.f.d` (R156). -/
def execFcvtFD (fd : BitVec 5) (ra : BitVec 6) (s : State) : Host.Outcome State Fault Refusal :=
  runM (toFloat (fun a => fmtDouble.decode a.toNat) fd ra) s

/-- `fcvt.s.f` (R156). -/
def execFcvtSF (rd : BitVec 6) (fa : BitVec 5) (s : State) : Host.Outcome State Fault Refusal :=
  runM (floatToInt (-2 ^ 63) (2 ^ 63 - 1) rd fa) s

/-- `fcvt.u.f` (R156). -/
def execFcvtUF (rd : BitVec 6) (fa : BitVec 5) (s : State) : Host.Outcome State Fault Refusal :=
  runM (floatToInt 0 (2 ^ 64 - 1) rd fa) s

/-- `fcvt.h.f` (R156). -/
def execFcvtHF (rd : BitVec 6) (fa : BitVec 5) (s : State) : Host.Outcome State Fault Refusal :=
  runM (floatToIeee fmtHalf rd fa) s

/-- `fcvt.bf.f` (R156). -/
def execFcvtBfF (rd : BitVec 6) (fa : BitVec 5) (s : State) : Host.Outcome State Fault Refusal :=
  runM (floatToIeee fmtBf rd fa) s

/-- `fcvt.w.f` (R156). -/
def execFcvtWF (rd : BitVec 6) (fa : BitVec 5) (s : State) : Host.Outcome State Fault Refusal :=
  runM (floatToIeee fmtSingle rd fa) s

/-- `fcvt.d.f` (R156). -/
def execFcvtDF (rd : BitVec 6) (fa : BitVec 5) (s : State) : Host.Outcome State Fault Refusal :=
  runM (floatToIeee fmtDouble rd fa) s

/-- `setprec.keep` (R149, R150). -/
def execSetprecKeep (rd ra : BitVec 6) (k : BitVec 8) (s : State) : Host.Outcome State Fault Refusal :=
  runM (do
    let c ← floats []
    let n ← newLength ra k
    allFloats c
    let t ← floatsOf c
    writeS rd t.prec
    keepPool c n
    retire) s

/-- `setprec.clear` (R149). -/
def execSetprecClear (rd ra : BitVec 6) (k : BitVec 8) (s : State) : Host.Outcome State Fault Refusal :=
  runM (do
    let c ← floats []
    let n ← newLength ra k
    allFloats c
    let t ← floatsOf c
    writeS rd t.prec
    modFloats c fun t => { t.withLen n with pool := 0#1024 }
    retire) s

/-- `getprec` (R149). -/
def execGetprec (rd : BitVec 6) (s : State) : Host.Outcome State Fault Refusal :=
  runM (do
    let c ← floats []
    allFloats c
    let t ← floatsOf c
    writeS rd t.prec
    retire) s

end Sys2Proof.Machine
end

