-- ==== Sys2Proof/Machine/Loads.lean ====
section
/-! DEFINITION. Loads, stores, prefetch and the constant window (R103, R129, R233 to R239), the memory instructions of
the float window (R157 to R159) and of the handles (R164 to R167), and the steps by which load data arrive and stores
are performed. -/

namespace Sys2Proof.Machine

/-! ## Scalar loads and stores -/

/-- `ld.*` (R233): `n` bytes at s[ra] + s[rb]. -/
def scalarLoad (form : LoadForm) (nt : Bool) (n : Nat) (rd ra rb : BitVec 6) (la : BitVec 4) : M Unit := do
  let d : Dest := { file := .scalar, reg := rd.toNat, la := la.toNat }
  makeRoomFor d
  let a ← readS ra
  let b ← readS rb
  loadInto d form nt n (a + b)

/-- The data of a store (R234): the popped load-data head for 60, the claimed store-data entry for 61. -/
def storeData (rd : BitVec 6) : M Word := do
  if rd = 61#6 then
    let t ← myCtx
    match t.stq with
    | [] => illegalOperand 2
    | v :: rest => do
      modMyCtx fun t => { t with stq := rest }
      pure v
  else readS rd

/-- `st.*` (R234): the low `n` bytes of the data at s[ra] + s[rb]. -/
def scalarStore (nt : Bool) (n : Nat) (rd ra rb : BitVec 6) : M Unit := do
  let d ← storeData rd
  let a ← readS ra
  let b ← readS rb
  if nt then storeNonTemporal (a + b) (bytesOf n d.toNat) else storeBytes (a + b) (bytesOf n d.toNat)
  retire

/-- `ld.b` (R233). -/
def execLdB (rd ra rb : BitVec 6) (la : BitVec 4) (s : State) : Host.Outcome State Fault Refusal :=
  runM (scalarLoad .signed false 1 rd ra rb la) s

/-- `ld.bu` (R233). -/
def execLdBu (rd ra rb : BitVec 6) (la : BitVec 4) (s : State) : Host.Outcome State Fault Refusal :=
  runM (scalarLoad .unsigned false 1 rd ra rb la) s

/-- `ld.h` (R233). -/
def execLdH (rd ra rb : BitVec 6) (la : BitVec 4) (s : State) : Host.Outcome State Fault Refusal :=
  runM (scalarLoad .signed false 2 rd ra rb la) s

/-- `ld.hu` (R233). -/
def execLdHu (rd ra rb : BitVec 6) (la : BitVec 4) (s : State) : Host.Outcome State Fault Refusal :=
  runM (scalarLoad .unsigned false 2 rd ra rb la) s

/-- `ld.w` (R233). -/
def execLdW (rd ra rb : BitVec 6) (la : BitVec 4) (s : State) : Host.Outcome State Fault Refusal :=
  runM (scalarLoad .signed false 4 rd ra rb la) s

/-- `ld.wu` (R233). -/
def execLdWu (rd ra rb : BitVec 6) (la : BitVec 4) (s : State) : Host.Outcome State Fault Refusal :=
  runM (scalarLoad .unsigned false 4 rd ra rb la) s

/-- `ld.d` (R233). -/
def execLdD (rd ra rb : BitVec 6) (la : BitVec 4) (s : State) : Host.Outcome State Fault Refusal :=
  runM (scalarLoad .unsigned false 8 rd ra rb la) s

/-- `ld.nt` (R233, R238). -/
def execLdNt (rd ra rb : BitVec 6) (la : BitVec 4) (s : State) : Host.Outcome State Fault Refusal :=
  runM (scalarLoad .unsigned true 8 rd ra rb la) s

/-- `st.b` (R234). -/
def execStB (rd ra rb : BitVec 6) (s : State) : Host.Outcome State Fault Refusal :=
  runM (scalarStore false 1 rd ra rb) s

/-- `st.h` (R234). -/
def execStH (rd ra rb : BitVec 6) (s : State) : Host.Outcome State Fault Refusal :=
  runM (scalarStore false 2 rd ra rb) s

/-- `st.w` (R234). -/
def execStW (rd ra rb : BitVec 6) (s : State) : Host.Outcome State Fault Refusal :=
  runM (scalarStore false 4 rd ra rb) s

/-- `st.d` (R234). -/
def execStD (rd ra rb : BitVec 6) (s : State) : Host.Outcome State Fault Refusal :=
  runM (scalarStore false 8 rd ra rb) s

/-- `st.nt` (R234, R238). -/
def execStNt (rd ra rb : BitVec 6) (s : State) : Host.Outcome State Fault Refusal :=
  runM (scalarStore true 8 rd ra rb) s

/-- The line of a local physical address enters its home memory-side cache (R239). -/
def State.prefetch (s : State) (k : Nat) (a : Word) : State :=
  match s.region k a with
  | .virtual va =>
    match s.lookup k (s.core k).asid.toNat va with
    | (.leaf e, s') =>
      match s'.placeOf e (s.core k).asid.toNat va .read with
      | .ok (.here pa) => s'.touch pa true
      | _ => s'
    | (.failed _, s') => s'
    | (.busy _, _) => s
  | _ => s

/-- `pf` (R239). -/
def execPf (ra rb : BitVec 6) (s : State) : Host.Outcome State Fault Refusal :=
  runM (do
    let a ← readS ra
    let b ← readS rb
    let (k, _) ← here
    modify fun s => s.prefetch k (a + b)
    retire) s

/-! ## The constant window (R103, R129) -/

/-- The constant-window word `k` of the core. -/
def constantWord (w : Nat) : M Word := do
  let (k, c) ← here
  let refs := (upFrom (8 * w) 8).map (ByteRef.tile k)
  awaitReads refs
  let bs ← readNow k c 0 (sourcesOf refs [])
  pure (wordOf bs)

/-- `ldk` (R129). -/
def execLdk (rd : BitVec 6) (k : BitVec 8) (s : State) : Host.Outcome State Fault Refusal :=
  runM (do
    let v ← constantWord k.toNat
    writeS rd v
    retire) s

/-- `addk` (R129). -/
def execAddk (rd ra : BitVec 6) (k : BitVec 8) (s : State) : Host.Outcome State Fault Refusal :=
  runM (do
    let a ← readS ra
    let v ← constantWord k.toNat
    writeS rd (a + v)
    retire) s

/-! ## Float loads and stores (R157 to R159) -/

/-- A raw value of length code `l` brought to the length of a context, under a rounding mode (R157): its pattern and
flags. -/
def Ctx.bring (t : Ctx) (mode l raw : Nat) : Nat × Flag :=
  if l = t.len then (raw, 0#7) else t.fmt.convert mode ((fmtVlf l).decode raw)

/-- A longer value meets LM = 1 (R146). -/
def Ctx.tooLong (t : Ctx) (l : Nat) : Bool := decide (t.len < l) && bit t.prec 4

/-- A raw value of length code `l` is brought to the current length (R157); a longer one under LM = 1 is the
precision-exhausted trap, which reports the address of the access (log 95). -/
def bringFloat (c : Nat) (fd : BitVec 5) (a : Word) (l raw : Nat) : M (Nat × Flag) := do
  let t ← floatsOf c
  if t.tooLong l then raise { cause := 0x08, addr := a, info := word (fd.toNat + 256 * t.len + 4096 * l) }
  else pure (t.bring t.mode l raw)

/-- The result of a load of length code `l` is a value alone, whatever the data: none of its flags can trap (R65, R146).
Context 15 waits for its data. -/
def Ctx.quietLoad (t : Ctx) (c l : Nat) : Bool :=
  c != 15 && !t.tooLong l && (l == t.len || t.trapping 0x7F#7 == 0#7)

/-- A value of length code `l` at `va` goes to a float register; `a` is the address that a trap reports. Where no trap can
follow from the data, they may arrive after the load has retired (R147, R159). -/
def floatLoad (c : Nat) (fd : BitVec 5) (a va : Word) (l : Nat) : M Unit := do
  let (k, me) ← here
  let t ← floatsOf c
  let refs ← accessRefs .read (l + 2) va false
  if t.quietLoad me l && refs.any (ByteRef.far k) then do
    let asid ← myAsid
    let srcs ← readRefs va refs
    let id ← freshId k me
    let seq ← freshSeq k
    retire
    modMyCtx fun t => { t with pending := t.pending ++
      [{ id, bytes := srcs, form := .unsigned, seq, asid, va := va.toNat, float := some { reg := fd.toNat, code := l, mode := t.mode } }] }
  else do
    let raw ← readBytes (l + 2) va
    let r ← bringFloat c fd a l (natOf raw)
    floatResult c fd r

/-- `fld` (R157). -/
def execFld (fd : BitVec 5) (ra : BitVec 6) (imm : BitVec 13) (s : State) : Host.Outcome State Fault Refusal :=
  runM (do
    let c ← floats [fd]
    let b ← readS ra
    let a := b + imm.signExtend 64
    let h ← readBytes 1 a
    let l := natOf h / 16
    let t ← floatsOf c
    if l = 0 || l = 15 then floatResult c fd (t.fmt.nan, flagNV)
    else floatLoad c fd a (a + 1) l) s

/-- `fst` (R157). -/
def execFst (fd : BitVec 5) (ra : BitVec 6) (imm : BitVec 13) (s : State) : Host.Outcome State Fault Refusal :=
  runM (do
    let c ← floats [fd]
    let b ← readS ra
    let t ← floatsOf c
    storeBytes (b + imm.signExtend 64) (vlfBytes t.len (t.float fd.toNat))
    retire) s

/-- `fldr` (R158). -/
def execFldr (fd : BitVec 5) (ra : BitVec 6) (k : BitVec 8) (s : State) : Host.Outcome State Fault Refusal :=
  runM (do
    let c ← floats [fd]
    let a ← readS ra
    floatLoad c fd a a k.toNat) s

/-- `fstr` (R158). -/
def execFstr (fd : BitVec 5) (ra : BitVec 6) (k : BitVec 8) (s : State) : Host.Outcome State Fault Refusal :=
  runM (do
    let c ← floats [fd]
    let a ← readS ra
    let t ← floatsOf c
    let (v, fl) := if k.toNat = t.len then (t.float fd.toNat, 0#7)
      else (fmtVlf k.toNat).convert t.mode (t.value fd)
    if t.trapping fl = 0#7 then pure ()
    else do
      let refs ← accessRefs .write (k.toNat + 2) a true
      let (core, me) ← here
      let asid ← myAsid
      let _ ← confirmRuns (.ctx core me) asid a (nodeRuns refs)
    deliver c fd fl
    storeBytes a (bytesOf (k.toNat + 2) v)
    retire) s

/-! ## Handles (R164 to R167) -/

/-- `hld` (R165). -/
def execHld (hd : BitVec 4) (rs : BitVec 6) (la : BitVec 4) (s : State) : Host.Outcome State Fault Refusal :=
  runM (do
    let d : Dest := { file := .handle, reg := hd.toNat, la := la.toNat }
    makeRoomFor d
    let a ← readS rs
    loadInto d .handle false 32 a) s

/-- `hst` (R165); the lookahead count is ignored (R101). -/
def execHst (hd : BitVec 4) (rs : BitVec 6) (_la : BitVec 4) (s : State) : Host.Outcome State Fault Refusal :=
  runM (do
    let a ← readS rs
    let t ← myCtx
    storeBytes a (bytesOf 32 (t.handle hd.toNat).toNat)
    retire) s

/-- `advance` of R166. -/
def advance (h : HandleBits) (delta : Int) : M HandleBits :=
  if hChan h then valueFault
  else if hTile h then pure (hPut h 19 0 (((hfield h 19 0 : Nat) + delta : Int) % (2 ^ 20 : Nat)).toNat)
  else
    let t := (hBase h : Nat) + delta
    if t < 0 ∨ 0xEFFFFFFFFFFF < t then valueFault else pure (hPut h 47 0 t.toNat)

/-- A handle result that is known at once, with its window (R100, R166). -/
def handleResult (hd la : BitVec 4) (v : HandleBits) : M Unit := do
  let (k, c) ← here
  let id ← freshId k c
  retireWindow { file := .handle, reg := hd.toNat, count := la.toNat, result := some v, id }

/-- `hadv` (R166). -/
def execHadv (hd ha : BitVec 4) (rs : BitVec 6) (la : BitVec 4) (s : State) : Host.Outcome State Fault Refusal :=
  runM (do
    makeRoom
    let a ← readS rs
    let t ← myCtx
    let v ← advance (t.handle ha.toNat) a.toInt
    handleResult hd la v) s

/-- `hdim` (R166). -/
def execHdim (hd ha : BitVec 4) (rs : BitVec 6) (la : BitVec 4) (s : State) : Host.Outcome State Fault Refusal :=
  runM (do
    makeRoom
    let a ← readS rs
    let t ← myCtx
    let h := t.handle ha.toNat
    let d := field a 1 0
    require (decide (d ≤ hDims h))
    let start := min (field a 31 16) (hExt h d)
    let n := min (field a 47 32) (hExt h d - start)
    let v ← advance h (start * hStride h d)
    handleResult hd la (hPut v (79 + 16 * d) (64 + 16 * d) n)) s

/-- The bits that a selector names: high and low (R167). -/
def selectorBits (sel : Nat) : Nat × Nat :=
  match sel with
  | 0 => (47, 0)
  | 1 => (53, 48)
  | 2 => (55, 54)
  | 3 => (59, 56)
  | 4 => (62, 60)
  | 5 => (63, 63)
  | n =>
    if n < 12 then (79 + 16 * (n - 8), 64 + 16 * (n - 8))
    else if n < 16 then (strideLow (n - 12) + 23, strideLow (n - 12))
    else (64 * (n - 16) + 63, 64 * (n - 16))

/-- `hset` (R167). -/
def execHset (hd : BitVec 4) (ra : BitVec 6) (k : BitVec 8) (s : State) : Host.Outcome State Fault Refusal :=
  runM (do
    let a ← readS ra
    let (hi, lo) := selectorBits k.toNat
    modMyCtx fun t => t.setHandle hd.toNat (hPut (t.handle hd.toNat) hi lo a.toNat)
    retire) s

/-- `hget` (R167). -/
def execHget (rd : BitVec 6) (ha : BitVec 4) (k : BitVec 8) (s : State) : Host.Outcome State Fault Refusal :=
  runM (do
    let t ← myCtx
    let (hi, lo) := selectorBits k.toNat
    let v := hfield (t.handle ha.toNat) hi lo
    writeS rd (if 12 ≤ k.toNat && k.toNat < 16 then intWord (signedOf 24 v) else word v)
    retire) s

/-! ## Data arrive, stores are performed -/

/-- The data of a load or atomic reach their register, window or queue entry. -/
def Ctx.receive (t : Ctx) (p : Pending) (bs : List Byte) : Ctx :=
  match p.float with
  | some f =>
    let (v, fl) := t.bring f.mode f.code (natOf bs)
    (t.orFlags fl).setFloat f.reg v
  | none => t.fill p.id (p.form.value bs)

/-- LOAD_DATA_ARRIVAL: the data of load `n` of a context are read where they lie and fill its result (R119, R230,
R240). Loads of one byte are performed in program order (R237). -/
def execLoadDataArrival (s : State) : Host.Outcome State Fault Refusal :=
  runEvent (do
    let k := s.input.core
    let c := s.input.ctx
    let t := s.ctx k c
    match t.pending[s.input.n]? with
    | none => notNow
    | some p =>
      if !p.ready || t.olderReads p.seq (farSources k p.bytes) then notNow
      else do
        let bs ← readNow k c p.seq p.bytes p.nt
        modify fun s => s.modCtx k c fun t =>
          ({ t.orFlags p.flags with pending := dropNth t.pending s.input.n } : Ctx).receive p bs) s

/-- HOME_CACHE_WRITE: entry `n` of a core's store path is performed at the home memory-side cache (R230, R252, R253).
Writes of one byte are performed in order, and after an older load of the context has read it (R237). -/
def execHomeCacheWrite (s : State) : Host.Outcome State Fault Refusal :=
  runEvent (do
    let k := s.input.core
    let x := s.core k
    match x.stores[s.input.n]? with
    | none => notNow
    | some e =>
      let pas := e.bytes.map (·.1)
      if (x.stores.take s.input.n).any (fun f => meets (f.bytes.map (·.1)) pas) || x.readsBefore e ||
          pas.any s.stackWaits then notNow
      else set ((s.modCore k fun x => { x with stores := dropNth x.stores s.input.n }).writeHbm e.bytes (!e.nt))) s

/-- NT_LINE_WRITE_OUT: line `n` of a core's non-temporal buffer goes to its home when it is full or the buffer needs
room (R238). -/
def execNtLineWriteOut (s : State) : Host.Outcome State Fault Refusal :=
  runEvent (do
    let k := s.input.core
    let x := s.core k
    match x.nt[s.input.n]? with
    | none => notNow
    | some l => if l.bytes.length = 64 || 8 ≤ x.nt.length then set (s.sendLine k l) else notNow) s

end Sys2Proof.Machine
end

