-- ==== Sys2Proof/Machine/Matrix.lean ====
section
/-! DEFINITION. The matrix array (R78 to R81, R299 to R322): operands and their fetches, the queue, and the instructions
and steps that use them. -/

namespace Sys2Proof.Machine

/-! ## Elements and the K step (R78, R79, R81) -/

/-- Formats of weights and activations (R300). -/
def weightFmt (f : Nat) : Bool := [0x10, 0x11, 0x18, 0x19, 0x00, 0x08].contains f

/-- Formats of accumulator images (R304). -/
def resultFmt (f : Nat) : Bool := [0x12, 0x10, 0x11, 0x04].contains f

/-- Integer weights and activations. -/
def integerFmt (f : Nat) : Bool := f == 0x00 || f == 0x08

/-- The value of an element code of a format, with its block's exponents (R300). -/
def elementValue (f e0 e1 code : Nat) : Num :=
  match f with
  | 0x10 => fmtHalf.decode code
  | 0x11 => fmtBf.decode code
  | 0x18 => fmtSingle.decode (dxbSingle 6 e0 e1 code)
  | 0x19 => fmtSingle.decode (dxbSingle 2 e0 e1 code)
  | 0x08 => Num.ofInt (signedOf 4 code)
  | _ => Num.ofInt (signedOf 8 code)

/-- The integer of a code of an integer format. -/
def elementInt (f code : Nat) : Int := if f = 0x08 then signedOf 4 code else signedOf 8 code

/-- The exact sum of finite values, in units of 2^base. -/
def exactSum (base : Int) (l : List Num) : Int :=
  l.foldl (fun t v =>
    match v with
    | .fin neg m e => t + signedNat neg (scaleTo base m e)
    | _ => t) 0

/-- The least exponent of values. -/
def leastExp (l : List Num) : Int :=
  l.foldl (fun b v =>
    match v with
    | .fin _ _ e => min b e
    | _ => b) 0

/-- A product as a value. -/
def productOf (p : Num × Num) : Num := (mulNum p.1 p.2).1.num

/-- The K step of R79: the new FP32 pattern of an accumulator and its flags. A quiet NaN that stands beside infinities of
both signs sets no NV (DESIGN CHOICE, log 85: R79 gives that result and not its flag). -/
def kStep (acc : Nat) (terms : List (Num × Num)) : Nat × Flag :=
  let a := fmtSingle.decode acc
  let ps := terms.map productOf
  let fl := terms.foldl (fun f p => f ||| (mulNum p.1 p.2).2) (nvIf [a])
  let all := a :: ps
  let infs := all.filter Num.isInf
  if all.any Num.isNan then (fmtSingle.nan, fl &&& flagNV)
  else if infs.any Num.neg && infs.any fun v => !v.neg then (fmtSingle.nan, (fl ||| flagNV) &&& flagNV)
  else
    match infs with
    | v :: _ => (fmtSingle.inf v.neg, fl &&& flagNV)
    | [] =>
      let base := leastExp all
      let t := exactSum base all
      let neg := if t = 0 then all.all fun v => v.isZero && v.neg else decide (t < 0)
      let (p, g) := fmtSingle.roundMag 0 neg t.natAbs base false
      (p, (fl ||| g) &&& (flagNV ||| flagOF))

/-- The INT32 step of R81. -/
def intStep (saturate : Bool) (acc : BitVec 32) (sum : Int) : BitVec 32 × Flag :=
  let t := acc.toInt + sum
  if saturate then
    let c := max (-2 ^ 31) (min t (2 ^ 31 - 1))
    (BitVec.ofInt 32 c, flagIf (c != t) flagSAT)
  else (BitVec.ofInt 32 t, 0#7)

/-! ## Fetching a row (R305, R316) -/

/-- Who fetches: core, context (16 for an invoke), the owner of its requests to other nodes, and the ASID. -/
structure Reader where
  k : Nat
  c : Nat
  owner : Owner
  asid : Nat

/-- What a row's fetch has met: an out-of-range byte, an error value. -/
structure Fetched where
  bytes : List Byte
  oob : Bool := false
  bad : Bool := false

/-- The places of the bytes that elements (n, i) of a row need. -/
def rowBytes (h : HandleBits) (i : Nat) (cols : List Nat) : List (Int × Nat) :=
  cols.flatMap fun n =>
    let p := matrixSpot h n i
    (spotBytes (kind h) p.sub).map fun j => (p.pos, j)

/-- The reference of one byte of an operand, or the fault that its translation meets. -/
def refSpot (r : Reader) (acc : Access) (h : HandleBits) (b : Int × Nat) : M (Except (Word × Nat) ByteRef) :=
  match spotAddr h b.1 b.2 with
  | none => pure (.error (spotWord h b.1 b.2, 0))
  | some a => do
    match ← refByte r.k r.asid acc a with
    | .ok x => pure (.ok x)
    | .error kind => pure (.error (a, kind))

/-- The references of bytes of an operand, and the faults met. -/
def refSpots (r : Reader) (acc : Access) (h : HandleBits) :
    List (Int × Nat) → M (List ByteRef × List (Word × Nat))
  | [] => pure ([], [])
  | b :: bs => do
    let x ← refSpot r acc h b
    let (refs, errs) ← refSpots r acc h bs
    match x with
    | .ok y => pure (y :: refs, errs)
    | .error e => pure (refs, e :: errs)

/-- The fault at the lowest address. -/
def lowestFault : List (Word × Nat) → Option (Word × Nat)
  | [] => none
  | e :: es =>
    match lowestFault es with
    | none => some e
    | some f => if f.1.toNat < e.1.toNat then some f else some e

/-- The requests that a row's bytes on other nodes make, in rising order of address: one for the bytes of a page that lie
within 128 bytes of each other (R316, R425, log 86). -/
def rowRuns (refs : List ByteRef) : List Run :=
  let nodes : Tab Nat := refs.foldl (fun m r =>
    match r with
    | .node n va => Tab.put m va n
    | _ => m) []
  (nodes.foldl (fun acc b =>
    match acc with
    | r :: more =>
      if r.node = b.2 && r.va / 4096 = b.1 / 4096 && b.1 < r.va + 128 then { r with len := b.1 + 1 - r.va } :: more
      else { node := b.2, va := b.1, start := 0, len := 1 } :: acc
    | [] => [{ node := b.2, va := b.1, start := 0, len := 1 }]) []).reverse

/-- Data of runs on other nodes: from the replay store of the context where an entry matches (R318), else from the
node. -/
def fetchNodes (r : Reader) : List Run → M (List (Run × List Byte) × Bool)
  | [] => pure ([], false)
  | x :: xs => do
    let s ← get
    match (s.ctx r.k r.c).replay.find? fun e => e.addr == word x.va && e.data.length == x.len with
    | some e => do
      let (more, bad) ← fetchNodes r xs
      pure ((x, e.data) :: more, bad || e.error)
    | none => do
      let a ← askNode r.owner { node := x.node, asid := r.asid, va := x.va, ask := .load x.len }
      checkAnswer (word x.va) false a
      let bad := decide (4 ≤ a.status)
      let data := if bad then errorBytes x.len else (a.data ++ errorBytes x.len).take x.len
      let (more, e) ← fetchNodes r xs
      pure ((x, data) :: more, bad || e)

/-- The source of a byte of an operand, once other nodes have sent theirs. -/
def spotSource (got : List (Run × List Byte)) (r : ByteRef) : Source :=
  match r with
  | .tile c off => .tile c off
  | .outside _ => .known 0
  | .hbm pa => .hbm pa
  | .node n va =>
    match got.find? fun g => g.1.node == n && decide (g.1.va ≤ va ∧ va < g.1.va + g.1.len) with
    | some g => .known (g.2.getD (va - g.1.va) 0xFF)
    | none => .known 0xFF

/-- The reference lies outside every tile. -/
def ByteRef.isOutside : ByteRef → Bool
  | .outside _ => true
  | _ => false

/-- A reader waits for what must be written first (R277, R313), and a context's for its own earlier loads and atomics of
the bytes (R237). -/
def readerWaits (r : Reader) (refs : List ByteRef) : M Unit := do
  let s ← get
  if (s.ctx r.k r.c).olderReads (s.core r.k).seq (farSources r.k (sourcesOf refs [])) then pause .loads
  else if !s.waitOver r.k r.c (.laneReads (refTiles r.k refs)) then pause (.laneReads (refTiles r.k refs))
  else if !s.waitOver r.k r.c (.globalBytes (refPas refs)) then pause (.globalBytes (refPas refs))
  else if !s.waitOver r.k r.c (.nodeBytes (refNodes refs)) then pause (.nodeBytes (refNodes refs))
  else pure ()

/-- Where the bytes of an operand's row lie, translated before its requests leave (R316); the fault carries no progress
yet. -/
def fetchRefs (r : Reader) (h : HandleBits) (places : List (Int × Nat)) : M (List ByteRef) := do
  let (refs, errs) ← refSpots r .read h places
  match lowestFault errs with
  | some (a, kind) => operandFault a kind false false
  | none => do
    readerWaits r refs
    pure refs

/-- The data of a row under the translation that it was given (R316, R319). -/
def fetchData (r : Reader) (refs : List ByteRef) : M Fetched := do
  let (got, remote) ← fetchNodes r (rowRuns refs)
  if r.c < 16 then do
    noteOutside r.k r.c false refs
    if remote then modify fun s => s.modCtx r.k r.c Ctx.remoteError else pure ()
  else pure ()
  let srcs := refs.map (spotSource got)
  let s ← get
  let bad := (s.badSource r.k r.c (s.core r.k).seq srcs).isSome
  let bytes ← readNow r.k r.c (s.core r.k).seq srcs
  pure { bytes, oob := refs.any ByteRef.isOutside, bad := bad || remote }

/-- A computation whose stop is its result: the state is then the one before it. -/
def attempt {α : Type} (body : M α) : M (Except Stop α) := fun s =>
  match body.run s with
  | .ok (a, s') => .ok (.ok a, s')
  | .error e => .ok (.error e, s)

/-- The bytes of a row whose fetch has left: each with its effective address (R319). -/
abbrev RowLeft := Option (List (Word × ByteRef))

/-- What a fetch of several rows comes to: the rows so far, the stop it met, and the row that has left. -/
structure RowFetch where
  rows : List (List Byte)
  oob : Bool := false
  bad : Bool := false
  stop : Option Stop := none
  left : RowLeft := none
  deriving DecidableEq

/-- Where the bytes of the first row lie: as they did when its fetch left (R319), else as they are translated now. -/
def rowRefs (r : Reader) (h : HandleBits) (places : List (Int × Nat)) (left : RowLeft) : M (List ByteRef) :=
  match left with
  | some bs => pure (bs.map (·.2))
  | none => fetchRefs r h places

/-- Rows are fetched in ascending order (R316); a row outside the mask has nothing to fetch. `left` says that the first
has left under an earlier translation. -/
def fetchRows (r : Reader) (h : HandleBits) (mask : Nat) (cols : List Nat) : RowLeft → List Nat → M RowFetch
  | left, [] => pure { rows := [], left }
  | left, i :: is => do
    if maskBit mask i then
      let places := rowBytes h i cols
      match ← attempt (rowRefs r h places left) with
      | .error e => pure { rows := [], stop := some e }
      | .ok refs =>
        match ← attempt (fetchData r refs) with
        | .error e =>
          pure { rows := [], stop := some e, left := some ((places.map fun b => spotWord h b.1 b.2).zip refs) }
        | .ok f => do
          let m ← fetchRows r h mask cols none is
          pure { m with rows := f.bytes :: m.rows, oob := f.oob || m.oob, bad := f.bad || m.bad }
    else do
      let m ← fetchRows r h mask cols none is
      pure { m with rows := [] :: m.rows }

/-! ## Operands (R304) -/

/-- An operand of the matrix instructions is legal (R304). -/
def checkMatrix (ok : Nat → Bool) (h : HandleBits) : M Unit := do
  if contentOk h && ok (hFmt h) then pure () else handleFault
  require (decide (hDims h ≤ 1) && decide (hLen h 0 ≤ 16) && decide (hLen h 1 ≤ 16) && !hChan h)

/-- The rows that an operand of an instruction fetches, and the columns of each (R305). -/
def MatrixOp.fetchMasks (op : MatrixOp) (h : HandleBits) (s : Word) : Nat × Nat :=
  match op with
  | .loadWeights => (extMask (hLen h 1), extMask (hLen h 0))
  | .multiply => (rowMask h s, depthMask h s)
  | _ => (rowMask h s, colMask h s)

/-! ## Entering and fetching (R302, R316, R317) -/

/-- The entry of a context that is still fetching. -/
def Core.fetching (x : Core) (c : Nat) : Option MatrixEntry := x.matrix.find? fun e => e.ctx == c && !e.fetched

/-- A queue entry changed. -/
def Core.modEntry (x : Core) (id : Nat) (f : MatrixEntry → MatrixEntry) : Core :=
  { x with matrix := x.matrix.map fun e => if e.id = id then f e else e }

/-- The rows that a staging record keeps for an instruction (R317). -/
def Ctx.keptRows (t : Ctx) (pc : Word) (h : HandleBits) (s : Word) : List (List Byte) :=
  match t.staging with
  | some g => if g.pc = pc && g.ha = h && g.s = s then g.rows else []
  | none => []

/-- A new entry of the context in the slot. -/
def newEntry (op : MatrixOp) (h : HandleBits) (s : Word) (fetched : Bool) : M MatrixEntry := do
  let (k, c) ← here
  waitUntil .matrixRoom
  let id ← freshSeq k
  let st ← get
  let x := st.core k
  let t := x.ctx c
  pure { id, ctx := c, op, h, s, pc := st.iss.pc, asid := x.asid.toNat, lid := t.sendLid, hi := t.hi, src := k, fetched,
         rows := [], rowsC := [], map := [], err := 0, oobx := false, flags := 0 }

/-- The entry enters the queue. -/
def pushEntry (e : MatrixEntry) : M Unit := modMyCore fun x => { x with matrix := x.matrix ++ [e] }

/-- The fault of a row's fetch: the entry leaves the queue, and the staging record keeps the leading rows (R316). -/
def fetchFaultIn (old : Ctx) (e : MatrixEntry) (rows : List (List Byte)) (t : Trap) (s : State) : Stop :=
  let s := s.modCore s.iss.core fun x =>
    { x with matrix := x.matrix.filter fun m => m.id != e.id }
  let s := s.modCtx s.iss.core s.iss.ctx fun u =>
    { u with ldq := old.ldq, staging := some { pc := e.pc, ha := e.h, s := e.s, rows } }
  .trapIn { t with info := t.info + word (65536 * rows.length) } s

/-- `mld.w`, `mma` and `mld.r`: the entry's rows are fetched, and the instruction retires with the last (R302). -/
def fetchEntry (old : Ctx) (e : MatrixEntry) : M Unit := do
  let (k, c) ← here
  let (mask, cols) := e.op.fetchMasks e.h e.s
  let have' := e.rows.length
  let r ← fetchRows { k, c, owner := .ctx k c, asid := e.asid } e.h mask (maskList cols)
    e.left ((upFrom 0 (hLen e.h 1)).drop have')
  let rows := e.rows ++ r.rows
  match r.stop with
  | none => do
    modMyCore fun x => x.modEntry e.id fun m => { m with rows, left := none, fetched := true }
    modMyCtx fun t => { t with staging := none, replay := [] }
    retire
  | some (.ask o q) => do
    modMyCore fun x => x.modEntry e.id fun m => { m with rows, left := r.left }
    modify fun s => s.askNode (dieOf k) o q
    holdOn old (.remote q)
  | some (.wait w) => do
    modMyCore fun x => x.modEntry e.id fun m => { m with rows, left := r.left }
    holdOn old w
  | some (.trap t) => do
    let s ← get
    throw (fetchFaultIn old e rows t s)
  | some (.trapIn t _) => do
    let s ← get
    throw (fetchFaultIn old e rows t s)
  | some (.walked t w) => do
    let s ← get
    throw (fetchFaultIn old e rows t (s.withWalks w k))

/-- An instruction with a fetched operand, from its issue or from where its fetch stands. -/
def matrixFetch (op : MatrixOp) (old : Ctx) (h : HandleBits) (s : Word) : M Unit := do
  let (_, c) ← here
  let x ← myCore
  match x.fetching c with
  | some e => fetchEntry old e
  | none => do
    let e ← newEntry op h s false
    let e := { e with rows := old.keptRows e.pc h s }
    pushEntry e
    modMyCtx fun t => { t with staging := none }
    fetchEntry old e

/-- `mld.w` (R306). -/
def execMldW (ha : BitVec 4) (_la : BitVec 4) (s : State) : Host.Outcome State Fault Refusal :=
  runM (do
    let t ← myCtx
    let h := t.handle ha.toNat
    checkMatrix weightFmt h
    matrixFetch .loadWeights t h 0) s

/-- `mma` (R308). -/
def execMma (ha : BitVec 4) (rs : BitVec 6) (_la : BitVec 4) (s : State) : Host.Outcome State Fault Refusal :=
  runM (do
    let t ← myCtx
    let v ← readS rs
    let h := t.handle ha.toNat
    checkMatrix weightFmt h
    require (zeroBits v 63 49)
    matrixFetch .multiply t h v) s

/-- `mld.r` (R310). -/
def execMldR (ha : BitVec 4) (rs : BitVec 6) (_la : BitVec 4) (s : State) : Host.Outcome State Fault Refusal :=
  runM (do
    let t ← myCtx
    let v ← readS rs
    let h := t.handle ha.toNat
    checkMatrix resultFmt h
    matrixFetch .loadAcc t h v) s

/-- A matrix instruction retires: replay entries that it has not used are dropped (R318). -/
def retireMatrix : M Unit := do
  modMyCtx fun t => { t with replay := [] }
  retire

/-- An instruction without operand enters the queue and retires. -/
def matrixPlain (op : MatrixOp) : M Unit := do
  let e ← newEntry op 0 0 true
  pushEntry e
  retireMatrix

/-- `mswap` (R307). -/
def execMswap (s : State) : Host.Outcome State Fault Refusal := runM (matrixPlain .swap) s

/-- `mzero` (R311). -/
def execMzero (s : State) : Host.Outcome State Fault Refusal := runM (matrixPlain .zero) s

/-- `mstat` (R312). -/
def execMstat (rs : BitVec 6) (la : BitVec 4) (s : State) : Host.Outcome State Fault Refusal :=
  runM (do
    let d : Dest := { file := .scalar, reg := rs.toNat, la := la.toNat }
    makeRoomFor d
    let (k, c) ← here
    let x ← myCore
    let v := word (x.active.nvalid.toNat * 2 ^ 48 + x.active.kvalid.toNat * 2 ^ 32 + x.shadow.fmt.toNat * 2 ^ 24
      + x.active.fmt.toNat * 2 ^ 16 + (if x.matrix.any fun e => e.ctx == c then 16 else 0) + x.matrix.length)
    let id ← freshId k c
    modMyCtx fun t => { t with replay := [] }
    retireResult d id (some (v.setWidth 256))) s

/-! ## Confirming pages (R247, R302) -/

/-- The lowest byte in each page among virtual addresses, in rising order of page. -/
def pageFirsts (vas : List Nat) : Tab Nat :=
  vas.foldl (fun m va => Tab.put m (va / 4096) (min va (Tab.get va m (va / 4096)))) []

/-- The publish buffer that an address's leaf names: home die and number (R372, R376). -/
def State.bufferAt (s : State) (k asid va : Nat) : Option (Nat × Nat) :=
  match (s.lookup k asid va).1 with
  | .leaf e => if bit e.leaf 59 && !bit e.leaf 60 then some (field e.leaf 23 22, field e.leaf 21 12) else none
  | _ => none

/-- Every page is translated and checked, and confirmed on its node (R247). A page whose node is unreachable counts as
confirmed, with the second result true (R426). -/
def confirmPages (r : Reader) (acc : Access) : List (Nat × Nat) → M (List Confirmed × Bool)
  | [] => pure ([], false)
  | (page, va) :: more => do
    match ← translate r.k r.asid va acc with
    | .error kind => operandFault (word va) kind (acc != .read) false
    | .ok (.here pa) => do
      let s ← get
      let buffer := s.bufferAt r.k r.asid va
      let (cs, e) ← confirmPages r acc more
      pure ({ asid := r.asid, page, pa := pa / 4096 * 4096, node := none, buffer } :: cs, e)
    | .ok (.node n) => do
      let a ← askNode r.owner { node := n, asid := r.asid, va, ask := if acc = .read then .load 1 else .confirm }
      checkAnswer (word va) (acc != .read) a
      let (cs, e) ← confirmPages r acc more
      pure ({ asid := r.asid, page, pa := 0, node := some n } :: cs, e || decide (4 ≤ a.status))

/-- The virtual addresses of bytes of an operand; one that leaves the address space is unmapped. -/
def spotVas (h : HandleBits) (places : List (Int × Nat)) (write : Bool) : M (List Nat) := do
  if hTile h then pure []
  else
    match lowestFault (places.filterMap fun b =>
        if (spotAddr h b.1 b.2).isNone then some (spotWord h b.1 b.2, 0) else none) with
    | some (a, kind) => operandFault a kind write false
    | none => pure (places.filterMap fun b => (spotAddr h b.1 b.2).map (·.toNat))

/-- A peer's tile is no destination (R221); one of a fused-off site is out of range (R219). -/
def checkPeer (h : HandleBits) (places : List (Int × Nat)) : M Unit := do
  let (k, _) ← here
  let s ← get
  if otherTile k h && s.enabled (peerOf k (hfield h 40 36)) then
    let off := (leastNat (places.map fun b => tileSpot h b.1 + b.2)).getD (hfield h 19 0)
    operandFault (word (0xF100000000000000 + hfield h 40 36 * 2 ^ 48 + off)) 1 true false
  else pure ()

/-- `mst` (R302, R309). -/
def execMst (hd : BitVec 4) (rs : BitVec 6) (_la : BitVec 4) (s : State) : Host.Outcome State Fault Refusal :=
  runM (do
    let t ← myCtx
    let v ← readS rs
    let h := t.handle hd.toNat
    checkMatrix resultFmt h
    let places := resultBytes h v
    checkPeer h places
    let (k, c) ← here
    let asid ← myAsid
    let vas ← spotVas h places true
    let (map, unreachable) ← confirmPages { k, c, owner := .ctx k c, asid } .write (pageFirsts vas)
    if unreachable then modMyCtx Ctx.remoteError else pure ()
    let e ← newEntry .store h v true
    let e := { e with map }
    let st ← get
    waitUntil (.laneBytes (targetTiles (st.targets k e)))
    modify fun s => s.flushPas k (targetPas (s.targets k e))
    pushEntry e
    retireMatrix) s

/-! ## Executing an entry (R305 to R311) -/

/-- Bytes that one staged element takes. -/
def stagedSize (h : HandleBits) : Nat := (spotBytes (kind h) 0).length

/-- The bytes of the `j`-th staged element of a row. -/
def stagedBytes (h : HandleBits) (row : List Byte) (j : Nat) : List Byte :=
  (row.drop (j * stagedSize h)).take (stagedSize h)

/-- Code and exponents of a staged element at column `n` of row `i`. -/
def stagedCode (h : HandleBits) (bs : List Byte) (n i : Nat) : Nat × Nat × Nat :=
  let sub := (matrixSpot h n i).sub
  match kind h with
  | .int _ 4 => (natOf bs / 16 ^ sub % 16, 0, 0)
  | .dxb q =>
    let b := natOf (bs.drop 2)
    (if q = 6 then b else b / 16 ^ (sub % 2) % 16, natOf (bs.take 1), natOf ((bs.drop 1).take 1))
  | _ => (natOf bs, 0, 0)

/-- The place of column `n` among the columns of a mask. -/
def rankIn (mask n : Nat) : Nat := ((upFrom 0 n).filter (maskBit mask)).length

/-- The staged code of element (n, i), fetched under column mask `cols`. -/
def MatrixEntry.code (e : MatrixEntry) (cols n i : Nat) : Nat × Nat × Nat :=
  stagedCode e.h (stagedBytes e.h (e.rows.getD i []) (rankIn cols n)) n i

/-- The plane that `mld.w` writes (R306). -/
def MatrixEntry.plane (e : MatrixEntry) : Plane :=
  let n := hLen e.h 0
  let kk := hLen e.h 1
  let cells := (upFrom 0 kk).flatMap fun d => (upFrom 0 n).map fun c => (d, c)
  { fmt := BitVec.ofNat 6 (hFmt e.h)
    kvalid := BitVec.ofNat 16 (extMask kk)
    nvalid := BitVec.ofNat 16 (extMask n)
    codes := cells.foldl (fun m p => Tab.put m (16 * p.1 + p.2) (BitVec.ofNat 16 (e.code (extMask n) p.2 p.1).1)) []
    e0 := if n = 0 then [] else (upFrom 0 kk).map fun d => (d, BitVec.ofNat 8 (e.code (extMask n) 0 d).2.1)
    e1 := if n = 0 then [] else (upFrom 0 kk).map fun d => (d, BitVec.ofNat 8 (e.code (extMask n) 0 d).2.2) }

/-- The code of weight (d, n). -/
def Plane.code (p : Plane) (d n : Nat) : Nat := (Tab.get 0 p.codes (16 * d + n)).toNat

/-- The value of weight (d, n). -/
def Plane.value (p : Plane) (d n : Nat) : Num :=
  elementValue p.fmt.toNat (Tab.get 0 p.e0 d).toNat (Tab.get 0 p.e1 d).toNat (p.code d n)

/-- One accumulator element of `mma` (R308). -/
def MatrixEntry.macc (e : MatrixEntry) (p : Plane) (acc : BitVec 32) (i n : Nat) : BitVec 32 × Flag :=
  let cols := depthMask e.h e.s
  let ds := maskList (cols &&& p.kvalid.toNat)
  if integerFmt (hFmt e.h) && integerFmt p.fmt.toNat then
    intStep (bit e.s 48) acc
      (ds.foldl (fun t d => t + elementInt (hFmt e.h) (e.code cols d i).1 * elementInt p.fmt.toNat (p.code d n)) 0)
  else
    let (v, fl) := kStep acc.toNat (ds.map fun d =>
      let (c, e0, e1) := e.code cols d i
      (elementValue (hFmt e.h) e0 e1 c, p.value d n))
    (BitVec.ofNat 32 v, fl)

/-- The selected elements (row, column) of `mma` (R305). -/
def MatrixEntry.cells (e : MatrixEntry) (p : Plane) : List (Nat × Nat) :=
  (maskList (rowMask e.h e.s)).flatMap fun i => (maskList (field e.s 31 16 &&& p.nvalid.toNat)).map fun n => (i, n)

/-- `mma` on a sub-tile (R308). -/
def MatrixEntry.multiplyInto (e : MatrixEntry) (p : Plane) (acc : Tab (BitVec 32)) : Tab (BitVec 32) × Flag :=
  (e.cells p).foldl (fun r c =>
    let (v, fl) := e.macc p (Tab.get 0 acc (16 * c.1 + c.2)) c.1 c.2
    (Tab.put r.1 (16 * c.1 + c.2) v, r.2 ||| fl)) (acc, 0#7)

/-- The accumulator pattern of an image element (R310). -/
def widenResult (f code : Nat) : BitVec 32 :=
  match f with
  | 0x10 => BitVec.ofNat 32 (fmtSingle.convert 0 (fmtHalf.decode code)).1
  | 0x11 => BitVec.ofNat 32 (fmtSingle.convert 0 (fmtBf.decode code)).1
  | _ => BitVec.ofNat 32 code

/-- `mld.r` of staged rows into a sub-tile (R310). -/
def loadImage (h : HandleBits) (s : Word) (rows : List (List Byte)) (acc : Tab (BitVec 32)) : Tab (BitVec 32) :=
  let cols := colMask h s
  (selected h s).foldl (fun m c =>
    let bs := stagedBytes h (rows.getD c.2 []) (rankIn cols c.1)
    Tab.put m (16 * c.2 + c.1) (widenResult (hFmt h) (natOf bs))) acc

/-- The bytes of a result element and its flags (R309). -/
def narrowResult (f : Nat) (v : BitVec 32) : List Byte × Flag :=
  match f with
  | 0x10 =>
    let (p, fl) := fmtHalf.convert 0 (fmtSingle.decode v.toNat)
    (bytesOf 2 p, fl &&& (flagNV ||| flagOF))
  | 0x11 =>
    let (p, fl) := fmtBf.convert 0 (fmtSingle.decode v.toNat)
    (bytesOf 2 p, fl &&& (flagNV ||| flagOF))
  | _ => (bytesOf 4 v.toNat, 0#7)

/-- The elements that `mst` writes: distance of each from BASE, its bytes and its flags (R309). -/
def storedElements (h : HandleBits) (s : Word) (acc : Tab (BitVec 32)) : List (Int × List Byte × Flag) :=
  (selected h s).map fun c =>
    let (bs, fl) := narrowResult (hFmt h) (Tab.get 0 acc (16 * c.2 + c.1))
    ((matrixSpot h c.1 c.2).pos, bs, fl)

/-- A write to another node leaves the core (R252, R309); toward an unreachable node it ends with REMERR (R426). -/
def State.sendWrite (s : State) (k c id n asid va : Nat) (data : List Byte) : State :=
  if s.path n ≠ 1 then if c < 16 then s.modCtx k c Ctx.remoteError else s
  else s.askNode (dieOf k) (.matrix k c id) { node := n, asid, va, ask := .store data }

/-- One element of a result is written: in the tile, in HBM under its confirmed translation, or on another node. Bytes
out of range are dropped, and the first is recorded in OOB (R219, R220). -/
def State.writeElement (s : State) (k : Nat) (e : MatrixEntry) (map : List Confirmed) (h : HandleBits)
    (d : Int) (bs : List Byte) : State :=
  if otherTile k h then
    if e.ctx < 16 then s.modCtx k e.ctx fun t => t.outOfRange (spotWord h d 0) else s
  else if hTile h then
    let off := tileSpot h d
    let out := (upFrom off bs.length).find? fun o => decide (0x100000 ≤ o) || identityAt o
    let s := match out with
      | some o => if e.ctx < 16 then s.modCtx k e.ctx fun t => t.outOfRange (tileAddr 0 + word o) else s
      | none => s
    s.modCore k fun x => x.writeTileBytes off bs
  else
    let va := ((hBase h : Nat) + d).toNat
    let one := fun (s : State) (a : Nat) (bs : List Byte) =>
      match confirmedAt map a with
      | some c =>
        match c.node with
        | some n => s.sendWrite k e.ctx e.id n e.asid a bs
        | none => s.writeHbm ((upFrom (c.paWith s s.selNow a) bs.length).zip bs)
      | none => s
    let first := min bs.length (4096 - va % 4096)
    let s := one s va (bs.take first)
    if first < bs.length then one s (va + first) (bs.drop first) else s

/-- `mst` of a sub-tile (R309). -/
def State.storeResult (s : State) (k : Nat) (e : MatrixEntry) (map : List Confirmed) (h : HandleBits) (m : Word)
    (acc : Tab (BitVec 32)) : State × Flag :=
  (storedElements h m acc).foldl (fun r c => (r.1.writeElement k e map h c.1 c.2.1, r.2 ||| c.2.2)) (s, 0#7)

/-- The entry leaves the queue, and its context receives its flags (R313). -/
def State.finishEntry (s : State) (k : Nat) (e : MatrixEntry) (fl : Flag) : State :=
  (s.modCore k fun x => { x with matrix := x.matrix.drop 1 }).modCtx k e.ctx fun t => t.orFlags fl

/-- An `mst` may be performed: earlier stores to its bytes have left the store path, and earlier loads of its context
have read them (R237, R313). -/
def State.storeReady (s : State) (k : Nat) (e : MatrixEntry) : Bool :=
  let pas := targetPas (s.targets k e)
  !((s.core k).stores.any fun f => meets (f.bytes.map (·.1)) pas) &&
  !(((s.core k).ctx e.ctx).pending.any fun p => meets (sourcePas p.bytes) pas) &&
  !pas.any s.stackWaits

/-- The effect of the entry at the head of the queue (R306 to R311). -/
def State.runEntry (s : State) (k : Nat) (e : MatrixEntry) : State :=
  let x := s.core k
  let acc := (x.ctx e.ctx).acc
  match e.op with
  | .loadWeights => (s.modCore k fun x => { x with shadow := e.plane }).finishEntry k e 0
  | .swap => (s.modCore k fun x => { x with active := x.shadow, shadow := x.active }).finishEntry k e 0
  | .zero => (s.modCtx k e.ctx fun t => { t with acc := [] }).finishEntry k e 0
  | .loadAcc => (s.modCtx k e.ctx fun t => { t with acc := loadImage e.h e.s e.rows acc }).finishEntry k e 0
  | .multiply =>
    let (a, fl) := e.multiplyInto x.active acc
    let s := s.modCore k fun x => x.bump 0 4 (maskList (rowMask e.h e.s)).length
    (s.modCtx k e.ctx fun t => { t with acc := a }).finishEntry k e fl
  | .store =>
    let (s, fl) := s.storeResult k e e.map e.h e.s acc
    s.finishEntry k e fl
  | .invoke _ _ _ _ _ => s

/-- MATRIX_ENTRY_EXECUTE: the entry at the head of a core's matrix queue is executed and leaves it (R302). -/
def execMatrixEntryExecute (s : State) : Host.Outcome State Fault Refusal :=
  runEvent (do
    let k := s.input.core
    match (s.core k).matrix with
    | [] => notNow
    | e :: _ =>
      if !e.fetched || e.ctx = 16 || (e.op == .store && !s.storeReady k e) then notNow
      else set (s.runEntry k e)) s

/-! ## Matrix invocation (R321, R322) -/

/-- The handle that payload words make. -/
def handleOfWords (ws : List Word) : HandleBits := ws.getD 3 0 ++ ws.getD 2 0 ++ ws.getD 1 0 ++ ws.getD 0 0

/-- The payload of an invoke breaks R321. -/
def invokeMalformed (p : List Word) : Bool :=
  let w := fun i => p.getD i 0
  let a := handleOfWords ((p.drop 1).take 4)
  let c := handleOfWords ((p.drop 5).take 4)
  let shape := fun (ok : Nat → Bool) (h : HandleBits) =>
    contentOk h && ok (hFmt h) && decide (hDims h ≤ 1 ∧ hLen h 0 ≤ 16 ∧ hLen h 1 ≤ 16) && !hChan h
  !zeroBits (w 0) 63 50 || !shape weightFmt a || !shape resultFmt c || (hTile c && hPeer c) ||
  !zeroBits (w 9) 63 32 || !zeroBits (w 9) 12 0 || !zeroBits (w 10) 63 36 || !zeroBits (w 10) 15 6 ||
  field (w 10) 35 16 % 8 != 0

/-- The queue entry of an invoke (R321). -/
def Msg.entry (m : Msg) (id asid : Nat) : MatrixEntry :=
  let w := fun i => m.payload.getD i 0
  { id, ctx := 16, op := .invoke (handleOfWords ((m.payload.drop 5).take 4)) (w 9) (field (w 10) 35 16)
      (field (w 10) 5 0) (bit (w 0) 49)
    h := handleOfWords ((m.payload.drop 1).take 4), s := word (field (w 0) 48 0), pc := 0, asid
    lid := BitVec.ofNat 16 m.lid, hi := false, src := field m.hdr1 47 32
    fetched := invokeMalformed m.payload, rows := [], rowsC := [], map := []
    err := if invokeMalformed m.payload then 1 else 0, oobx := false, flags := 0 }

/-- MATRIX_INVOKE: the NI takes the matrix-invoke message at the head of the LO inbox into the matrix queue (R321,
R330); no JOBSW command may be busy. -/
def execMatrixInvoke (s : State) : Host.Outcome State Fault Refusal :=
  runEvent (do
    let k := s.input.core
    let x := s.core k
    match x.loInbox with
    | [] => notNow
    | m :: rest =>
      if m.kind ≠ 5 || 8 ≤ x.matrix.length || x.jobBusy then notNow
      else
        let s := s.modCore k fun x =>
          { x.bump 0 3 1 with loInbox := rest, seq := x.seq + 1, matrix := x.matrix ++ [m.entry x.seq x.asid.toNat] }
        set (s.retired k m.lid (originDie s.node m.hdr0 m.hdr1) 1)) s

/-- A stop of an invoke's fetch: a fault of translation or protection ends the fetch with ERR 2, and what was out of range
before it stays recorded (R321, R322); for another stop the entry waits with the rows that it has. -/
def fetchStopped (k : Nat) (e : MatrixEntry) (stop : Stop) : M MatrixEntry :=
  match stop with
  | .trap _ => pure { e with fetched := true, err := 2, left := none }
  | .trapIn _ _ => pure { e with fetched := true, err := 2, left := none }
  | .walked _ w => do
    modify fun s => s.withWalks w k
    pure { e with fetched := true, err := 2, left := none }
  | .ask o q => do
    modify fun s => s.askNode (dieOf k) o q
    pure e
  | .wait _ => pure e

/-- The entry with the rows that a fetch has brought, in the operand or in C's image, and what it met. -/
def MatrixEntry.withRows (e : MatrixEntry) (image : Bool) (r : RowFetch) : MatrixEntry :=
  let e := { e with left := r.left, oobx := e.oobx || r.oob, err := if r.bad then 3 else e.err }
  if image then { e with rowsC := e.rowsC ++ r.rows } else { e with rows := e.rows ++ r.rows }

/-- The pages that an invoke's result is written to are confirmed (R321 step 3). -/
def confirmResult (r : Reader) (c : HandleBits) (s : Word) : M (List Confirmed × Bool) := do
  let vas ← spotVas c (resultBytes c s) true
  confirmPages r .write (pageFirsts vas)

/-- The result of an invoke has a byte outside its tile, or in the identity words. -/
def resultOutside (c : HandleBits) (s : Word) : Bool :=
  hTile c && (resultBytes c s).any fun b =>
    decide (0x100000 ≤ tileSpot c b.1 + b.2) || identityAt (tileSpot c b.1 + b.2)

/-- The invoke's operands are fetched, from the rows that it has on, and C's pages confirmed (R321 step 3). -/
def fetchInvoke (k : Nat) (e : MatrixEntry) (c : HandleBits) (accIn : Bool) : M MatrixEntry := do
  let r : Reader := { k, c := 16, owner := .matrix k 16 e.id, asid := e.asid }
  let rows ← fetchRows r e.h (rowMask e.h e.s) (maskList (depthMask e.h e.s)) e.left
    ((upFrom 0 (hLen e.h 1)).drop e.rows.length)
  let e := e.withRows false rows
  match rows.stop with
  | some stop => fetchStopped k e stop
  | none => do
    let image ← if accIn then
        fetchRows r c (rowMask c e.s) (maskList (colMask c e.s)) e.left ((upFrom 0 (hLen c 1)).drop e.rowsC.length)
      else pure { rows := [] }
    let e := e.withRows true image
    match image.stop with
    | some stop => fetchStopped k e stop
    | none => do
      match ← attempt (confirmResult r c e.s) with
      | .error stop => fetchStopped k e stop
      | .ok (map, unreachable) =>
        pure { e with fetched := true, map, oobx := e.oobx || resultOutside c e.s, err := if unreachable then 3 else e.err }

/-- The run at execution (R321 step 4): the accumulator image or zeros, `mma`, and `mst` to C. -/
def State.runInvoke (s : State) (k : Nat) (e : MatrixEntry) (c : HandleBits) (accIn : Bool) : State × Flag :=
  let x := s.core k
  let acc := if accIn then loadImage c e.s e.rowsC x.acc16 else []
  let (acc, fl) := e.multiplyInto x.active acc
  let s := s.modCore k fun x => { x with acc16 := acc }
  let (s, g) := s.storeResult k e e.map c e.s acc
  (s, fl ||| g)

/-- The reply of an invoke (R322): a copy-completion message of 16 bytes. -/
def invokeReply (k : Nat) (e : MatrixEntry) (rhdr : Word) (stat tag : Nat) (fl : Flag) : Msg :=
  { hdr0 := rhdr
    hdr1 := word (tag * 2 ^ 48 + shortId k * 2 ^ 32 + e.lid.toNat * 2 ^ 16 + 6 * 2 ^ 10 + 256 + 16)
    payload := [word (e.err * 256 + (if e.oobx then 64 else 0) + fl.toNat % 64), word stat] }

/-- MATRIX_INVOKE_RUN: an invoke of a core's queue fetches its operands (R302), and, once it is at the head, runs
(R321). -/
def execMatrixInvokeRun (s : State) : Host.Outcome State Fault Refusal :=
  runEvent (do
    let k := s.input.core
    match ((s.core k).matrix.filter fun e => e.ctx == 16)[s.input.n]? with
    | none => notNow
    | some e =>
      match e.op with
      | .invoke c rhdr stat tag accIn => do
        let e ← if e.fetched then pure e else fetchInvoke k e c accIn
        modify fun s => s.modCore k fun x => x.modEntry e.id fun _ => e
        if e.fetched then modify fun s => s.forget (.matrix k 16 e.id) else pure ()
        let s ← get
        if e.fetched && ((s.core k).matrix.head?.map fun m => m.id) == some e.id then
          let probe := { e with op := .store, h := c }
          if (e.err = 0 || e.err = 3) && !s.storeReady k probe then pure ()
          else
            let (s, fl) := if e.err = 0 || e.err = 3 then s.runInvoke k e c accIn else (s, 0#7)
            let reply : OutEntry :=
              { msg := invokeReply k e rhdr stat tag fl, ctx := 16, node := nodeOf rhdr, dests := s.destsOf rhdr }
            set (s.modCore k fun x => { x with matrix := x.matrix.drop 1, replies := x.replies ++ [reply] })
        else pure ()
      | _ => notNow) s

/-- MATRIX_INVOKE_REPLY: the first reply whose writes are performed leaves for the outbox (R321 step 5, R322). -/
def execMatrixInvokeReply (s : State) : Host.Outcome State Fault Refusal :=
  runEvent (do
    let k := s.input.core
    let x := s.core k
    match x.replies with
    | [] => notNow
    | r :: rest =>
      let waiting := s.writesOut (s.separating k r.node r.dests) fun o =>
        match o with
        | .matrix j 16 _ => j == k
        | _ => false
      if !waiting.isEmpty || 16 ≤ x.outbox.length then notNow
      else
        let s := s.modCore k fun x => { x with replies := rest, outbox := x.outbox ++ [r] }
        set ((s.sent k r.msg.lid r.dests 1).count k r.msg.lid 1)) s

end Sys2Proof.Machine
end

