-- ==== Sys2Proof/Machine/Copy.lean ====
section
/-! DEFINITION. Asynchronous copies (R245 to R249): their checks at issue, their tags, and the steps in which their
elements move. -/

namespace Sys2Proof.Machine

/-! ## Elements (R246) -/

/-- A byte of an element: the element, the distance of its spot from BASE, the byte in it, the nibble for INT4, and the
bits that belong to the element (R55). -/
structure CopyByte where
  elem : Nat
  pos : Int
  j : Nat
  sub : Nat
  mask : Byte := 0xFF

/-- The bytes that element `i` is copied by: a whole block with the first element of a DXB block (R286), but for the
nibble that no element of an odd row fills (R55, log 81). -/
def copyBytes (h : HandleBits) (i : Nat) : List CopyByte :=
  let p := spotOf h i
  match kind h with
  | .int _ 4 => [{ elem := i, pos := p.pos, j := 0, sub := p.sub, mask := if p.sub = 0 then 0x0F else 0xF0 }]
  | .dxb q =>
    if p.sub = 0 then (upFrom 0 (Kind.dxb q).size).map fun j =>
      { elem := i, pos := p.pos, j, sub := 0, mask := if oddByte h (min 32 (hLen h 0 - i % hLen h 0)) = some j then 0x0F else 0xFF }
    else []
  | k => (upFrom 0 k.size).map fun j => { elem := i, pos := p.pos, j, sub := 0 }

/-- The bytes of elements `lo` to `hi`. -/
def copyRange (h : HandleBits) (lo hi : Nat) : List CopyByte := (upFrom lo (hi - lo)).flatMap (copyBytes h)

/-- Distances and bytes of all elements. -/
def copyPlaces (h : HandleBits) : List (Int × Nat) := (copyRange h 0 (hCount h)).map fun b => (b.pos, b.j)

/-- A source byte laid where the destination's element has its bits. -/
def moveBits (src dst : CopyByte) (v : Byte) : Byte :=
  if src.sub = dst.sub then v else if src.sub = 0 then v <<< 4 else v >>> 4

/-! ## At issue (R247, R248) -/

/-- Two handles describe the same tensor for a copy (R247). -/
def copyFits (d a : HandleBits) : Bool :=
  sameFormat d a && hCount a == hCount d &&
  (!(kind a).isDxb || (hLen a 0 == hLen d 0 && hRows a == hRows d)) && !hChan a && !hChan d

/-- Every byte of a destination lies within a publish buffer (R246). -/
def inBuffer (ws : List Word) (h : HandleBits) : Bool :=
  let size : Int := (field (ws.getD 0 0) 31 0 * 4096 : Nat)
  let base : Int := (hBase h : Nat)
  (copyPlaces h).all fun p => decide (0 ≤ base + p.1 + p.2 ∧ base + p.1 + p.2 < size)

/-- The lowest distance from the start of a publish buffer's half at which a destination lies where no translation leads
(R366). -/
def excludedSpot (base : Nat) (h : HandleBits) : Option Nat :=
  leastNat (((copyPlaces h).map fun p => ((hBase h : Int) + p.1 + (p.2 : Int)).toNat).filter fun o => excluded (base + o))

/-- The form that a copy's descriptor and destination make, with the physical base of a shadow half; the value fault
where R247 asks for it. A destination in an area that is excluded from every translation (R366) is the walk error of its
virtual page (log 101). -/
def copyForm (shadow remote : Bool) (v : Word) (d : HandleBits) : M (CopyForm × Nat) := do
  let (k, _) ← here
  let s ← get
  require (zeroBits v 63 32 && zeroBits v 12 6)
  if shadow then
    let n := field v 25 16
    let ws := Tab.get [] (s.die (dieOf k)).publish n
    require (zeroBits v 31 26 && zeroBits v 15 13)
    require (bit (ws.getD 0 0) 63)
    require (inBuffer ws d) (hAddr d)
    let base := halfBase ws (1 - selOf ws)
    match excludedSpot base d with
    | some o => operandFault (word (field (ws.getD 1 0) 55 12 * 4096 + o)) 2 true false
    | none => pure (.shadow (dieOf k) n, base)
  else if remote then
    require (hTile d && !hPeer d) (hAddr d)
    require (s.destinationOk (word (v.toNat % 2 ^ 32)))
    pure (.remote (word (field v 31 13 * 2 ^ 13)), 0)
  else
    require (zeroBits v 31 13)
    pure (.plain, 0)

/-- Tile offsets of the core among the bytes of an operand. -/
def copyTiles (k : Nat) (h : HandleBits) : List Nat :=
  if hTile h && (!hPeer h || peerOf k (hfield h 40 36) == k) then (copyPlaces h).map fun p => tileSpot h p.1 + p.2 else []

/-- The first byte of a tile operand that lies outside the tile or in the tile of a fused-off site,
or, written, in the identity words (R219, R220, R228). -/
def State.outsideSpot (s : State) (k : Nat) (h : HandleBits) (write : Bool) : Option Word :=
  if hTile h then
    let absent := hPeer h && !s.enabled (peerOf k (hfield h 40 36))
    ((copyPlaces h).find? fun p => absent || decide (0x100000 ≤ tileSpot h p.1 + p.2) ||
      (write && identityAt (tileSpot h p.1 + p.2))).bind fun p => spotAddr h p.1 p.2
  else none

/-- Where the bytes of an operand in global memory lie under confirmed pages. -/
def State.copyTargets (s : State) (k : Nat) (map : List Confirmed) (h : HandleBits) : List Target :=
  if hTile h then [] else (copyPlaces h).map fun p => s.targetAt k map h p.1 p.2

/-- Buffered lines that hold a byte of a copy's source or destination go first, so that a later store of the byte leaves
what the copy is to find (R237, R249). -/
def State.flushTargets (s : State) (k asid : Nat) (ts : List Target) : State :=
  s.sendLines k fun l => l.bytes.any fun b =>
    match l.node with
    | none => ts.contains (.hbm (l.pa * 64 + b.1))
    | some n => l.asid == asid && ts.contains (.node n (l.va / 64 * 64 + b.1))

/-- TAGS bit `t` (R248). -/
def tagBit (t : Nat) : Word := word (2 ^ t)

/-- A copy of tag `t` is counted (R248). -/
def Core.countTag (x : Core) (t : Nat) : Core :=
  { x with tags := x.tags &&& ~~~(tagBit t), tagCount := Tab.put x.tagCount t (Tab.get 0 x.tagCount t + 1) }

/-- A copy of tag `t` has completed (R248). -/
def Core.finishTag (x : Core) (t : Nat) : Core :=
  let n := Tab.get 0 x.tagCount t - 1
  { x with tagCount := if n = 0 then Tab.del x.tagCount t else Tab.put x.tagCount t n
           tags := if n = 0 then x.tags ||| tagBit t else x.tags }

/-- `copy`, `copy.h` and `copy.r` (R245 to R248). -/
def issueCopy (shadow remote : Bool) (hd ha : BitVec 4) (rs : BitVec 6) : M Unit := do
  let (k, c) ← here
  let asid ← myAsid
  let v ← readS rs
  let d ← handleAt hd.toNat
  let a ← handleAt ha.toNat
  if contentOk d && contentOk a then pure () else handleFault
  require (copyFits d a)
  let (form, base) ← copyForm shadow remote v d
  if form = .plain then checkPeer d (copyPlaces d) else pure ()
  let r : Reader := { k, c, owner := .ctx k c, asid }
  let reads ← spotVas a (copyPlaces a) false
  let writes ← if form = .plain then spotVas d (copyPlaces d) true else pure []
  let (mapA, e) ← confirmPages r .read (pageFirsts reads)
  let (mapD, f) ← confirmPages r .write (pageFirsts writes)
  let s ← get
  let ta := s.copyTargets k mapA a
  let td := if form = .plain then s.copyTargets k mapD d else []
  waitUntil (.laneReads (copyTiles k a))
  waitUntil (.globalBytes (targetPas (ta ++ td)))
  waitUntil (.nodeBytes (targetNodes (ta ++ td)))
  if form = .plain then waitUntil (.laneBytes (copyTiles k d)) else pure ()
  let t := field v 5 0
  waitUntil (.copyRoom t)
  if e || f then modMyCtx Ctx.remoteError else pure ()
  let s ← get
  match s.outsideSpot k a false with
  | some w => modMyCtx fun t => t.outOfRange w
  | none =>
    match if shadow then none else s.outsideSpot k d true with
    | some w => modMyCtx fun t => t.outOfRange w
    | none => pure ()
  modify fun s => s.flushTargets k asid (ta ++ td)
  let id ← freshSeq k
  modMyCore fun x =>
    let x := x.countTag t
    let u := x.ctx c
    if hCount a = 0 then x.finishTag t
    else { x with copies := x.copies ++ [{ id, ctx := c, tag := t, form, dst := d, src := a, total := hCount a, done := 0
                                           seq := id, asid, lid := u.sendLid, hi := u.hi, map := mapA ++ mapD, base }] }
  retire

/-- `copy` (R246). -/
def execCopy (hd ha : BitVec 4) (rs : BitVec 6) (_la : BitVec 4) (s : State) : Host.Outcome State Fault Refusal :=
  runM (issueCopy false false hd ha rs) s

/-- `copy.h` (R246). -/
def execCopyH (hd ha : BitVec 4) (rs : BitVec 6) (_la : BitVec 4) (s : State) : Host.Outcome State Fault Refusal :=
  runM (issueCopy true false hd ha rs) s

/-- `copy.r` (R246). -/
def execCopyR (hd ha : BitVec 4) (rs : BitVec 6) (_la : BitVec 4) (s : State) : Host.Outcome State Fault Refusal :=
  runM (issueCopy false true hd ha rs) s

/-! ## Moving elements (R249) -/

/-- SEL of a publish buffer for an element: as it was when the element's row was begun (R372). -/
def Copy.sel (s : State) (c : Copy) (h : HandleBits) (sels : Tab Nat) (i : Nat) (b : Nat × Nat) : Nat :=
  if hLen h 0 ≠ 0 && i / hLen h 0 = c.done / hLen h 0 && c.done % hLen h 0 ≠ 0 then
    Tab.get (s.selNow b) sels (1024 * b.1 + b.2)
  else s.selNow b

/-- What SEL was at the start of the row that element `hi` lies in, once the elements below it have been moved. -/
def Copy.latchSels (s : State) (c : Copy) (h : HandleBits) (sels : Tab Nat) (hi : Nat) : Tab Nat :=
  c.map.foldl (fun m p =>
    match p.buffer with
    | some b => Tab.put m (1024 * b.1 + b.2) (c.sel s h sels hi b)
    | none => m) []

/-- Where a byte of the source lies, under the confirmed translations. -/
def Copy.sourceRef (s : State) (k : Nat) (c : Copy) (b : CopyByte) : ByteRef :=
  match spotAddr c.src b.pos b.j with
  | none => .outside 0
  | some a =>
    match s.region k a with
    | .tile t off => .tile t off
    | .virtual va =>
      match confirmedAt c.map va with
      | some m =>
        match m.node with
        | some n => .node n va
        | none => .hbm (m.paWith s (c.sel s c.src c.selsA b.elem) va)
      | none => .outside a
    | _ => .outside a

/-- The place of a destination byte: a tile offset, a virtual address, or a physical address of a shadow half. -/
def Copy.place (c : Copy) (b : CopyByte) : Nat :=
  match c.form with
  | .plain => if hTile c.dst then tileSpot c.dst b.pos + b.j else ((hBase c.dst : Nat) + b.pos + b.j).toNat
  | .shadow _ _ => ((c.base : Nat) + (hBase c.dst : Nat) + b.pos + b.j).toNat
  | .remote _ => tileSpot c.dst b.pos + b.j

/-- Data of runs on other nodes; a run that comes to nothing delivers the error value (R249). -/
def fetchAny (o : Owner) (asid : Nat) : List Run → M (List (Run × List Byte) × Bool)
  | [] => pure ([], false)
  | r :: rs => do
    let x ← askNode o { node := r.node, asid, va := r.va, ask := .load r.len }
    let bad := decide (x.status ≠ 0)
    let data := if bad then errorBytes r.len else (x.data ++ errorBytes r.len).take r.len
    let (more, e) ← fetchAny o asid rs
    pure ((r, data) :: more, bad || e)

/-- The bits that elements `lo` to `hi` write, by place (a mask and values), with the element of each place (R246). -/
def Copy.writes (c : Copy) (lo hi : Nat) (data : List Byte) : Tab (Byte × Byte) × Tab Nat :=
  ((copyRange c.dst lo hi).zip ((copyRange c.src lo hi).zip data)).foldl (fun m p =>
    let mask := p.1.mask
    let v := moveBits p.2.1 p.1 p.2.2 &&& mask
    let old := Tab.get (0, 0) m.1 (c.place p.1)
    (Tab.put m.1 (c.place p.1) (old.1 ||| mask, (old.2 &&& ~~~mask) ||| v), Tab.put m.2 (c.place p.1) p.1.elem)) ([], [])

/-- A byte with some of its bits replaced. -/
def mergeBits (old : Byte) (w : Byte × Byte) : Byte := (old &&& ~~~w.1) ||| w.2

/-- The bits are written in the core's tile (R220). -/
def State.copyToTile (s : State) (k : Nat) (ws : Tab (Byte × Byte)) : State :=
  ws.foldl (fun s w =>
    if w.1 < 0x100000 then s.modCore k fun x => x.writeTile w.1 (mergeBits (Memory.read x.tile w.1) w.2) else s) s

/-- The bits are written in HBM. -/
def State.copyToHbm (s : State) (ws : List (Nat × Byte × Byte)) : State :=
  s.writeHbm (ws.map fun w => (w.1, mergeBits (s.hbmByte w.1) w.2))

/-- Writes to pages of other nodes: the runs of whole bytes are sent as stores, after the bytes that are written in part
have been read (R249). -/
def copyToNodes (k : Nat) (c : Copy) (ws : List (Nat × Nat × Byte × Byte)) : M Unit := do
  let o := Owner.copy k c.id
  let parts := ws.filter fun w => w.2.2.1 != 0xFF
  let (old, _) ← fetchAny o c.asid (nodeRuns (parts.map fun w => ByteRef.node w.1 w.2.1))
  let data := ws.map fun w =>
    match old.findSome? fun g =>
      if g.1.node = w.1 && g.1.va ≤ w.2.1 && w.2.1 < g.1.va + g.1.len then some (g.2.getD (w.2.1 - g.1.va) 0) else none with
    | some b => mergeBits b w.2.2
    | none => w.2.2.2
  modify fun s => (nodeRuns (ws.map fun w => ByteRef.node w.1 w.2.1)).foldl (fun s r =>
    if s.path r.node ≠ 1 then s.modCtx k c.ctx Ctx.remoteError
    else s.askNode (dieOf k) o { node := r.node, asid := c.asid, va := r.va, ask := .store ((data.drop r.start).take r.len) }) s

/-- Consecutive bytes, at most 192, of the writes of a `copy.r`. -/
def copyParts : List (Nat × Byte × Byte) → List (List (Nat × Byte × Byte))
  | [] => []
  | w :: ws =>
    match copyParts ws with
    | (v :: p) :: more =>
      if v.1 = w.1 + 1 && p.length < 191 then (w :: v :: p) :: more else [w] :: (v :: p) :: more
    | more => [w] :: more

/-- A deposit of a `copy.r` (R246). -/
def Copy.deposit (k : Nat) (c : Copy) (dest : Word) (bytes : List (Nat × Byte × Byte)) : Msg :=
  { hdr0 := word ((bytes.head?.map (·.1)).getD 0 % 2 ^ 20 * 2 ^ 32) ||| dest
    hdr1 := headerWord 0 (shortId k) c.lid.toNat 0 1 false c.hi bytes.length
    payload := wordsOf (ceilDiv bytes.length 8) (bytes.map fun b => b.2.2) }

/-- The deposits enter the outbox; the last one of the copy asks for its completion message. -/
def State.copyToCore (s : State) (k : Nat) (c : Copy) (dest : Word) (final : Bool) :
    List (List (Nat × Byte × Byte)) → State
  | [] => s
  | p :: ps =>
    let last := if final && ps.isEmpty then some c.tag else none
    State.copyToCore (s.accept k
      { msg := c.deposit k dest p, ctx := c.ctx, node := nodeOf dest, dests := s.destsOf dest
        part := some { bytes := p, last } }) k c dest final ps

/-- A copy's entry changed. -/
def Core.modCopy (x : Core) (id : Nat) (f : Copy → Copy) : Core :=
  { x with copies := x.copies.map fun c => if c.id = id then f c else c }

/-- Earlier accesses of the context to the physical bytes that a copy writes have been performed (R237). -/
def State.copyMayWrite (s : State) (k : Nat) (c : Copy) (pas : List Nat) : Bool :=
  let x := s.core k
  !x.storesBefore c.ctx c.seq pas && !((x.ctx c.ctx).olderReads c.seq (pas.map Source.hbm)) && !pas.any s.stackWaits

/-- A queued `mst` of the core will write one of the bytes (R313). -/
def State.mstWill (s : State) (k : Nat) (refs : List ByteRef) : Bool :=
  (refTiles k refs).any (s.mstTile k) || (refPas refs).any (s.mstPa k) || (refNodes refs).any (s.mstNode k)

/-- The bytes that writes of a copy to its local tile or to global memory go to, under its confirmed translations: a
place, and the element that is written there. -/
def Copy.targetRef (s : State) (k : Nat) (c : Copy) (elems : Tab Nat) (place : Nat) : ByteRef :=
  if hTile c.dst then if otherTile k c.dst || decide (0x100000 ≤ place) then .outside 0 else .tile k place
  else
    match confirmedAt c.map place with
    | some m =>
      match m.node with
      | some n => .node n place
      | none => .hbm (m.paWith s (c.sel s c.dst c.selsD (Tab.get 0 elems place)) place)
    | none => .outside 0

/-- Elements up to `hi` of a copy move (R249). -/
def moveElements (k : Nat) (c : Copy) (hi : Nat) : M Unit := do
  let o := Owner.copy k c.id
  let s ← get
  let refs := (copyRange c.src c.done hi).map (c.sourceRef s k)
  if s.mstWill k refs then notNow else pure ()
  let (got, bad) ← fetchAny o c.asid (nodeRuns refs)
  if bad then modify fun s => s.modCtx k c.ctx Ctx.remoteError else pure ()
  let data ← readNow k c.ctx c.seq (sourcesOf refs got)
  let (ws, elems) := c.writes c.done hi data
  match c.form with
  | .plain => do
    let s ← get
    let dsts := ws.map fun w => c.targetRef s k elems w.1
    if s.mstWill k dsts then notNow else pure ()
    let puts := dsts.zip (ws.map (·.2))
    let here := puts.filterMap fun w =>
      match w.1 with
      | .hbm pa => some (pa, w.2)
      | _ => none
    let there := puts.filterMap fun w =>
      match w.1 with
      | .node n va => some (n, va, w.2)
      | _ => none
    let tile := puts.filterMap fun w =>
      match w.1 with
      | .tile _ off => some (off, w.2)
      | _ => none
    if s.copyMayWrite k c (here.map (·.1)) then pure () else notNow
    copyToNodes k c there
    modify fun s => (s.copyToTile k tile).copyToHbm here
  | .shadow _ _ => do
    let s ← get
    if s.copyMayWrite k c (ws.map (·.1)) then modify fun s => s.copyToHbm ws else notNow
  | .remote dest => do
    let s ← get
    let parts := copyParts ws
    if (s.core k).outbox.length + parts.length ≤ 16 then
      modify fun s => s.copyToCore k c dest (hi == c.total) parts
    else notNow
  modify fun s => (s.forget o).modCore k fun x => x.modCopy c.id fun e =>
    { e with done := hi, selsA := c.latchSels s c.src c.selsA hi, selsD := c.latchSels s c.dst c.selsD hi }

/-- Every byte of the copy has been written (R248). -/
def State.copyWritten (s : State) (k : Nat) (c : Copy) : Bool :=
  c.done == c.total &&
  (match c.form with
   | .remote _ => false
   | _ => true) &&
  !(s.requests.any fun r => r.2.owner = .copy k c.id)

/-- A step of a copy can end before element `m`: DXB blocks are copied whole (R246). -/
def Copy.mayEnd (c : Copy) (m : Nat) : Bool :=
  decide (m ≤ c.total) && (m == c.total || !(kind c.src).isDxb || (spotOf c.src m).sub == 0)

/-- COPY_DONE: one of the four oldest copies of a core moves its elements up to `m`; one that has written its last byte
completes (R248, R249). -/
def execCopyDone (s : State) : Host.Outcome State Fault Refusal :=
  runEvent (do
    let k := s.input.core
    match if s.input.n < 4 then (s.core k).copies[s.input.n]? else none with
    | none => notNow
    | some c => do
      if c.done < s.input.m && c.mayEnd s.input.m then moveElements k c s.input.m
      else if s.copyWritten k c then pure ()
      else notNow
      let s ← get
      match (s.core k).copies.find? fun e => e.id == c.id with
      | none => pure ()
      | some c =>
        if s.copyWritten k c then
          set ((s.modCore k fun x =>
            { x.finishTag c.tag with copies := x.copies.filter fun e => e.id != c.id }).forget (.copy k c.id))
        else pure ()) s

end Sys2Proof.Machine
end

