-- ==== Sys2Proof/Machine/Atomics.lean ====
section
/-! DEFINITION. Atomics (R241 to R244): the operations, the `amo.*` instructions, and the cluster atomic engines. -/

namespace Sys2Proof.Machine

/-! ## The operations (R241, R342) -/

/-- The width in bytes of an operation code of R342. -/
def atomicWidth (op : Nat) : Nat := if op = 10 then 4 else 8

/-- The new value and the flags of an operation code of R342; `x` is the compared value of cas (R241). -/
def atomicNew (op : Nat) (old b x : Word) : Word × Flag :=
  match op with
  | 0 => (old + b, 0)
  | 1 => (old &&& b, 0)
  | 2 => (old ||| b, 0)
  | 3 => (old ^^^ b, 0)
  | 4 => (if old.toInt ≤ b.toInt then old else b, 0)
  | 5 => (if old.toInt ≤ b.toInt then b else old, 0)
  | 6 => (if old.toNat ≤ b.toNat then old else b, 0)
  | 7 => (if old.toNat ≤ b.toNat then b else old, 0)
  | 8 => (b, 0)
  | 9 => (if old = x then b else old, 0)
  | _ =>
    let (v, fl) := fmtSingle.finish 0 (addNum 0 (fmtSingle.decode (field old 31 0)) (fmtSingle.decode (field b 31 0)))
    (word v, fl &&& (flagNV ||| flagOF))

/-- An atomic of the owning core or of a deposit on a tile word: the old value, the flags, and the state (R242, R244). A
word that cannot be corrected reads as all ones and is left as it is (log 17); a word outside the tile reads 0, and
the identity words drop the write (R220, R228). -/
def State.tileAtomic (s : State) (k off op : Nat) (b x : Word) : Word × Flag × State :=
  let n := atomicWidth op
  let offs := upFrom off n
  let old := wordOf (s.tileBytes k offs)
  let (v, fl) := atomicNew op old b x
  if (s.tileFault k offs).isSome then (old, 0, s.noteRead k offs)
  else (old, fl, (s.noteRead k offs).modCore k fun c => c.writeTileBytes off (bytesOf n v.toNat))

/-! ## The instructions (R241) -/

/-- The executing point of an atomic, and its old value where it is known at once (R242). An address that
faults does so before the wait for room in s60 (log 104). -/
def atomicAt (old : Ctx) (d : Dest) (op : Nat) (a b x : Word) : M Unit := do
  let (k, c) ← here
  let asid ← myAsid
  let n := atomicWidth op
  let refs ← accessRefs .both n a true
  needEntry d
  awaitWrites refs
  noteOutside k c true refs
  let id ← freshId k c
  match refs with
  | .tile _ off :: _ => do
    let s ← get
    let (was, fl, s') := s.tileAtomic k off op b x
    set (match s.tileFault k (upFrom off n) with
      | some o => s'.machineCheck k c 1 (tileAddr o)
      | none => s')
    modMyCtx fun t => t.orFlags fl
    retireResult d id (some (was.setWidth 256))
  | .outside _ :: _ => retireResult d id (some 0)
  | .hbm pa :: _ => do
    modify fun s => s.flushPas k (upFrom pa n)
    let seq ← freshSeq k
    let (die, cluster) := engineOf pa
    let port := if dieOf k = die && clusterOf k = cluster then ccOf k else 32
    modify fun s => s.modDie die fun y =>
      let e := Tab.get {} y.atomics cluster
      { y with atomics := Tab.put y.atomics cluster { e with queue := e.queue ++
          [{ seq, port, hi := (s.ctx k c).hi, pa, op, b, x, core := k, ctx := c, id }] } }
    retireResult d id none
    modMyCtx fun t => { t with pending := t.pending ++
      [{ id, bytes := (upFrom pa n).map Source.hbm, form := .unsigned, seq, ready := false, asid, va := a.toNat }] }
  | .node m va :: _ => do
    match ← askOnce old { node := m, asid, va, ask := .atomic op b x } with
    | none => pure ()
    | some r => do
      checkAnswer a true r
      if 4 ≤ r.status then modMyCtx Ctx.remoteError else pure ()
      let data := if 4 ≤ r.status then errorBytes n else r.data.take n
      if r.status = 0 then modMyCtx fun t => t.orFlags (atomicNew op (word (natOf data)) b x).2 else pure ()
      retireResult d id (some (BitVec.ofNat 256 (natOf data)))
  | [] => pure ()

/-- `amo.*` (R241). -/
def scalarAtomic (op : Nat) (rd ra rb : BitVec 6) (la : BitVec 4) : M Unit := do
  let d : Dest := { file := .scalar, reg := rd.toNat, la := la.toNat }
  if op = 9 && rd = 60#6 then valueFault else pure ()
  let old ← myCtx
  makeRoomFor d
  let t ← myCtx
  let x := t.scalar rd.toNat
  let a ← readS ra
  let b ← readS rb
  require (a.toNat % atomicWidth op == 0) a
  atomicAt old d op a b x

/-- `amo.add` (R241). -/
def execAmoAdd (rd ra rb : BitVec 6) (la : BitVec 4) (s : State) : Host.Outcome State Fault Refusal :=
  runM (scalarAtomic 0 rd ra rb la) s

/-- `amo.and` (R241). -/
def execAmoAnd (rd ra rb : BitVec 6) (la : BitVec 4) (s : State) : Host.Outcome State Fault Refusal :=
  runM (scalarAtomic 1 rd ra rb la) s

/-- `amo.or` (R241). -/
def execAmoOr (rd ra rb : BitVec 6) (la : BitVec 4) (s : State) : Host.Outcome State Fault Refusal :=
  runM (scalarAtomic 2 rd ra rb la) s

/-- `amo.xor` (R241). -/
def execAmoXor (rd ra rb : BitVec 6) (la : BitVec 4) (s : State) : Host.Outcome State Fault Refusal :=
  runM (scalarAtomic 3 rd ra rb la) s

/-- `amo.min` (R241). -/
def execAmoMin (rd ra rb : BitVec 6) (la : BitVec 4) (s : State) : Host.Outcome State Fault Refusal :=
  runM (scalarAtomic 4 rd ra rb la) s

/-- `amo.max` (R241). -/
def execAmoMax (rd ra rb : BitVec 6) (la : BitVec 4) (s : State) : Host.Outcome State Fault Refusal :=
  runM (scalarAtomic 5 rd ra rb la) s

/-- `amo.minu` (R241). -/
def execAmoMinu (rd ra rb : BitVec 6) (la : BitVec 4) (s : State) : Host.Outcome State Fault Refusal :=
  runM (scalarAtomic 6 rd ra rb la) s

/-- `amo.maxu` (R241). -/
def execAmoMaxu (rd ra rb : BitVec 6) (la : BitVec 4) (s : State) : Host.Outcome State Fault Refusal :=
  runM (scalarAtomic 7 rd ra rb la) s

/-- `amo.swap` (R241). -/
def execAmoSwap (rd ra rb : BitVec 6) (la : BitVec 4) (s : State) : Host.Outcome State Fault Refusal :=
  runM (scalarAtomic 8 rd ra rb la) s

/-- `amo.cas` (R241). -/
def execAmoCas (rd ra rb : BitVec 6) (la : BitVec 4) (s : State) : Host.Outcome State Fault Refusal :=
  runM (scalarAtomic 9 rd ra rb la) s

/-- `amo.fadd` (R241). -/
def execAmoFadd (rd ra rb : BitVec 6) (la : BitVec 4) (s : State) : Host.Outcome State Fault Refusal :=
  runM (scalarAtomic 10 rd ra rb la) s

/-! ## The cluster atomic engine (R243) -/

/-- The bytes of HBM that a request updates. -/
def AtomicReq.pas (q : AtomicReq) : List Nat := if q.deposit.isSome then [] else upFrom q.pa (atomicWidth q.op)

/-- A request can be performed: its line can be read, the stores of its core to its bytes that stood in the store path
when it issued have been performed, whichever context stored (R252, R253), and so have the older loads of its context
(R237). -/
def State.atomicReady (s : State) (q : AtomicReq) : Bool :=
  q.deposit.isSome || (!s.stackWaits q.pa &&
    (q.node.isSome ||
      (!((s.core q.core).stores.any fun e => decide (e.seq < q.seq) && meets (e.bytes.map (·.1)) q.pas) &&
       !((s.ctx q.core q.ctx).olderReads q.seq (q.pas.map Source.hbm)))))

/-- The heads of the ports: for each port its oldest request, with its place in the queue. -/
def portHeads (queue : List AtomicReq) : List (Nat × AtomicReq) :=
  (upFrom 0 33).filterMap fun p => (queue.zipIdx.find? fun q => q.1.port == p).map fun q => (q.2, q.1)

/-- The distance of a port from the one last served (R243). -/
def portTurn (last port : Nat) : Nat := (port + 66 - (last + 1)) % 33

/-- The head of a class that comes next. -/
def nextHead (last : Nat) : List (Nat × AtomicReq) → Option (Nat × AtomicReq)
  | [] => none
  | q :: rest =>
    match nextHead last rest with
    | none => some q
    | some r => if portTurn last r.2.port < portTurn last q.2.port then some r else some q

/-- The request that the engine performs next (R243). -/
def State.atomicChoice (s : State) (e : AtomicEngine) : Option (Nat × AtomicReq) :=
  let heads := (portHeads e.queue).filter fun q => s.atomicReady q.2
  match nextHead e.lastHi (heads.filter fun q => q.2.hi) with
  | some q => some q
  | none => nextHead e.lastLo (heads.filter fun q => !q.2.hi)

/-- The reply to another node leaves by the port that its request came by (R425). -/
def State.respond (s : State) (port : Nat) (packet : Packet) : State := s.toPort port { packet with src := s.node } 0 0

/-- The old value returns to the context or to the node that asked (R241, R425). -/
def State.atomicReply (s : State) (q : AtomicReq) (old : Word) (fl : Flag) (bad : Bool) : State :=
  let n := atomicWidth q.op
  match q.node with
  | some m => s.respond q.exit
      { kind := 0x23, txid := q.txid, dst := m, len := 8, word1 := if bad then 4 else 0, data := bytesOf 8 old.toNat }
  | none =>
    let s := if bad then s.machineCheck q.core q.ctx 1 (word q.pa) else s
    s.modCtx q.core q.ctx fun t => { t with pending := t.pending.map fun p =>
      if p.id = q.id && !p.ready then
        { p with ready := true, bytes := (bytesOf n old.toNat).map Source.known, flags := fl }
      else p }

/-- A line enters the hot store of its engine, 512 lines with the most recently used first (R243). -/
def State.heat (s : State) (pa : Nat) : State :=
  let (d, c) := engineOf pa
  s.modDie d fun y =>
    let e := Tab.get {} y.atomics c
    { y with atomics := Tab.put y.atomics c { e with hot := ((pa / 64) :: e.hot.erase (pa / 64)).take 512 } }

/-- An atomic on a line of HBM: read, updated and written through (R243); a line that delivers the error value is left
as it is (R231). -/
def State.hbmAtomic (s : State) (q : AtomicReq) : State :=
  let n := atomicWidth q.op
  let pas := upFrom q.pa n
  let bad := pas.any s.badByte
  let old := if bad then wordOf (errorBytes n) else wordOf (s.hbmBytes q.pa n)
  let (v, fl) := atomicNew q.op old q.b q.x
  let s := (if bad then s else s.writeHbm (pas.zip (bytesOf n v.toNat))).heat q.pa
  s.atomicReply q old (if bad then 0 else fl) bad

/-- A sink has been consumed: the launch's delta falls, and the core counts it (R22, R33, R415). -/
def State.consumed (s : State) (f : Flight) (n : Nat) : State :=
  let s := s.modCore f.dest fun x => x.bump 0 3 1
  if f.counted then s.retired f.dest f.msg.lid (originDie s.node f.msg.hdr0 f.msg.hdr1) n else s

/-- The update of an atomic deposit at its destination tile (R342). -/
def State.depositAtomic (s : State) (f : Flight) : State :=
  let w := fun i => f.msg.payload.getD i 0
  let (_, _, s) := s.tileAtomic f.dest (f.msg.offset % 2 ^ 20) (field (w 0) 3 0) (w 1) (w 2)
  s.consumed f 1

/-- CLUSTER_ATOMIC: a cluster's engine performs the atomic that R243 chooses; an atomic deposit goes on to its tile
(R242). -/
def execClusterAtomic (s : State) : Host.Outcome State Fault Refusal :=
  runEvent (do
    let d := s.input.die
    let c := s.input.n
    let e := Tab.get {} (s.die d).atomics c
    match s.atomicChoice e with
    | none => notNow
    | some (i, q) =>
      let e := { e with queue := dropNth e.queue i
                        lastHi := if q.hi then q.port else e.lastHi
                        lastLo := if q.hi then e.lastLo else q.port }
      let s := s.modDie d fun y => { y with atomics := Tab.put y.atomics c e }
      match q.deposit with
      | some f => set (s.depositAtomic f)
      | none => set (s.hbmAtomic q)) s

end Sys2Proof.Machine
end

