-- ==== Sys2Proof/Machine/Sync.lean ====
section
/-! DEFINITION. Sync objects (R254 to R259): `acq`, `rel`, `fence` and `drain` (R257 to R262), and the home engines that
grant lock requests. -/

namespace Sys2Proof.Machine

/-! ## Lock words (R254, R256) -/

/-- Bits 62:54 of a lock word are zero. -/
def lockClean (w : Word) : Bool := zeroBits w 62 54

/-- The lock word with bits hi:lo replaced. -/
def lockPut (w : Word) (hi lo x : Nat) : Word := word (putField w.toNat hi lo x)

/-- The lock word after a request is granted, if it can be (R256). `node` is the requester's node. -/
def lockGrant (node : Nat) (q : LockReq) (w : Word) : Option Word :=
  if bit w 63 then none
  else if q.shared then
    if field w 31 16 < 65535 then some (lockPut w 31 16 (field w 31 16 + 1)) else none
  else if field w 31 16 = 0 then some (lockPut (lockPut (lockPut w 63 63 1) 53 48 node) 47 32 q.core)
  else none

/-- A release is in error (R259). -/
def releaseError (node : Nat) (q : LockReq) (w : Word) : Bool :=
  if q.shared then bit w 63 || field w 31 16 == 0
  else !bit w 63 || field w 53 48 != node || field w 47 32 != q.core

/-- The lock word after a release (R256). -/
def lockRelease (shared : Bool) (w : Word) : Word :=
  if shared then lockPut w 31 16 (field w 31 16 - 1)
  else lockPut (lockPut (lockPut w 63 63 0) 53 32 0) 15 0 (field w 15 0 + 1)

/-- The heads of an object's wait list are granted in order while the lock word allows it (R256). -/
def grantHeads (own : Nat) : List LockReq → Word → Word × List LockReq
  | [], w => (w, [])
  | q :: qs, w =>
    match lockGrant (q.node.getD own) q w with
    | none => (w, [])
    | some w' =>
      let (v, gs) := grantHeads own qs w'
      (v, q :: gs)

/-! ## The engines -/

/-- The requester learns that its request is granted or its release done, or that it is in error (R257, R259). -/
def State.answerLock (s : State) (q : LockReq) (ok : Bool) : State :=
  match q.node with
  | some m => s.respond q.port { kind := 0x24, txid := q.txid, dst := m, word1 := if ok then 256 else 0 }
  | none => s.modCtx q.core q.ctx fun t =>
    if t.latch = .asked then { t with latch := .answered (if ok then 0 else 1) } else t

/-- The lock word as its engine reads it. -/
def State.lockWord (s : State) (pa : Nat) : Word := wordOf (s.hbmBytes pa 8)

/-- The engine updates a lock word (R243). -/
def State.setLock (s : State) (pa : Nat) (w : Word) : State :=
  (s.writeHbm ((upFrom pa 8).zip (bytesOf 8 w.toNat))).heat pa

/-- The engine can serve the request now: the line can be read, and the core's earlier stores to the word have been
performed (R237). -/
def State.lockReady (s : State) (q : LockReq) : Bool :=
  !s.stackWaits q.pa &&
  (q.node.isSome || !((s.core q.core).stores.any fun e => e.bytes.any fun b => b.1 / 8 == q.pa / 8))

/-- Requests that wait for the engine of an address. -/
def State.lockQueue (s : State) (pa : Nat) : List LockReq :=
  (s.die (homeDie pa)).waiting.filter fun q => engineOf q.pa == engineOf pa

/-- An engine serves a request (R256): it is granted, waits in the list of 256, or is refused. -/
def State.serveLock (s : State) (q : LockReq) : State :=
  let w := s.lockWord q.pa
  if !lockClean w then s.answerLock q false
  else
    let grant := if (s.lockQueue q.pa).any fun r => r.pa == q.pa then none else lockGrant (q.node.getD s.node) q w
    match grant with
    | some w' => (s.setLock q.pa w').answerLock q true
    | none =>
      if (s.lockQueue q.pa).length < 256 then
        s.modDie (homeDie q.pa) fun d => { d with waiting := d.waiting ++ [q] }
      else { s with retries := s.retries ++ [q] }

/-- An engine serves a release (R256, R259). -/
def State.serveRelease (s : State) (q : LockReq) : State :=
  let w := s.lockWord q.pa
  if !lockClean w || releaseError (q.node.getD s.node) q w then s.answerLock q false
  else
    let (v, gs) := grantHeads s.node ((s.lockQueue q.pa).filter fun r => r.pa == q.pa) (lockRelease q.shared w)
    let s := (s.setLock q.pa v).answerLock q true
    let s := s.modDie (homeDie q.pa) fun d => { d with waiting := d.waiting.filter fun r => !gs.contains r }
    gs.foldl (fun s r => s.answerLock r true) s

/-- LOCK_REQUEST: request `n` of those on their way reaches its home engine (R256, R258). -/
def execLockRequest (s : State) : Host.Outcome State Fault Refusal :=
  runEvent (do
    match s.locks[s.input.n]? with
    | none => notNow
    | some q =>
      if q.release || !s.lockReady q then notNow
      else set (({ s with locks := dropNth s.locks s.input.n } : State).serveLock q)) s

/-- LOCK_RELEASE: release `n` of those on their way reaches its home engine (R256, R259). -/
def execLockRelease (s : State) : Host.Outcome State Fault Refusal :=
  runEvent (do
    match s.locks[s.input.n]? with
    | none => notNow
    | some q =>
      if !q.release || !s.lockReady q then notNow
      else set (({ s with locks := dropNth s.locks s.input.n } : State).serveRelease q)) s

/-- LOCK_RETRY: a core repeats a request that was refused (R256). -/
def execLockRetry (s : State) : Host.Outcome State Fault Refusal :=
  runEvent (do
    match s.retries.find? fun q => q.core == s.input.core && q.ctx == s.input.ctx with
    | none => notNow
    | some q => set { s with retries := s.retries.erase q, locks := s.locks ++ [q] }) s

/-! ## The instructions (R257) -/

/-- An object operand: the lock word's address and the mode (R257). -/
structure LockOperand where
  addr : Word
  shared : Bool

/-- The object operand in a register, and where its lock word lies. -/
def lockOperand (ra : BitVec 6) : M LockOperand := do
  let v ← readS ra
  let o := v &&& ~~~(7#64)
  require (field v 2 1 == 0 && !tileSpace v) o
  pure { addr := o, shared := bit v 0 }

/-- The request goes on its way to the home engine. -/
def sendLock (old : Ctx) (release : Bool) (o : LockOperand) (pa : Nat) (w : WaitOn) : M Unit := do
  let (k, c) ← here
  let asid ← myAsid
  modify fun s =>
    let s := s.flushPas k (upFrom pa 8)
    { s with locks := s.locks ++
      [{ release, shared := o.shared, pa, core := k, ctx := c, node := none, asid, va := o.addr.toNat }] }
  awaitAnswer old w

/-- Another node's engine has answered (R425, R426). -/
def remoteLock (o : LockOperand) (a : Answer) : M Unit := do
  checkAnswer o.addr true a
  if 4 ≤ a.status then modMyCtx Ctx.remoteError
  else if a.data.isEmpty then valueFault o.addr
  else pure ()
  retire

/-- `acq` (R258): a request that waits is at an instruction boundary. -/
def execAcq (ra : BitVec 6) (_k : BitVec 8) (s : State) : Host.Outcome State Fault Refusal :=
  runM (do
    let old ← myCtx
    let o ← lockOperand ra
    match old.latch with
    | .answered w => if w = 0 then retire else valueFault o.addr
    | _ => do
      waitUntil .loads
      match ← accessRefs .both 8 o.addr true with
      | .hbm pa :: _ => sendLock old false o pa .lock
      | .node n va :: _ => do
        let (k, c) ← here
        let asid ← myAsid
        remoteLock o (← askNode (.ctx k c) { node := n, asid, va, ask := .acquire o.shared })
      | _ => pure ()) s

/-- `rel` (R259): once the release is on its way the instruction is not at a boundary. -/
def execRel (ra : BitVec 6) (k : BitVec 8) (s : State) : Host.Outcome State Fault Refusal :=
  runM (do
    let old ← myCtx
    let o ← lockOperand ra
    match old.latch with
    | .answered w => if w = 0 then retire else valueFault o.addr
    | l => do
      let asid ← myAsid
      if l = .none then waitPerformed k.toNat (some (asid, o.addr.toNat)) else pure ()
      match ← accessRefs .both 8 o.addr true with
      | .hbm pa :: _ => sendLock old true o pa .answer
      | .node n va :: _ => do
        match ← askOnce old { node := n, asid, va, ask := .release o.shared } with
        | none => pure ()
        | some a => remoteLock o a
      | _ => pure ()) s

/-- `fence` (R260). -/
def execFence (s : State) : Host.Outcome State Fault Refusal :=
  runM (do
    waitFenced s.iss.code.k8.toNat
    retire) s

/-- `drain` (R262): the buffered lines that hold the context's bytes go at once, and the instruction waits until they
are performed. -/
def execDrain (s : State) : Host.Outcome State Fault Refusal :=
  runM (do
    let old ← myCtx
    let (k, c) ← here
    modify fun s => s.flushCtx k c
    let s ← get
    let w := WaitOn.drained s.iss.code.k8.toNat
    if s.waitOver k c w then retire else holdOn old w) s

end Sys2Proof.Machine
end

