-- ==== Sys2Proof/Machine/Messages.lean ====
section
/-! DEFINITION. Messages as they are sent (R324 to R328, R344 to R354): the layout of each kind (R340 to R343, R356, R357),
the send instructions, `msgld`, and the Spoil. -/

namespace Sys2Proof.Machine

/-! ## Layout (R340 to R343, R356, R357) -/

/-- Word `i` of a payload. -/
def Msg.word (m : Msg) (i : Nat) : Word := m.payload.getD i 0

/-- COP of a message. -/
def Msg.cop (m : Msg) : Nat := field m.hdr1 15 13

/-- Size and greatest count of a combining operation's elements (R357). -/
def combineSize (cop : Nat) (int : Bool) : Nat × Nat :=
  match cop with
  | 0 => if int then (8, 23) else (4, 46)
  | 1 => (16, 11)
  | 2 => (4, 46)
  | 3 => (8, 23)
  | _ => (8, 8)

/-- The combine descriptor and the elements suit the operation (R356, R357, R85). -/
def Msg.combineOk (m : Msg) : Bool :=
  let d := m.word 0
  let n := field d 63 48
  let e := field d 39 32
  let int := bit d 20
  let (size, most) := combineSize m.cop int
  decide (m.cop ≤ 4) && decide (1 ≤ n) && zeroBits d 23 21 && (!int || m.cop == 0) &&
  decide (1 ≤ e ∧ e ≤ most) && m.len == 8 + 8 * ceilDiv (e * size) 8 &&
  field d 19 0 % 8 == 0 && decide (field d 19 0 + e * size ≤ 0x100000) &&
  (m.cop != 1 || (upFrom 0 e).all fun i => zeroBits (m.word (2 + 2 * i)) 63 17) &&
  (e * size % 8 == 0 || zeroBits (m.word (m.len / 8 - 1)) 63 32)

/-- A message keeps the layout of its kind; a dispatch's handler offset and a matrix-invoke's payload are not looked at
(R340, R321). -/
def Msg.layoutOk (m : Msg) : Bool :=
  let off := m.offset
  zeroBits m.hdr0 12 0 && decide (m.len ≤ 192) && m.len % 8 == 0 && (m.kind == 4 || m.cop == 0) &&
  match m.kind with
  | 0 => true
  | 1 =>
    if m.tag = 0xB000 then off == 0 && (upFrom 0 (m.len / 8)).all fun i => zeroBits (m.word i) 31 8
    else (decide (m.tag < 0x4040) || decide (0x8000 ≤ m.tag ∧ m.tag ≤ 0x800F)) && decide (off < 2 ^ 20) && off % 8 == 0
  | 2 =>
    m.len == 24 && zeroBits (m.word 0) 63 4 && decide (field (m.word 0) 3 0 ≤ 10) &&
    (m.word 2 == 0 || field (m.word 0) 3 0 == 9) && decide (off < 2 ^ 20) &&
    off % atomicWidth (field (m.word 0) 3 0) == 0
  | 3 => m.len == 16 && off == 0 && zeroBits (m.word 0) 63 8
  | 4 => off == 0 && m.combineOk
  | 5 => m.len == 88 && off == 0 && !m.isHi
  | 6 =>
    off == 0 && decide (m.tag < 64) &&
    (m.len == 0 || (m.len == 16 && zeroBits (m.word 1) 63 20 && zeroBits (m.word 1) 2 0))
  | _ => false

/-- The zero fields of a matrix-invoke's payload (R321, R348). -/
def Msg.invokeZeros (m : Msg) : Bool :=
  zeroBits (m.word 0) 63 50 && zeroBits (m.word 9) 63 32 && zeroBits (m.word 9) 12 0 && zeroBits (m.word 10) 63 36 &&
  zeroBits (m.word 10) 15 6 && field (m.word 10) 35 16 % 8 == 0

/-! ## Forming a message (R345 to R350) -/

/-- Which send instruction: `send`, `send.hi`, `send.mc`, `send.comb`, `send.hold`, `dep`, `reply`. -/
inductive SendForm where
  | plain
  | high
  | multi
  | comb
  | hold
  | dep
  | reply
  deriving DecidableEq, Repr

/-- Kind and class of R347; `mine` is the class of the running handler. -/
def SendForm.kind (f : SendForm) (ctl : Word) (mine : Bool) : Option (Nat × Bool) :=
  match f, field ctl 11 10 with
  | .plain, 0 => some (0, false)
  | .high, 0 => some (0, true)
  | .multi, 0 => some (0, bit ctl 8)
  | .multi, 1 => some (1, mine)
  | .comb, 0 => some (4, mine)
  | .hold, 0 => some (0, bit ctl 8)
  | .dep, 0 => some (1, mine)
  | .dep, 1 => some (2, mine)
  | .dep, 2 => some (5, false)
  | .reply, 0 => some (1, mine)
  | .reply, 1 => some (0, true)
  | .reply, 2 => some (6, mine)
  | _, _ => none

/-- The control word keeps R345. -/
def SendForm.controlOk (f : SendForm) (ctl : Word) (rb : Nat) : Bool :=
  let rn := field ctl 19 16
  !bit ctl 47 && !bit ctl 12 && !bit ctl 9 && (f == .multi || zeroBits ctl 46 37) && (f == .comb || zeroBits ctl 15 13) &&
  ((f == .multi && field ctl 11 10 == 0) || f == .hold || !bit ctl 8) && decide (field ctl 7 0 ≤ 192) && field ctl 7 0 % 8 == 0 &&
  decide (rn ≤ 8) && decide (8 * rn ≤ field ctl 7 0) && (rn == 0 || (rb != 0 && decide (rb + rn ≤ 60)))

/-- The enabled cores of a multicast's rectangle (R349). -/
def State.rectangle (s : State) (hw0 ctl : Word) : List Nat :=
  (upFrom (field hw0 23 19) (field ctl 46 42 + 1)).flatMap fun y =>
    ((upFrom (field hw0 18 14) (field ctl 41 37 + 1)).map fun x => siteKey (field hw0 25 24) y x).filter s.enabled

/-- A multicast's rectangle lies on a die of this node (R349). -/
def State.rectangleOk (s : State) (hw0 ctl : Word) : Bool :=
  nodeOf hw0 == s.node && !bit hw0 13 && decide (field hw0 18 14 + field ctl 41 37 ≤ 31) &&
  decide (field hw0 23 19 + field ctl 46 42 ≤ 31)

/-- The header word 0 of a `reply`: the sender of the message that dispatched the context (R350). -/
def replyHeader (t : Ctx) (off : Word) : Word :=
  word (field off 63 32 * 2 ^ 32 + field t.hdr0 31 26 * 2 ^ 26 + field t.hdr1 43 32 * 2 ^ 14)

/-- The context may `reply` (R350). -/
def replyOk (c : Nat) (t : Ctx) (off : Word) : Bool :=
  c != 15 && t.hdr1 != 0 && field t.hdr1 47 44 == 0 && zeroBits off 31 0

/-- Payload words `rn` and up, read from the tile as loads of the context (R346). -/
def tilePayload (ctl : Word) : M (List Word) := do
  let n := field ctl 7 0 / 8 - field ctl 19 16
  if n = 0 then pure []
  else
    let bs ← readBytes (8 * n) (tileAddr (8 * field ctl 36 20))
    pure (wordsOf n bs)

/-- A message formed from the operands of a send and checked (R346 to R350), with its node and destinations. A payload
register that is s60 or s61 makes the encoding illegal (R348, log 89). -/
def formSend (f : SendForm) (rd ra rb : BitVec 6) : M (Msg × Nat × List Nat) := do
  let (k, c) ← here
  let t ← myCtx
  let ctl ← readS rd
  let a ← readS ra
  if rb.toNat ≤ 61 && 60 < rb.toNat + field ctl 19 16 && field ctl 19 16 != 0 then illegalEncoding else pure ()
  require (f.controlOk ctl rb.toNat)
  if f = .reply then require (replyOk c t a) else pure ()
  let hw0 := if f = .reply then replyHeader t a else a
  let mine := t.hi && c != 15
  match f.kind ctl mine with
  | none => valueFault
  | some (kind, hi) => do
    let regs := (upFrom rb.toNat (field ctl 19 16)).map t.scalar
    let more ← tilePayload ctl
    let m : Msg :=
      { hdr0 := hw0, payload := regs ++ more
        hdr1 := headerWord (field ctl 63 48) (shortId k) t.sendLid.toNat (field ctl 15 13) kind false hi (field ctl 7 0) }
    require (m.layoutOk && (kind != 5 || m.invokeZeros) && (kind != 4 || field (m.word 0) 31 24 == 0) &&
      (f != .reply || kind != 6 || m.len == 16))
    let s ← get
    require (if f = .multi then s.rectangleOk hw0 ctl else s.destinationOk hw0)
    if mine && !sinkKind kind then raise { cause := 0x05, info := word kind } else pure ()
    pure (m, nodeOf hw0, if f = .multi then s.rectangle hw0 ctl else s.destsOf hw0)

/-- A dispatch message of class LO, or a matrix-invoke message, for which R50 holds the sender. -/
def Msg.needsTip (m : Msg) : Bool := (m.kind == 0 && !m.isHi) || m.kind == 5

/-- The message of a send: formed and checked at its issue, or the one that it has waited with (R346). Its registers are
read again, so that a queue that they name is popped when the send retires. -/
def sentMessage (f : SendForm) (rd ra rb : BitVec 6) : M Formed := do
  let t ← myCtx
  match t.formed with
  | some p => do
    let _ ← readS rd
    let _ ← readS ra
    pure p
  | none => do
    let (msg, node, dests) ← formSend f rd ra rb
    pure { msg, node, dests }

/-- The waits of a send that is not held (R346). -/
def State.sendWaits (s : State) (k c : Nat) (p : Formed) : List WaitOn :=
  [.ordered (s.coverOf k c (s.separating k p.node p.dests) none) p.node p.dests, .outbox 1] ++
    if p.msg.needsTip then [.tipRoom] else []

/-- The first of several waits that is not over. -/
def State.firstWait (s : State) (k c : Nat) (ws : List WaitOn) : Option WaitOn := ws.find? fun w => !s.waitOver k c w

/-- The send waits at a boundary with its message (R346). -/
def holdFormed (old : Ctx) (p : Formed) (w : WaitOn) : M Unit := do
  modMyCtx fun t => { t with formed := some p }
  holdOn old w

/-- A send that is not held (R346): it retires when the message is accepted. -/
def sendNow (f : SendForm) (rd ra rb : BitVec 6) : M Unit := do
  let (k, c) ← here
  let old ← myCtx
  let p ← sentMessage f rd ra rb
  let s ← get
  match s.firstWait k c (s.sendWaits k c p) with
  | some w => holdFormed old p w
  | none => do
    modify fun s => s.accept k { msg := p.msg, ctx := c, node := p.node, dests := p.dests }
    retire

/-- `send` (R346). -/
def execSend (rd ra rb : BitVec 6) (s : State) : Host.Outcome State Fault Refusal := runM (sendNow .plain rd ra rb) s

/-- `send.hi` (R346). -/
def execSendHi (rd ra rb : BitVec 6) (s : State) : Host.Outcome State Fault Refusal := runM (sendNow .high rd ra rb) s

/-- `send.mc` (R346, R349). -/
def execSendMc (rd ra rb : BitVec 6) (s : State) : Host.Outcome State Fault Refusal := runM (sendNow .multi rd ra rb) s

/-- `send.comb` (R346, R356). -/
def execSendComb (rd ra rb : BitVec 6) (s : State) : Host.Outcome State Fault Refusal := runM (sendNow .comb rd ra rb) s

/-- `dep` (R346, R347). -/
def execDep (rd ra rb : BitVec 6) (s : State) : Host.Outcome State Fault Refusal := runM (sendNow .dep rd ra rb) s

/-- `reply` (R346, R350). -/
def execReply (rd ra rb : BitVec 6) (s : State) : Host.Outcome State Fault Refusal := runM (sendNow .reply rd ra rb) s

/-- `msgld` (R351). -/
def execMsgld (rd ra : BitVec 6) (s : State) : Host.Outcome State Fault Refusal :=
  runM (do
    let (_, c) ← here
    let j ← readS ra
    require (decide (8 ≤ j.toNat ∧ j.toNat ≤ 23))
    let bs ← readBytes 8 (tileAddr (0x800 + 256 * c + 8 * (j.toNat - 8)))
    writeS rd (wordOf bs)
    retire) s

/-! ## The Spoil (R352, R353) -/

/-- Held sends of a context, in Spoil order. -/
def Core.heldBy (x : Core) (c : Nat) : List HeldSend := x.spoil.filter fun h => h.ctx == c

/-- HOLDN (R169). -/
def Core.holdn (x : Core) (c : Nat) : Nat := (x.heldBy c).length

/-- The held sends of a context are dropped. -/
def Core.dropHeld (x : Core) (c : Nat) : Core := { x with spoil := x.spoil.filter fun h => h.ctx != c }

/-- `send.hold` (R352). -/
def execSendHold (rd ra rb : BitVec 6) (s : State) : Host.Outcome State Fault Refusal :=
  runM (do
    let (k, c) ← here
    let old ← myCtx
    let p ← sentMessage .hold rd ra rb
    let s ← get
    require (decide ((s.core k).holdn c < 16))
    match s.firstWait k c [.spoil] with
    | some w => holdFormed old p w
    | none => do
      modMyCore fun x => { x with spoil := x.spoil ++ [{ ctx := c, msg := p.msg, node := p.node }] }
      retire) s

/-- A held message as `commit` releases it: HOLD is set, and a logical destination is resolved (R353, R380). -/
def State.released (s : State) (h : HeldSend) : OutEntry :=
  { msg := { h.msg with hdr1 := h.msg.hdr1 ||| 512 }, ctx := h.ctx, node := h.node, dests := s.destsOf h.msg.hdr0 }

/-- A held message is accepted. One whose logical index the map no longer holds is lost (R380, log 90). -/
def State.acceptHeld (s : State) (k : Nat) (h : HeldSend) : State :=
  let e := s.released h
  if e.node = s.node && e.dests.isEmpty then s.lose h.msg.lid else s.accept k e

/-- The widest separating scope among held messages: what is performed there is performed for each of them (R251). -/
def State.heldScope (s : State) (k : Nat) (hs : List HeldSend) : Nat :=
  hs.foldl (fun n h => max n (s.separating k h.node (s.destsOf h.msg.hdr0))) 0

/-- R263 holds for every held message. -/
def awaitHeld (f : Cover) : List HeldSend → M Unit
  | [] => pure ()
  | h :: hs => do
    let s ← get
    waitUntil (.ordered f h.node (s.destsOf h.msg.hdr0))
    awaitHeld f hs

/-- `commit` (R353). -/
def execCommit (rd : BitVec 6) (s : State) : Host.Outcome State Fault Refusal :=
  runM (do
    let (k, c) ← here
    let x ← myCore
    let held := x.heldBy c
    let s ← get
    awaitHeld (s.coverOf k c (s.heldScope k held) none) held
    waitUntil (.outbox held.length)
    if held.any fun h => !h.msg.isHi then waitUntil .tipRoom else pure ()
    modify fun s => held.foldl (fun s h => s.acceptHeld k h) (s.modCore k fun x => x.dropHeld c)
    writeS rd (word held.length)
    retire) s

/-- `abort` (R353). -/
def execAbort (rd : BitVec 6) (s : State) : Host.Outcome State Fault Refusal :=
  runM (do
    let (_, c) ← here
    let x ← myCore
    writeS rd (word (x.holdn c))
    modMyCore fun x => x.dropHeld c
    retire) s

end Sys2Proof.Machine
end

