-- ==== Sys2Proof/Machine/Combine.lean ====
section
/-! DEFINITION. The elements of combining messages and how two of them merge (R85, R86, R356 to R359). -/

namespace Sys2Proof.Machine

/-! ## Elements (R357) -/

/-- N of a combine descriptor. -/
def Msg.contributions (m : Msg) : Nat := field (m.word 0) 63 48
/-- MC of a combine descriptor: merged messages less one. -/
def Msg.merged (m : Msg) : Nat := field (m.word 0) 31 24
/-- E of a combine descriptor. -/
def Msg.elementCount (m : Msg) : Nat := field (m.word 0) 39 32
/-- IFMT of a combine descriptor. -/
def Msg.intFormat (m : Msg) : Bool := bit (m.word 0) 20
/-- OFF of a combine descriptor. -/
def Msg.resultOffset (m : Msg) : Nat := field (m.word 0) 19 0
/-- The size of an element in bytes. -/
def Msg.elementSize (m : Msg) : Nat := (combineSize m.cop m.intFormat).1

/-- A list of bytes cut into `n` numbers of `size` bytes. -/
def cutBytes (size : Nat) : Nat → List Byte → List Nat
  | 0, _ => []
  | n + 1, bs => natOf (bs.take size) :: cutBytes size n (bs.drop size)

/-- The elements of a combining message. -/
def Msg.elements (m : Msg) : List Nat :=
  cutBytes m.elementSize m.elementCount ((m.payload.drop 1).flatMap fun w => bytesOf 8 w.toNat)

/-- The message with its elements replaced. -/
def Msg.withElements (m : Msg) (es : List Nat) : Msg :=
  { m with payload := m.payload.take 1 ++ wordsOf (m.payload.length - 1) (es.flatMap (bytesOf m.elementSize)) }

/-- The retirements that a message counts as (R22, R360). -/
def Msg.weight (m : Msg) : Nat := if m.kind = 4 then m.merged + 1 else 1

/-! ## ADDBE (R86) -/

/-- S · 2^−n rounded to an integer, and whether that is inexact. -/
def shiftSum (s : Int) (n : Nat) : Int × Bool :=
  let (m, x) := roundUnits 0 (decide (s < 0)) s.natAbs 0 n false
  (signedNat (decide (s < 0)) m, x)

/-- An ADDBE element from its parts. -/
def blockSum (s e : Int) (x : Bool) : Nat :=
  (intWord s).toNat + ((BitVec.ofInt 16 e).toNat + (if x then 65536 else 0)) * 2 ^ 64

/-- merge of R86. -/
def mergeBlock (a b : Nat) : Nat :=
  let sum := fun (v : Nat) => signedOf 64 v
  let exp := fun (v : Nat) => signedOf 16 (v / 2 ^ 64)
  let x := (a / 2 ^ 80 + b / 2 ^ 80) % 2 == 1 || (a / 2 ^ 80 % 2 == 1)
  if sum a = 0 then blockSum (sum b) (exp b) x
  else if sum b = 0 then blockSum (sum a) (exp a) x
  else
    let e := max (exp a) (exp b)
    let (sa, xa) := shiftSum (sum a) (e - exp a).toNat
    let (sb, xb) := shiftSum (sum b) (e - exp b).toNat
    let s := sa + sb
    let big := decide (s < -(2 : Int) ^ 63 ∨ (2 : Int) ^ 63 - 1 < s)
    let (s, e, x) := if big then ((shiftSum s 1).1, e + 1, true) else (s, e, x || xa || xb)
    if 32767 < e then blockSum (if s < 0 then -((2 : Int) ^ 63 - 1) else (2 : Int) ^ 63 - 1) 32767 true
    else blockSum s e x

/-! ## SMX (R359) -/

/-- t · f for an exact factor that may be cut short. -/
def scaledTerm (t : Num) (f : Exact) : Exact :=
  match f with
  | .fin _ m e st =>
    match (mulNum t (.fin false m e)).1 with
    | .fin n a b _ => .fin n a b (st && a != 0)
    | x => x
  | _ => .nan

/-- The sum of (m + ε) · 2^e, 0 < ε < 1, and n · 2^d. -/
def sumTail (neg : Bool) (m : Nat) (e : Int) (y : Bool) (n : Nat) (d : Int) : Exact :=
  let base := min e d
  let a := scaleTo base m e
  let b := scaleTo base n d
  if neg == y then .fin neg (a + b) base true
  else if a < b then .fin y (b - a - 1) base true
  else .fin neg (a - b) base true

/-- The sum of two terms, of which at most one is cut short. -/
def sumTerms (a b : Exact) : Exact :=
  match a, b with
  | .fin x m e true, .fin y n d _ => sumTail x m e y n d
  | .fin x m e false, .fin y n d true => sumTail y n d x m e
  | _, _ => (addNum 0 a.num b.num).1

/-- The factor e^(m1 − m) of a pair. -/
def pairFactor (m1 m : Num) : Exact :=
  if m1.compare m = 0 then .fin false 1 0 false else (expNum (subNum 0 m1 m).1.num).1

/-- smx of R359, on pairs with m in the low half. -/
def mergePair (a b : Nat) : Nat :=
  let low := fun (v : Nat) => fmtSingle.decode (v % 2 ^ 32)
  let high := fun (v : Nat) => fmtSingle.decode (v / 2 ^ 32)
  let m := (extremum true (low a) (low b)).1.num
  if m.isNan || (high a).isNan || (high b).isNan then fmtSingle.nan + fmtSingle.nan * 2 ^ 32
  else
    let t := sumTerms (scaledTerm (high a) (pairFactor (low a) m)) (scaledTerm (high b) (pairFactor (low b) m))
    (fmtSingle.finish 0 (m.exact, 0#7)).1 + (fmtSingle.finish 0 (t, 0#7)).1 * 2 ^ 32

/-! ## TOPK (R359) -/

/-- The entry that stands for no candidate. -/
def fillerEntry : Nat := 0xFFFFFFFFFF800000

/-- An entry as it is ordered: its value and its position; a NaN is replaced. -/
def rankedEntry (v : Nat) : Num × Nat :=
  let v := if (fmtSingle.decode (v % 2 ^ 32)).isNan then fillerEntry else v
  (fmtSingle.decode (v % 2 ^ 32), v / 2 ^ 32)

/-- The union of two lists, ordered, and cut to the length of the first (R359). -/
def mergeLists (as bs : List Nat) : List Nat :=
  ((((as ++ bs).map rankedEntry).foldl (fun l a => insertRanked a l) []).take as.length).map (topEntry 0)

/-! ## Merging (R358, R359) -/

/-- merge(a, b) of two elements; TOPK merges whole lists. -/
def mergeElement (cop : Nat) (int : Bool) (a b : Nat) : Nat :=
  match cop with
  | 0 =>
    if int then (a + b) % 2 ^ 64
    else (fmtSingle.finish 0 (addNum 0 (fmtSingle.decode a) (fmtSingle.decode b))).1
  | 1 => mergeBlock a b
  | 2 => (fmtSingle.finish 0 (extremum true (fmtSingle.decode a) (fmtSingle.decode b))).1
  | _ => mergePair a b

/-- merge of the elements of two messages. -/
def mergeElements (cop : Nat) (int : Bool) (as bs : List Nat) : List Nat :=
  if cop = 4 then mergeLists as bs else List.zipWith (mergeElement cop int) as bs

/-- R358: a message may merge into one that waits. -/
def Msg.mergesInto (m q : Msg) : Bool :=
  q.hdr0 == m.hdr0 && field q.hdr1 63 48 == field m.hdr1 63 48 && field q.hdr1 31 8 == field m.hdr1 31 8 &&
  field (q.word 0) 47 32 == field (m.word 0) 47 32 && field (q.word 0) 20 0 == field (m.word 0) 20 0 &&
  decide (q.contributions + m.contributions ≤ 65535) && decide (q.merged + m.merged + 1 ≤ 255)

/-- The waiting message after another has merged into it (R358). -/
def Msg.mergeWith (q m : Msg) : Msg :=
  let w := putField (putField (q.word 0).toNat 63 48 (q.contributions + m.contributions)) 31 24 (q.merged + m.merged + 1)
  let q' := q.withElements (mergeElements q.cop q.intFormat q.elements m.elements)
  { q' with payload := BitVec.ofNat 64 w :: q'.payload.drop 1 }

end Sys2Proof.Machine
end

