-- ==== Sys2Proof/Machine/Fabric.lean ====
section
/-! DEFINITION. The routing plane and the network interfaces (R329 to R343): leaving the outbox, the routers that combine
(R358), the inboxes, the Tip and the overflow pool (R335 to R338), dispatch (R17 to R20), and the consumption of sinks
(R340 to R343, R360). -/

namespace Sys2Proof.Machine

/-! ## The routing plane (R47, R329, R332) -/

/-- The column of a router on the plane. -/
def planeX (k : Nat) : Nat := 32 * (dieOf k % 2) + xOf k
/-- The row of a router on the plane. -/
def planeY (k : Nat) : Nat := 32 * (dieOf k / 2) + yOf k
/-- The router at a place of the plane. -/
def planeKey (x y : Nat) : Nat := siteKey (x / 32 + 2 * (y / 32)) (y % 32) (x % 32)

/-- The router that an Isder port is attached to (R332). -/
def portRouter (p : Nat) : Nat := siteKey (p / 8) (if p / 8 < 2 then 0 else 31) (2 + 4 * (p % 8))

/-- The next router on the way: x first, then y (R329). -/
def nextRouter (a b : Nat) : Nat :=
  if planeX a < planeX b then planeKey (planeX a + 1) (planeY a)
  else if planeX b < planeX a then planeKey (planeX a - 1) (planeY a)
  else if planeY a < planeY b then planeKey (planeX a) (planeY a + 1)
  else planeKey (planeX a) (planeY a - 1)

/-- The last router of a flight's way. -/
def Flight.lastRouter (s : State) (f : Flight) : Nat :=
  if f.dest < 8192 then f.dest else portRouter (s.exitPort (dieOf f.src) (f.dest - 8192))

/-- Who sent the message, and the messages that merged into it. -/
def Flight.senders (f : Flight) : List (Nat × Nat) := (f.src, f.ctx) :: f.also

/-- Two flights to one destination have a sender in common, so that the first keeps before the second (R329). -/
def Flight.before (g f : Flight) : Bool :=
  g.dest == f.dest && g.senders.any fun a => f.senders.any fun b => a.1 == b.1

/-- A channel of the plane. -/
def State.channel (s : State) (hi : Bool) : List Flight := if hi then s.hiFlights else s.loFlights

/-- The state with a channel replaced. -/
def State.setChannel (s : State) (hi : Bool) (l : List Flight) : State :=
  if hi then { s with hiFlights := l } else { s with loFlights := l }

/-- A message enters its channel. -/
def State.launchFlight (s : State) (f : Flight) : State :=
  s.setChannel f.msg.inHi (s.channel f.msg.inHi ++ [f])

/-- Flight `g`, earlier in the channel, keeps `f` back (R329): one that a router has sent on keeps a combining message
back only where both are, and a message that combines nowhere until it has been delivered. -/
def Flight.keeps (g f : Flight) : Bool :=
  g.before f && (g.place == f.place || !g.routed || (f.place == 4096 && !f.routed))

/-- Flight `n` of a channel, if no earlier one keeps it back: none in the channel, and for one that no router has sent on
none in a router. -/
def State.frontFlight (s : State) (hi : Bool) (n : Nat) : Option Flight :=
  match (s.channel hi)[n]? with
  | none => none
  | some f =>
    if (((s.channel hi).take n).any fun g => g.keeps f) ||
        (hi && !f.routed && s.routers.any fun r => r.2.any fun g => g.before f)
    then none else some f

/-- Flight `n` of a channel leaves it. -/
def State.dropFlight (s : State) (hi : Bool) (n : Nat) : State := s.setChannel hi (dropNth (s.channel hi) n)

/-! ## Messages that are lost or in error -/

/-- The count of a launch falls where a message is retired on the way: at the core, the Derrick, or the die of the unit
that sent it. -/
def State.retireAt (s : State) (src lid n : Nat) : State :=
  if src < 4096 then s.count src lid (-n)
  else s.countDie (if src < 4100 then src - 4096 else if src < 4132 then (src - 4100) / 8 else src - 4132) lid (-n)

/-- A message error is counted, and the first is recorded (R415). -/
def Core.messageError (x : Core) (hdr1 : Word) : Core :=
  let first := (Tab.find x.perf 519).isNone
  let x := x.bump 2 6 1
  if first then { x with perf := Tab.put x.perf 519 hdr1 } else x

/-- A message that is dropped at its destination counts as its retirements (R340). -/
def State.formatError (s : State) (f : Flight) : State :=
  let s := s.modCore f.dest fun x => x.messageError f.msg.hdr1
  if f.counted then s.retired f.dest f.msg.lid (originDie s.node f.msg.hdr0 f.msg.hdr1) f.msg.weight else s

/-- A message in an inbox or a stream is dropped; that counts as a retirement (R36). -/
def State.dropMessage (s : State) (k : Nat) (m : Msg) : State := s.retired k m.lid (originDie s.node m.hdr0 m.hdr1) 1

/-- The message is in the core's cancel filter (R36): its launch, or, of the messages of Derricks, its unit. -/
def Core.filters (x : Core) (m : Msg) : Bool :=
  x.filtered m.lid (if field m.hdr1 47 44 != 0 then some (m.word 0).toNat else none)

/-! ## Leaving the package (R332, R333, R348) -/

/-- The packet of a message (R425). -/
def Msg.packet (m : Msg) (own node : Nat) : Packet :=
  { kind := 1, dst := node, src := own, len := 16 + m.len, word1 := m.hdr0
    data := bytesOf 8 m.hdr0.toNat ++ bytesOf 8 m.hdr1.toNat ++ m.payload.flatMap fun w => bytesOf 8 w.toNat }

/-- An engine hands a data packet to its port: it takes the next PSN toward the peer, and waits for its
acknowledgement (R440). -/
def Engine.emit (e : Engine) (peer request : Nat) (p : UePacket) : Engine :=
  let u := Tab.get {} e.nums peer
  let ws := Tab.get [] e.peers peer
  let p := { p with psn := u.txPsn, mac := (ws.getD 3 0).setWidth 48, ip := ws.getD 5 0 ++ ws.getD 4 0
                    endpoint := field (ws.getD 6 0) 15 0 }
  { e with
    nums := Tab.put e.nums peer { u with txPsn := (u.txPsn + 1) % 2 ^ 32 }
    flights := e.flights ++ [{ peer, psn := u.txPsn, request, packet := p, tries := 1 }]
    packets := e.packets ++ [p]
    perf := Tab.put e.perf 0 (Tab.get 0 e.perf 0 + 1) }

/-- V of a peer entry (R431). -/
def Engine.peerValid (e : Engine) (peer : Nat) : Bool := bit ((Tab.get [] e.peers peer).getD 7 0) 63

/-- A message leaves for another node (R332), enters the transport of a network engine (R333), or is dropped because the
node has become unreachable (R348). The peer of a node stands at the node's number in the peer table (log 15). -/
def State.leaveTo (s : State) (d node : Nat) (f : Flight) : State :=
  let n := if f.counted then f.msg.weight else 0
  match s.path node with
  | 1 => s.toPort (s.exitPort d node) (f.msg.packet s.node node) f.msg.lid n (if f.part.isNone then f.senders else []) f.part
  | 2 =>
    let u := field (Tab.get 0 s.routes node) 41 40
    if (s.die u).engine.peerValid node then
      let p : UePacket :=
        { kind := .tunnel, ordered := true, total := 16 + f.msg.len, data := (f.msg.packet s.node node).data
          part := f.part }
      (s.modDie u fun x => { x with engine := x.engine.emit node 0 p }).retireAt f.src f.msg.lid n
    else (s.retireAt f.src f.msg.lid n).lose f.msg.lid
  | _ => (s.retireAt f.src f.msg.lid n).lose f.msg.lid

/-! ## The outbox (R334) -/

/-- An outbox entry enters the plane: a flight for each destination. A message toward a fenced die is treated as retired
(R43). -/
def State.inject (s : State) (k : Nat) (e : OutEntry) : State :=
  let f : Flight := { msg := e.msg, src := k, ctx := e.ctx, dest := k, counted := e.counted, part := e.part }
  if e.node = s.node then
    e.dests.foldl (fun s d =>
      if s.fenced.getLsbD (dieOf d) then
        if e.counted then (s.sent k e.msg.lid [d] (-f.msg.weight)).retireAt k e.msg.lid f.msg.weight else s
      else s.launchFlight { f with dest := d, place := if e.msg.kind = 4 && d != k then k else 4096 }) s
  else if e.msg.kind = 4 && s.path e.node = 1 then s.launchFlight { f with dest := 8192 + e.node, place := k }
  else s.leaveTo (dieOf k) e.node f

/-- An entry for another node waits: a combining message of the same core to that node is still on the plane, and both
follow the same route (R329). -/
def State.injectHeld (s : State) (k : Nat) (e : OutEntry) : Bool :=
  let earlier := fun (g : Flight) => g.dest == 8192 + e.node && g.senders.any fun a => a.1 == k
  e.node != s.node && e.msg.inHi && e.msg.kind != 4 && (s.hiFlights.any earlier || s.routers.any fun r => r.2.any earlier)

/-- OUTBOX_INJECT: a core's outbox injects the oldest entry of the HI channel, or else the oldest (R334). -/
def execOutboxInject (s : State) : Host.Outcome State Fault Refusal :=
  runEvent (do
    let k := s.input.core
    let box := (s.core k).outbox
    let i := (box.findIdx? fun e => e.msg.inHi).getD 0
    match box[i]? with
    | none => notNow
    | some e =>
      if s.injectHeld k e then notNow
      else set ((s.modCore k fun x => { x with outbox := dropNth box i }).inject k e)) s

/-! ## Routers that combine (R358) -/

/-- A message that a router sends on stands in the channel behind those that routers have sent on before, and in front of
the others (R329). -/
def State.routeOn (s : State) (f : Flight) (place : Nat) : State :=
  let l := s.hiFlights
  { s with hiFlights := l.takeWhile Flight.routed ++ { f with place, routed := true } :: l.dropWhile Flight.routed }

/-- A combining message goes on from a router: to the next one, to its destination's NI, or out of the package. -/
def State.onward (s : State) (r : Nat) (f : Flight) : State :=
  if r = f.lastRouter s then
    if f.dest < 8192 then s.routeOn f 4096 else s.leaveTo (dieOf f.src) (f.dest - 8192) f
  else s.routeOn f (nextRouter r (f.lastRouter s))

/-- The combining queue of a router. -/
def State.router (s : State) (r : Nat) : List Flight := Tab.get [] s.routers r

/-- The state with a router's queue replaced. -/
def State.setRouter (s : State) (r : Nat) (l : List Flight) : State :=
  { s with routers := if l.isEmpty then Tab.del s.routers r else Tab.put s.routers r l }

/-- COMBINE_ROUTER_ARRIVAL: flight `n` of the HI channel comes to its next router: it merges into a waiting message,
waits, or goes on at once when no entry is free (R358). -/
def execCombineRouterArrival (s : State) : Host.Outcome State Fault Refusal :=
  runEvent (do
    match s.hiFlights[s.input.n]? with
    | none => notNow
    | some f =>
      let r := f.place
      let queue := s.router r
      let later := (s.hiFlights.take s.input.n).any fun g => g.keeps f
      if 4096 ≤ r || later then notNow
      else
        let s := s.dropFlight true s.input.n
        match queue.findIdx? fun q => f.msg.mergesInto q.msg with
        | some i => set (s.setRouter r (changeNth
            (fun q => { q with msg := q.msg.mergeWith f.msg, also := q.also ++ f.senders }) queue i))
        | none =>
          if queue.length < 8 then set (s.setRouter r (queue ++ [f]))
          else if queue.any fun q => q.before f then notNow
          else set (s.onward r f)) s

/-- COMBINE_HOLD_EXPIRY: entry `n` of a router's queue has waited and goes on (R358). -/
def execCombineHoldExpiry (s : State) : Host.Outcome State Fault Refusal :=
  runEvent (do
    let r := s.input.core
    let queue := s.router r
    match queue[s.input.n]? with
    | none => notNow
    | some f =>
      if (queue.take s.input.n).any fun q => q.before f then notNow
      else set ((s.setRouter r (dropNth queue s.input.n)).onward r f)) s

/-! ## Placement (R336, R337) -/

/-! ### Entries in HBM (R335) -/

/-- An entry's bytes: the header, and from byte 16 the payload. -/
def Msg.image (m : Msg) : List Byte := (m.hdr0 :: m.hdr1 :: m.payload).flatMap fun w => bytesOf 8 w.toNat

/-- The physical address of an entry of a core's Tip region. -/
def tipPa (k slot : Nat) : Nat := 0x1FC0000000 + dieOf k * 2 ^ 37 + k % 1024 * 2 ^ 20 + 256 * slot

/-- The physical address of an entry of a die's HI overflow pool. -/
def poolPa (d slot : Nat) : Nat := 0x1FBC000000 + d * 2 ^ 37 + 256 * slot

/-- The lowest place that no entry takes (log 91). -/
def freePlace (l : List TipEntry) : Nat :=
  ((upFrom 0 (l.length + 1)).find? fun n => !l.any fun e => e.slot == n).getD 0

/-- A message is written where its entry stands. -/
def State.writeEntry (s : State) (pa : Nat) (m : Msg) : State := s.writeHbm ((upFrom pa m.image.length).zip m.image)

/-- A message is read where its entry stands, through the home cache (R230). -/
def State.touchEntry (s : State) (pa : Nat) (m : Msg) : State := s.touchAll true (upFrom pa m.image.length)

/-- The core's stream in its die's HI overflow pool (R335). -/
def State.poolStream (s : State) (k : Nat) : List TipEntry := Tab.get [] (s.die (dieOf k)).pool (k % 1024)

/-- The state with a core's pool stream replaced. -/
def State.setPoolStream (s : State) (k : Nat) (l : List TipEntry) : State :=
  s.modDie (dieOf k) fun d => { d with pool := if l.isEmpty then Tab.del d.pool (k % 1024) else Tab.put d.pool (k % 1024) l }

/-- The entries of a die's pool that are taken (R415). -/
def State.poolUsed (s : State) (d : Nat) : Nat := (s.die d).pool.foldl (fun n p => n + p.2.length) 0

/-- A die's pool has a free entry: 16 MiB in entries of 256 bytes (R335). -/
def State.poolRoom (s : State) (k : Nat) : Bool := decide (s.poolUsed (dieOf k) < 65536)

/-- The entries of a core's Tip region. -/
def Core.tipEntries (x : Core) : List TipEntry := x.tipHi ++ x.tipLo ++ x.tipPark

/-- A message takes an entry of a core's Tip region (R335); `into` says in which stream. -/
def State.takeTip (s : State) (k : Nat) (m : Msg) (into : Core → TipEntry → Core) : State :=
  let e : TipEntry := { slot := freePlace (s.core k).tipEntries, msg := m }
  (s.modCore k fun x => into x e).writeEntry (tipPa k e.slot) m

/-- HI traffic finds an entry in the core's Tip region (R335). -/
def Core.tipRoomHi (x : Core) : Bool := decide (x.tipHi.length + x.tipLo.length + x.tipPark.length < 4096)

/-- A LO dispatch or matrix-invoke message is placed (R336); none while the LO share is full (R50). -/
def State.placeLo (s : State) (k : Nat) (m : Msg) : Option State :=
  let x := s.core k
  if x.tipLo.isEmpty && x.loInbox.length < 56 then some (s.setCore k { x with loInbox := x.loInbox ++ [m] })
  else if x.tipFull then none
  else some (s.takeTip k m fun x e => { x with tipLo := x.tipLo ++ [e] })

/-- A HI dispatch message goes into the pool, or is lost when it is full (R337). -/
def State.placePool (s : State) (k : Nat) (m : Msg) : State :=
  if s.poolRoom k then
    let e : TipEntry := { slot := freePlace ((s.die (dieOf k)).pool.flatMap (·.2)), msg := m }
    (s.setPoolStream k (s.poolStream k ++ [e])).writeEntry (poolPa (dieOf k) e.slot) m
  else ((s.modCore k fun x => x.messageError m.hdr1).dropMessage k m).lose m.lid

/-- A HI dispatch message is placed (R336, R337). -/
def State.placeHi (s : State) (k : Nat) (m : Msg) : State :=
  let x := s.core k
  if !(s.poolStream k).isEmpty then s.placePool k m
  else if x.tipHi.isEmpty && x.hiInbox.length < 16 then s.setCore k { x with hiInbox := x.hiInbox ++ [m] }
  else if x.tipRoomHi then s.takeTip k m fun x e => { x with tipHi := x.tipHi ++ [e] }
  else s.placePool k m

/-- DISPATCH_MESSAGE_ARRIVAL: flight `n` of the LO channel, or of the HI channel with the flag, reaches its destination
NI (R336, R337, R340). -/
def execDispatchMessageArrival (s : State) : Host.Outcome State Fault Refusal :=
  runEvent (do
    let hi := s.input.flag
    match s.frontFlight hi s.input.n with
    | none => notNow
    | some f =>
      let m := f.msg
      let s' := s.dropFlight hi s.input.n
      if sinkKind m.kind || 4096 ≤ f.dest then notNow
      else if !m.layoutOk || (m.kind == 0 && !s.live m.lid) then set (s'.formatError f)
      else if hi then set (s'.placeHi f.dest m)
      else
        match s'.placeLo f.dest m with
        | none => notNow
        | some s' => set s') s

/-- TIP_REFILL: the oldest entry of a core's LO stream, or with the flag of its HI stream and then of its pool stream,
moves into the inbox; a filtered message is dropped (R336, R36). -/
def execTipRefill (s : State) : Host.Outcome State Fault Refusal :=
  runEvent (do
    let k := s.input.core
    let x := s.core k
    if s.input.flag then
      if 16 ≤ x.hiInbox.length then notNow
      else
        match x.tipHi, s.poolStream k with
        | e :: rest, _ =>
          let s := (s.setCore k { x with tipHi := rest }).touchEntry (tipPa k e.slot) e.msg
          set (if x.filters e.msg then s.dropMessage k e.msg else s.modCore k fun x => { x with hiInbox := x.hiInbox ++ [e.msg] })
        | [], e :: rest =>
          let s := (s.setPoolStream k rest).touchEntry (poolPa (dieOf k) e.slot) e.msg
          set (if x.filters e.msg then s.dropMessage k e.msg else s.modCore k fun x => { x with hiInbox := x.hiInbox ++ [e.msg] })
        | [], [] => notNow
    else if 56 ≤ x.loInbox.length then notNow
    else
      match x.tipLo with
      | e :: rest =>
        let s := (s.setCore k { x with tipLo := rest }).touchEntry (tipPa k e.slot) e.msg
        set (if x.filters e.msg then s.dropMessage k e.msg else s.modCore k fun x => { x with loInbox := x.loInbox ++ [e.msg] })
      | [] => notNow) s

/-! ## Dispatch (R17 to R20, R38) -/

/-- A binding entry binds the offset (R367). -/
def bindsOffset (w : Word) (off : Nat) : Bool := bit w 63 && field w 31 0 == off

/-- The lowest free context of a class (R18). -/
def Core.freeContext (x : Core) (hi : Bool) : Option Nat :=
  let free := fun c => (x.ctx c).state = .free
  match if hi then (upFrom 12 3).find? free else none with
  | some c => some c
  | none => (upFrom 0 12).find? free

/-- The first registers of a handler: the payload in s1 to s8, and the stack pointer (R19). -/
def firstRegisters (m : Msg) (sp : Word) : Tab Word :=
  (upFrom 0 8).filterMap (fun i => if i < m.payload.length then some (i + 1, m.word i) else none) ++ [(63, sp)]

/-- A launch as dispatch reads it. A launch ID 0 that no boot sequence has described has its code at 0 and the reset
precision (log 4). -/
def State.launchOf (s : State) (lid : Nat) : Launch := (s.launch? lid).getD { desc := [0, 0, 2 * 2 ^ 48] }

/-- Dispatch of a message into a context (R19). -/
def State.startHandler (s : State) (k c : Nat) (m : Msg) : State :=
  let l := s.launchOf m.lid
  let sp := word (0xF000000000000000 + field (l.word 11) 51 32 + field (l.word 11) 31 16 * (c + 1))
  let window := (upFrom 8 16).flatMap fun i => bytesOf 8 (m.word i).toNat
  s.modCore k fun x =>
    let old := x.ctx c
    let t : Ctx := {
      state := .ready, hi := m.isHi, pc := l.word 0 + word (2 * m.offset), s := firstRegisters m sp
      prec := word (field (l.word 2) 52 48), rmode := word (field (l.word 2) 63 59 * 256 + field (l.word 2) 58 56)
      hdr0 := m.hdr0, hdr1 := m.hdr1, launchId := BitVec.ofNat 16 m.lid, deadline := x.cycle + 15
      unit := if field m.hdr1 47 44 != 0 then some (m.word 0).toNat else none
      nextId := old.nextId, acc := old.acc, staging := old.staging, replay := old.replay }
    ((x.setCtx c t).writeTileBytes (0x800 + 256 * c) window).bump 0 2 1

/-- What the head of an inbox comes to. -/
inductive Taken where
  | blocked
  | done (s : State)

/-- An unbound message is parked, in the park area or in the parked stream of the Tip (R338). -/
def State.parkMessage (s : State) (k : Nat) (m : Msg) : Taken :=
  let x := s.core k
  if x.park.length < 8 then .done (s.setCore k { x with park := x.park ++ [m] })
  else if if m.isHi then x.tipRoomHi else !x.tipFull then
    .done (s.takeTip k m fun x e => { x with tipPark := x.tipPark ++ [e] })
  else .blocked

/-- The NI takes a message, which has left its inbox in `s'` (R17 to R20, R36, R368). -/
def State.takeMessage (s s' : State) (k : Nat) (m : Msg) : Taken :=
  let x := s.core k
  if x.filters m then .done (s'.dropMessage k m)
  else if m.kind ≠ 0 then .blocked
  else
    match Tab.find x.bindCache m.lid with
    | none => .blocked
    | some table =>
      if table.any fun e => bindsOffset e.2 m.offset then
        match x.freeContext m.isHi with
        | none => .blocked
        | some c => .done (s'.startHandler k c m)
      else s'.parkMessage k m

/-- The head of an inbox is taken. -/
def State.takeHead (s : State) (k : Nat) (hi : Bool) : Taken :=
  let x := s.core k
  match if hi then x.hiInbox else x.loInbox with
  | [] => .blocked
  | m :: rest => s.takeMessage (s.setCore k (if hi then { x with hiInbox := rest } else { x with loInbox := rest })) k m

/-- The oldest parked message that is bound now and has a context is dispatched (R51, R338). -/
def State.takeParked (s : State) (k : Nat) : Taken :=
  let x := s.core k
  let ready := fun (m : Msg) => (x.freeContext m.isHi).isSome &&
    ((Tab.get [] x.bindCache m.lid).any fun e => bindsOffset e.2 m.offset)
  match x.park.find? ready with
  | some m => s.takeMessage (s.setCore k { x with park := x.park.erase m }) k m
  | none =>
    match x.tipPark.find? fun e => ready e.msg with
    | some e =>
      s.takeMessage ((s.setCore k { x with tipPark := x.tipPark.erase e }).touchEntry (tipPa k e.slot) e.msg) k e.msg
    | none => .blocked

/-- DISPATCH: a core's NI takes the message that R17 chooses, or with the flag a parked one (R19, R20, R51). -/
def execDispatch (s : State) : Host.Outcome State Fault Refusal :=
  runEvent (do
    let k := s.input.core
    if (s.core k).stopped || s.tripped then notNow
    else
      match if s.input.flag then s.takeParked k else
        (match s.takeHead k true with
         | .blocked => s.takeHead k false
         | t => t) with
      | .blocked => notNow
      | .done s => set s) s

/-! ## Sinks (R340 to R343, R360) -/

/-- What a sink of one of the kinds does when its turn comes: flight `n` of the HI channel leaves it; one that breaks the
layout is dropped. -/
def consumeSink (mine : Msg → Bool) (body : State → Flight → M State) (s : State) :
    Host.Outcome State Fault Refusal :=
  runEvent (do
    match s.frontFlight true s.input.n with
    | none => notNow
    | some f =>
      if !mine f.msg || f.place ≠ 4096 || 4096 ≤ f.dest then notNow
      else
        let s := s.dropFlight true s.input.n
        if f.part.isNone && !f.msg.layoutOk then set (s.formatError f)
        else do
          let s ← body s f
          set s) s

/-- Some of `n` bytes from a tile offset on lie outside the tile or in the identity words (R340). -/
def offTile (off n : Nat) : Bool := (upFrom off n).any fun o => decide (0x100000 ≤ o) || identityAt o

/-- The message error of bytes that a sink does not write (R340). -/
def State.noteOff (s : State) (f : Flight) (off n : Nat) : State :=
  if offTile off n then s.modCore f.dest fun x => x.messageError f.msg.hdr1 else s

/-- A sink writes tile bytes. -/
def State.sinkWrite (s : State) (f : Flight) (off : Nat) (bs : List Byte) : State :=
  (s.noteOff f off bs.length).modCore f.dest fun x => x.writeTileBytes off bs

/-- The payload's bytes. -/
def Msg.bytes (m : Msg) : List Byte := (m.payload.flatMap fun w => bytesOf 8 w.toNat).take m.len

/-- TAGS bit `t` is set. -/
def Core.setTag (x : Core) (t : Nat) : Core := { x with tags := x.tags ||| tagBit t }

/-- The bytes of a `copy.r` deposit are written; the last one is answered with a copy-completion message through the
destination's outbox (R246, R343). -/
def State.copyDeposit (s : State) (f : Flight) (p : CopyPart) : M State := do
  let s := s.copyToTile f.dest (p.bytes.map fun b => (b.1, b.2.1, b.2.2))
  let s := if p.bytes.any fun b => offTile b.1 1 then s.modCore f.dest fun x => x.messageError f.msg.hdr1 else s
  match p.last with
  | none => pure s
  | some t =>
    if (s.core f.dest).outbox.length < 16 then
      let src := field f.msg.hdr1 43 32
      let node := nodeOf f.msg.hdr0
      pure (s.accept f.dest
        { msg := { hdr0 := word (node * 2 ^ 26 + src * 2 ^ 14)
                   hdr1 := headerWord t (shortId f.dest) f.msg.lid 0 6 false f.msg.isHi 0 }
          ctx := 15, node, dests := if node = s.node then [src] else [] })
    else notNow

/-- The last deposit of a constant fill completes it: the core's identity word 0xFB names the launch and the length, and
units of the launch may come (R227, R228). -/
def State.fillArrives (s : State) (f : Flight) : State :=
  let lid := f.msg.lid
  match s.launch? lid with
  | none => s
  | some l =>
    let cl := field (l.word 13) 23 16
    if f.msg.offset + f.msg.len < 8 * cl then s
    else (s.modLaunch lid fun l => { l with filled := f.dest :: l.filled }).modCore f.dest fun x =>
      { x with fillLid := BitVec.ofNat 16 lid, fillLen := BitVec.ofNat 8 cl }

/-- DEPOSIT: a plain or tag deposit, one of a constant fill, which a Derrick sends (R446), a `copy.r` deposit, or a
malformed deposit (R341). -/
def execDeposit (s : State) : Host.Outcome State Fault Refusal :=
  consumeSink (fun m => m.kind == 1 && (!m.layoutOk || decide (m.tag < 0x8000))) (fun s f => do
    match f.part with
    | some p => do
      let s ← s.copyDeposit f p
      pure (s.consumed f 1)
    | none =>
      let s := s.sinkWrite f (f.msg.offset % 2 ^ 20) f.msg.bytes
      let s := if 0x4000 ≤ f.msg.tag then s.modCore f.dest fun x => x.setTag (f.msg.tag - 0x4000) else s
      let s := if 4096 ≤ f.src && f.src < 4100 then s.fillArrives f else s
      pure (s.consumed f 1)) s

/-- A channel's byte count rises, saturating (R298). -/
def Core.raiseChannel (x : Core) (c n : Nat) : Core :=
  { x with cb := Tab.put x.cb c (BitVec.ofNat 32 (min ((Tab.get 0 x.cb c).toNat + n) 0xFFFFFFFF)) }

/-- CHANNEL_DEPOSIT (R341, R298). -/
def execChannelDeposit (s : State) : Host.Outcome State Fault Refusal :=
  consumeSink (fun m => m.kind == 1 && m.layoutOk && decide (0x8000 ≤ m.tag ∧ m.tag ≤ 0x800F)) (fun s f =>
    let s := s.sinkWrite f (f.msg.offset % 2 ^ 20) f.msg.bytes
    pure ((s.modCore f.dest fun x => x.raiseChannel (f.msg.tag - 0x8000) f.msg.len).consumed f 1)) s

/-- ATOMIC_DEPOSIT: one from outside the destination's cluster goes to the cluster's engine first (R242, R342). -/
def execAtomicDeposit (s : State) : Host.Outcome State Fault Refusal :=
  consumeSink (fun m => m.kind == 2) (fun s f =>
    if f.src < 4096 && dieOf f.src = dieOf f.dest && clusterOf f.src = clusterOf f.dest then
      pure (s.depositAtomic f)
    else pure (s.modDie (dieOf f.dest) fun y =>
      let e := Tab.get {} y.atomics (clusterOf f.dest)
      { y with atomics := Tab.put y.atomics (clusterOf f.dest) { e with queue := e.queue ++
          [{ port := 32, hi := f.msg.isHi, pa := 0, op := 0, b := 0, x := 0, core := f.dest, ctx := 15, id := 0
             deposit := some f }] } })) s

/-- A core counter rises (R393). -/
def Core.raiseCounter (x : Core) (i : Nat) (v : Word) : Core := { x with sc := Tab.put x.sc i (Tab.get 0 x.sc i + v) }

/-- COUNTER_MESSAGE (R343). -/
def execCounterMessage (s : State) : Host.Outcome State Fault Refusal :=
  consumeSink (fun m => m.kind == 3) (fun s f =>
    pure ((s.modCore f.dest fun x => x.raiseCounter (field (f.msg.word 0) 7 0) (f.msg.word 1)).consumed f 1)) s

/-- The completion of a `copy.r` of tag `t` (R343, R248). -/
def Core.completeRemote (x : Core) (t : Nat) : Core :=
  match x.copies.find? fun c => c.tag == t && c.done == c.total &&
      (match c.form with
       | .remote _ => true
       | _ => false) with
  | some c => { x.finishTag t with copies := x.copies.erase c }
  | none => if Tab.get 0 x.tagCount t = 0 then x else x.finishTag t

/-- COPY_COMPLETION: LEN = 0 (R343). -/
def execCopyCompletion (s : State) : Host.Outcome State Fault Refusal :=
  consumeSink (fun m => m.kind == 6 && m.len != 16) (fun s f =>
    pure ((s.modCore f.dest fun x => x.completeRemote (f.msg.tag % 64)).consumed f 1)) s

/-- STATUS_COMPLETION: LEN = 16 (R343, R322). -/
def execStatusCompletion (s : State) : Host.Outcome State Fault Refusal :=
  consumeSink (fun m => m.kind == 6 && m.len == 16) (fun s f =>
    let s := s.sinkWrite f (field (f.msg.word 1) 19 0) (bytesOf 8 (f.msg.word 0).toNat)
    pure ((s.modCore f.dest fun x => x.setTag (f.msg.tag % 64)).consumed f 1)) s

/-- COMBINING_MESSAGE: the arrival is merged into the running result, and its counter rises (R360). -/
def execCombiningMessage (s : State) : Host.Outcome State Fault Refusal :=
  consumeSink (fun m => m.kind == 4) (fun s f =>
    let m := f.msg
    let n := m.elementCount * m.elementSize
    let offs := upFrom m.resultOffset n
    let running := cutBytes m.elementSize m.elementCount (s.tileBytes f.dest offs)
    let result := (mergeElements m.cop m.intFormat running m.elements).flatMap (bytesOf m.elementSize)
    let s := (s.noteRead f.dest offs).sinkWrite f m.resultOffset result
    pure ((s.modCore f.dest fun x => x.raiseCounter (field (m.word 0) 47 40) (word m.contributions)).consumed f
      m.weight)) s

end Sys2Proof.Machine
end

