-- ==== Sys2Proof/Machine/Tables.lean ====
section
/-! DEFINITION. The instructions on the device's tables (R385 to R392) but `ipatch`, and the steps in which changes of
handler bindings, region bindings and publish buffers take effect (R368, R370, R372), walks (R378) and the core map
(R380). -/

namespace Sys2Proof.Machine

/-! ## Handler bindings (R367, R368, R386) -/

/-- The dies that are not fenced. -/
def State.liveDies (s : State) : List Nat := (upFrom 0 4).filter fun d => !s.fenced.getLsbD d

/-- The binding table of a launch as the Derrick of a die holds it; a die that lists none holds the master's (R368). -/
def State.derrickTable (s : State) (d lid : Nat) : Tab Word :=
  (Tab.find (s.die d).bindings lid).getD (s.launchOf lid).bindings

/-- A change of slot `slot` of a launch's table: the master's copy holds it at once, and it goes to the Derricks, named
4096 + die, and to the cores that cache the table (R368). -/
def State.changeBinding (s : State) (lid slot : Nat) (entry : Word) (k c : Nat) : State :=
  let cores := s.cores.filterMap fun p => if (Tab.find p.2.bindCache lid).isSome then some p.1 else none
  let change : Change := { lid, slot, entry, core := k, ctx := c, left := s.liveDies.map (4096 + ·) ++ cores }
  let kept := s.liveDies.foldl (fun t d => t.modDie d fun x => { x with
    bindings := Tab.put x.bindings lid (s.derrickTable d lid) }) s
  let l := (s.launch? lid).getD {}
  { kept with master := { s.master with
      launches := Tab.put s.master.launches lid { l with bindings := Tab.put l.bindings slot entry }
      bindings := s.master.bindings ++ [change] } }

/-- The waiting instruction's change is done, or it waits for it; one that has waited is done. -/
def afterChange (old : Ctx) (change : M Unit) : M Unit := do
  let (k, c) ← here
  if old.latch = .asked then retire
  else do
    change
    let s ← get
    if s.waitOver k c .changed then retire else awaitAnswer old .changed

/-- `bindh` and `unbindh` (R386). `offset` is none for `unbindh`. -/
def changeHandler (rd : BitVec 6) (offset : Option (BitVec 6)) (slot : Nat) : M Unit := do
  let old ← myCtx
  let (k, c) ← here
  let d ← readS rd
  let a ← match offset with
    | some ra => readS ra
    | none => pure 0
  let lid := if rd = 0#6 then old.launchId.toNat else field d 15 0
  afterChange old (do
    if lid = 0 && c ≠ 15 then privilegeFault else pure ()
    let s ← get
    require (s.live lid)
    let l := s.launchOf lid
    if c ≠ 15 && l.asid ≠ (s.core k).asid.toNat then privilegeFault else pure ()
    match offset with
    | some _ => do
      require (decide (a.toNat < field (l.word 1) 63 32 / 2))
      modify fun s => s.changeBinding lid slot (word (2 ^ 63 + field a 31 0)) k c
    | none => modify fun s => s.changeBinding lid slot (word (field (Tab.get 0 l.bindings slot) 31 0)) k c)

/-- `bindh` (R386). -/
def execBindh (rd ra : BitVec 6) (k : BitVec 8) (s : State) : Host.Outcome State Fault Refusal :=
  runM (changeHandler rd (some ra) k.toNat) s

/-- `unbindh` (R386). -/
def execUnbindh (rd : BitVec 6) (k : BitVec 8) (s : State) : Host.Outcome State Fault Refusal :=
  runM (changeHandler rd none k.toNat) s

/-- A change has reached a core or die; it is over when it has reached all. -/
def reached (p : Change → Bool) (who : Nat) (l : List Change) : List Change :=
  (l.map fun e => if p e then { e with left := e.left.filter (· != who) } else e).filter fun e => !e.left.isEmpty

/-- The oldest change of a list that has not reached `who` reaches it. -/
def reachFirst (who : Nat) (l : List Change) : List Change :=
  let first := l.takeWhile fun e => !e.left.contains who
  let rest := l.drop first.length
  first ++ reached (fun _ => true) who (rest.take 1) ++ rest.drop 1

/-- The tables with a changed slot, where they list the change's launch. -/
def Change.applyTo (e : Change) (t : Tab (Tab Word)) : Tab (Tab Word) :=
  match Tab.find t e.lid with
  | some b => Tab.put t e.lid (Tab.put b e.slot e.entry)
  | none => t

/-- BINDING_CHANGE_APPLY: the oldest change of a binding that has not reached a die's Derrick, with the flag, or a core
reaches it; a Derrick applies a change to the cores once it holds it (R368). -/
def execBindingChangeApply (s : State) : Host.Outcome State Fault Refusal :=
  runEvent (do
    let d := if s.input.flag then s.input.die else dieOf s.input.core
    let who := if s.input.flag then 4096 + d else s.input.core
    match s.master.bindings.find? fun e => e.left.contains who with
    | none => notNow
    | some e =>
      if !s.input.flag && e.left.contains (4096 + d) then notNow
      else
        let s := { s with master := { s.master with bindings := reachFirst who s.master.bindings } }
        set (if 4096 ≤ who then s.modDie d fun x => { x with bindings := e.applyTo x.bindings }
          else s.modCore who fun x => { x with bindCache := e.applyTo x.bindCache })) s

/-- A message that the core's NI has not dispatched names the launch. -/
def State.wantsTable (s : State) (k lid : Nat) : Bool :=
  let x := s.core k
  (x.hiInbox.take 1 ++ x.loInbox.take 1 ++ x.park ++ x.tipPark.map (·.msg)).any fun m => m.kind == 0 && m.lid == lid

/-- BINDING_TABLE_FETCH: a core's NI fetches the binding table of launch `n`, which a message needs, from its die's
Derrick; when it holds eight, that of launch `m` makes room, or else the first (R368, log 8). A change that the Derrick
does not hold yet still has to reach the core. -/
def execBindingTableFetch (s : State) : Host.Outcome State Fault Refusal :=
  runEvent (do
    let k := s.input.core
    let lid := s.input.n
    let cache := (s.core k).bindCache
    if (Tab.find cache lid).isSome || !s.wantsTable k lid then notNow
    else
      let victim := if cache.length < 8 then none
        else if (Tab.find cache s.input.m).isSome then some s.input.m else (cache.head?.map (·.1))
      let gone := fun (e : Change) => e.lid == lid || some e.lid == victim
      let cache := match victim with
        | some v => Tab.del cache v
        | none => cache
      let late := fun (e : Change) => e.lid == lid && e.left.contains (4096 + dieOf k)
      let changes := (reached gone k s.master.bindings).map fun e => if late e then { e with left := k :: e.left } else e
      let s := { s with master := { s.master with bindings := changes } }
      set (s.modCore k fun x => { x with bindCache := Tab.put cache lid (s.derrickTable (dieOf k) lid) })) s

/-! ## Region bindings (R369, R370, R387) -/

/-- A record keeps R369; V and ASID are not looked at. -/
def regionOk (ws : List Word) : Bool :=
  let w := fun i => ws.getD i 0
  zeroBits (w 0) 62 56 && zeroBits (w 0) 11 0 && zeroBits (w 1) 63 56 && zeroBits (w 1) 2 0 && zeroBits (w 2) 63 32 &&
  decide (1 ≤ field (w 2) 31 0) && decide (field (w 0) 55 12 + field (w 2) 31 0 ≤ 2 ^ 44) && zeroBits (w 3) 63 13

/-- Two regions have a page in common. -/
def regionsMeet (a b : List Word) : Bool :=
  let lo := fun (ws : List Word) => field (ws.getD 0 0) 55 12
  let hi := fun (ws : List Word) => lo ws + field (ws.getD 2 0) 31 0
  decide (lo a < hi b ∧ lo b < hi a)

/-- The entry of a record under an ASID. -/
def regionEntry (ws : List Word) (asid : Nat) : List Word :=
  [word (2 ^ 63 + field (ws.getD 0 0) 55 12 * 4096), ws.getD 1 0, ws.getD 2 0, word asid]

/-- The master writes a region entry and sends it to the dies (R370). -/
def State.changeRegion (s : State) (i : Nat) (ws : List Word) (k c : Nat) : State :=
  { s with master := { s.master with
      regions := Tab.put s.master.regions i ws
      regionChanges := s.master.regionChanges ++ [{ slot := i, words := ws, core := k, ctx := c, left := s.liveDies }] } }

/-- The instruction has its answer and waits until the change is applied everywhere; then the answer is its result. -/
def answerChange (old : Ctx) (rd : BitVec 6) (body : M (Word × Bool)) : M Unit := do
  match old.latch with
  | .answered w => do
    writeS rd w
    retire
  | _ => do
    let (w, wait) ← body
    if wait then
      modMyCtx fun t => { t with state := .wait, waitOn := some .changed, latch := .answered w, ldq := old.ldq }
    else do
      writeS rd w
      retire

/-- `n` words at a local tile address, read as loads of the context; another address is a value fault. -/
def tileRecord (a : Word) (align n : Nat) : M (List Word) := do
  require (localTile a && a.toNat % align == 0) a
  let bs ← readBytes (8 * n) a
  pure (wordsOf n bs)

/-- `bind` (R387). Once the change is on its way the instruction is not at a boundary (log 19). -/
def execBind (rd ra : BitVec 6) (s : State) : Host.Outcome State Fault Refusal :=
  runM (do
    let old ← myCtx
    let (k, c) ← here
    let a ← readS ra
    answerChange old rd (do
      let ws ← tileRecord a 8 4
      require (regionOk ws) a
      let s ← get
      let entry := regionEntry ws (s.core k).asid.toNat
      if s.master.regions.any fun r => regionValid r.2 && regionAsid r.2 == (s.core k).asid.toNat && regionsMeet r.2 entry then
        pure (0xFFFFFFFFFFFFFFFE, false)
      else
        match (upFrom 0 4096).find? fun i => !regionValid (Tab.get [] s.master.regions i) with
        | none => pure (0xFFFFFFFFFFFFFFFF, false)
        | some i => do
          modify fun s => s.changeRegion i entry k c
          pure (word i, true))) s

/-- `unbind` (R387). -/
def execUnbind (rd ra : BitVec 6) (s : State) : Host.Outcome State Fault Refusal :=
  runM (do
    let old ← myCtx
    let (k, c) ← here
    let i ← readS ra
    answerChange old rd (do
      require (decide (i.toNat ≤ 4095))
      let s ← get
      let ws := Tab.get [] s.master.regions i.toNat
      if regionValid ws && (c == 15 || regionAsid ws == (s.core k).asid.toNat) then do
        modify fun s => s.changeRegion i.toNat (word (field (ws.getD 0 0) 62 0) :: ws.drop 1) k c
        pure (0, true)
      else pure (1, false))) s

/-- REGION_BINDING_APPLY: the oldest change of the region binding table that has not reached a die takes effect there
(R370). -/
def execRegionBindingApply (s : State) : Host.Outcome State Fault Refusal :=
  runEvent (do
    let d := s.input.die
    match s.master.regionChanges.find? fun e => e.left.contains d with
    | none => notNow
    | some e =>
      let s := { s with master := { s.master with regionChanges := reachFirst d s.master.regionChanges } }
      set (s.modDie d fun x => { x with regions := Tab.put x.regions e.slot e.words })) s

/-! ## Publish buffers (R371, R372, R388) -/

/-- The publish entry of a buffer operand. -/
def State.publishEntry (s : State) (v : Word) : List Word :=
  Tab.get [] (s.die (field v 11 10)).publish (field v 9 0)

/-- A record keeps R371. -/
def publishOk (ws : List Word) : Bool :=
  let w := fun i => ws.getD i 0
  !bit (w 0) 61 && zeroBits (w 0) 47 32 && decide (1 ≤ field (w 0) 31 0 ∧ field (w 0) 31 0 ≤ 262144) &&
  zeroBits (w 1) 63 56 && zeroBits (w 1) 11 0 && zeroBits (w 2) 63 39 && zeroBits (w 2) 11 0 &&
  zeroBits (w 3) 63 39 && zeroBits (w 3) 11 0

/-- The state with a publish entry written. -/
def State.setPublish (s : State) (d n : Nat) (ws : List Word) : State :=
  s.modDie d fun x => { x with publish := Tab.put x.publish n ws }

/-- `body` once every write of the context is performed at package scope, its `st.nt` among them (R364, R388, R402, log
16): buffered lines go out, and the instruction waits at a boundary. -/
def afterWrites (old : Ctx) (body : M Unit) : M Unit := do
  let (k, c) ← here
  modify fun s => s.flushCtx k c
  let s ← get
  if s.waitOver k c .written then body else holdOn old .written

/-- `publish` mode 0, exchange (R388, R267): every write of the context is performed first, its `st.nt` among them (log
16). Once the exchange is on its way the instruction is not at a boundary (log 19). -/
def execPublish (rd : BitVec 6) (s : State) : Host.Outcome State Fault Refusal :=
  runM (do
    let old ← myCtx
    let (k, c) ← here
    let v ← readS rd
    match old.latch with
    | .answered _ => retire
    | _ => do
      let s ← get
      let ws := s.publishEntry v
      require (regionValid ws && field (ws.getD 0 0) 60 48 == (s.core k).asid.toNat)
      waitUntil (.copies (field v 11 10) (field v 9 0) true)
      afterWrites old (do
        modify fun s => { s with master := { s.master with
          exchanges := s.master.exchanges ++ [{ slot := field v 11 0, core := k, ctx := c, left := [] }] } }
        modMyCtx fun t => { t with state := .wait, waitOn := some .changed, latch := .answered 0, ldq := old.ldq })) s

/-- PUBLISH_EXCHANGE: the oldest exchange of buffer `n` of a die is applied at its home, and its instruction may retire
(R267, R388). -/
def execPublishExchange (s : State) : Host.Outcome State Fault Refusal :=
  runEvent (do
    let d := s.input.die
    let n := s.input.n
    match s.master.exchanges.find? fun e => e.slot == 1024 * d + n with
    | none => notNow
    | some e =>
      let ws := Tab.get [] (s.die d).publish n
      let s := { s with master := { s.master with exchanges := s.master.exchanges.erase e } }
      set (s.setPublish d n ((ws.getD 0 0 ^^^ 0x4000000000000000#64) :: ws.drop 1))) s

/-- `publish` mode 1, define (R388). -/
def execPublishDefine (rd ra : BitVec 6) (s : State) : Host.Outcome State Fault Refusal :=
  runM (do
    let (_, c) ← here
    let v ← readS rd
    let a ← readS ra
    if c ≠ 15 then privilegeFault else pure ()
    let ws ← tileRecord a 1 4
    let s ← get
    require (publishOk ws) a
    require (!regionValid (s.publishEntry v))
    modify fun s => s.setPublish (field v 11 10) (field v 9 0)
      ((ws.getD 0 0 &&& 0xBFFFFFFFFFFFFFFF#64) :: ws.drop 1)
    retire) s

/-- `publish` mode 2, remove (R388). -/
def execPublishRemove (rd : BitVec 6) (s : State) : Host.Outcome State Fault Refusal :=
  runM (do
    let (_, c) ← here
    let v ← readS rd
    if c ≠ 15 then privilegeFault else pure ()
    waitUntil (.copies (field v 11 10) (field v 9 0) false)
    modify fun s =>
      let ws := s.publishEntry v
      s.setPublish (field v 11 10) (field v 9 0) (word (field (ws.getD 0 0) 62 0) :: ws.drop 1)
    retire) s

/-! ## Translations (R378, R390, R391) -/

/-- An entry is one that a `tlbinv` removes. -/
def TlbEntry.hit (e : TlbEntry) (asid va : Option Nat) : Bool :=
  (asid.isNone || asid == some e.asid) &&
  match va with
  | some v => e.covers e.asid v
  | none => true

/-- A byte of the line was stored under a translation that a `tlbinv` removes (R390); `removed` are the entries of the
page. -/
def NtLine.hit (l : NtLine) (asid va : Option Nat) (removed : List TlbEntry) : Bool :=
  l.marks.any fun m => (asid.isNone || asid == some m.2.asid) &&
    match va with
    | some v => m.2.va / 4096 == v / 4096 || removed.any fun e => e.covers m.2.asid m.2.va
    | none => true

/-- Every listed core changed. -/
def State.mapCores (s : State) (f : Core → Core) : State := { s with cores := s.cores.map fun (k, x) => (k, f x) }

/-- Every listed die changed. -/
def State.mapDies (s : State) (f : Die → Die) : State := { s with dies := s.dies.map fun (d, x) => (d, f x) }

/-- Entries are removed from every TLB, and buffered lines stored under them are written out (R390). -/
def State.invalidate (s : State) (asid va : Option Nat) : State :=
  let removed := ((s.cores.flatMap fun p => p.2.utlb) ++ (s.dies.flatMap fun p => p.2.tlb)).filter fun e => e.hit asid va
  let keep := fun (e : TlbEntry) => !e.hit asid va
  let s := (s.mapCores fun x => { x with utlb := x.utlb.filter keep }).mapDies fun x => { x with tlb := x.tlb.filter keep }
  s.cores.foldl (fun s p => s.sendLines p.1 fun l => l.hit asid va removed) s

/-- `tlbinv` (R390): every earlier write of the context, its `st.nt` among them, is performed before the removal (log
16). -/
def execTlbinv (ra : BitVec 6) (k : BitVec 8) (s : State) : Host.Outcome State Fault Refusal :=
  runM (do
    let old ← myCtx
    let (core, c) ← here
    let asid ← myAsid
    let a ← if k = 0#8 || k = 2#8 then readS ra else pure 0
    if k.toNat ≥ 2 && c ≠ 15 then privilegeFault else pure ()
    if k = 0#8 then require (zeroBits a 63 56) a else pure ()
    if old.latch = .asked then retire
    else do
      let who := if k.toNat ≤ 1 then some asid else if k = 2#8 then some (field a 12 0) else none
      let page := if k = 0#8 then some a.toNat else none
      afterWrites old (do
        modify fun s => s.invalidate who page
        let s ← get
        if s.waitOver core c (.invalidated who page) then retire else awaitAnswer old (.invalidated who page))) s

/-- The pin count of a die's entry for an address. -/
def State.pins (s : State) (d asid va : Nat) : Nat :=
  (((s.die d).tlb.find? fun e => e.covers asid va).map (·.pins)).getD 0

/-- A die can take one more pin of the entry (R391); a set of eight other pinned entries has no room for it (log 20). -/
def State.canPin (s : State) (d : Nat) (e : TlbEntry) (va : Nat) : Bool :=
  let tlb := (s.die d).tlb
  let n := s.pins d e.asid va
  decide (n < 65535) && (n != 0 || decide ((tlb.filter fun x => x.pins != 0).length < 1024)) &&
  decide ((tlb.filter fun x => x.set == e.set && x.pins != 0 && !x.covers e.asid va).length < 8)

/-- The entry is installed in a die's last-level TLB with a pin count. -/
def State.setPins (s : State) (d : Nat) (e : TlbEntry) (n : Nat) : State :=
  s.modDie d fun x => { x with tlb := tlbTake (x.tlb.filter fun y => !y.covers e.asid e.va) { e with pins := n } }

/-- `tlbpin` (R391). -/
def execTlbpin (rd ra : BitVec 6) (k : BitVec 8) (s : State) : Host.Outcome State Fault Refusal :=
  runM (do
    let (core, _) ← here
    let asid ← myAsid
    let a ← readS ra
    if k = 0#8 then do
      if zeroBits a 63 56 then pure () else operandFault a 0 false false
      let s ← get
      match s.lookup core asid a.toNat with
      | (.failed kind, _) => operandFault a kind false false
      | (.busy n, _) => pause (.stack n)
      | (.leaf e, s') => do
        set s'
        match s'.placeOf e asid a.toNat .any with
        | .error kind => operandFault a kind false false
        | .ok _ => pure ()
        if (upFrom 0 4).all fun d => s'.canPin d e a.toNat then do
          modify fun s => (upFrom 0 4).foldl (fun s d => s.setPins d e (s.pins d asid a.toNat + 1)) s
          writeS rd 0
        else writeS rd 1
    else do
      let s ← get
      if s.pins (dieOf core) asid a.toNat = 0 then writeS rd 2
      else do
        let lower := fun (e : TlbEntry) => if e.covers asid a.toNat then { e with pins := e.pins - 1 } else e
        modify fun s => s.mapDies fun x => { x with tlb := x.tlb.map lower }
        writeS rd 0
    retire) s

/-- PAGE_WALK: a walk for a core's address under its ASID ends, and its leaf enters the TLBs (R378). -/
def execPageWalk (s : State) : Host.Outcome State Fault Refusal :=
  runEvent (do
    let k := s.input.core
    let asid := (s.core k).asid.toNat
    if (s.core k).utlb.any fun e => e.covers asid s.input.word.toNat then notNow
    else
      match s.lookup k asid s.input.word.toNat with
      | (.leaf _, s') => set s'
      | _ => notNow) s

/-! ## The core map (R380, R392) -/

/-- `cmap.rd` (R392). -/
def execCmapRd (rd ra : BitVec 6) (k : BitVec 8) (s : State) : Host.Outcome State Fault Refusal :=
  runM (do
    let a ← readS ra
    let s ← get
    let none64 : Word := BitVec.allOnes 64
    let v : Word := match k.toNat with
      | 0 =>
        match (s.mapOf (field a 11 10)).getD (field a 9 0) none with
        | some site => word (field a 11 10 * 2 ^ 24 + site * 2 ^ 14)
        | none => none64
      | 1 =>
        match (s.mapOf (field a 25 24)).findIdx? fun e => e == some (field a 23 14) with
        | some i => if s.enabled (1024 * field a 25 24 + field a 23 14) then word i else none64
        | none => none64
      | _ => word ((s.mapOf (field a 1 0)).filter Option.isSome).length
    writeS rd v
    retire) s

/-- The entries of explicit maps whose cores a predicate takes out of the core map: units dealt to them are placed
least-occupied from now on (R40). -/
def State.loseEntries (s : State) (left : Nat → Bool) : State :=
  let lose := fun (l : Launch) =>
    { l with gone := l.gone ++ l.places.filter fun e => !l.gone.contains e &&
        match (s.mapOf (e / 1024)).getD (e % 1024) none with
        | some site => left (e / 1024 * 1024 + site)
        | none => false }
  { s with master := { s.master with launches := s.master.launches.map fun p => (p.1, lose p.2) } }

/-- CORE_MAP_REPLACE: management replaces a die's whole map (R380, R40), which stands as it
is given, be a site named twice or fused off (log 102). -/
def execCoreMapReplace (s : State) : Host.Outcome State Fault Refusal :=
  runEvent (do
    let d := s.input.die
    let map := (s.input.sites.map fun e => e.filter (· < 1024)).take 1024
    let s := s.loseEntries fun k => dieOf k == d && !map.contains (some (k % 1024))
    set (s.modDie d fun x => { x with coreMap := map })) s

end Sys2Proof.Machine
end

