-- ==== Sys2Proof/Machine/Bench.lean ====
section
/-! DEFINITION. The Bench (R196 to R217): cells and their sources, ticks, the instructions `iset` to `iin`, `iclk` (R413) and
`ipatch` (R389), the Bench image, and data-triggered handlers. -/

namespace Sys2Proof.Machine

/-! ## Cells (R196, R197, R199) -/

/-- A cell by its number. -/
def Bench.cell (b : Bench) (n : Nat) : Cell := Tab.get {} b.cells n

/-- The Bench with a cell changed. -/
def Bench.modCell (b : Bench) (n : Nat) (f : Cell → Cell) : Bench := { b with cells := Tab.put b.cells n (f (b.cell n)) }

/-- A domain by its number. -/
def Bench.domain (b : Bench) (d : Nat) : Domain := Tab.get {} b.domains d

/-- The Bench with a domain changed. -/
def Bench.modDomain (b : Bench) (d : Nat) (f : Domain → Domain) : Bench :=
  { b with domains := Tab.put b.domains d (f (b.domain d)) }

/-- EN of a cell. -/
def Cell.enabled (c : Cell) : Bool := c.cfg.getLsbD 0

/-- DOM of a cell. -/
def Cell.dom (c : Cell) : Nat := c.cfg.toNat / 2

/-- The value of a 2-bit code (R197). -/
def increment (v : Nat) : Int := if v = 1 then 1 else if v = 3 then -1 else 0

/-- The 2-bit code of −1, 0 or +1. -/
def incrementCode (i : Int) : Nat := if 0 < i then 1 else if i < 0 then 3 else 0

/-- Source code of input `i` of a cell: 0 dx, 1 dy0, 2 dy1 (R373). -/
def Cell.source (c : Cell) (i : Nat) : Nat := c.patch.toNat / 2 ^ (10 * i) % 512

/-- Negate bit of an input. -/
def Cell.negates (c : Cell) (i : Nat) : Bool := c.patch.getLsbD (10 * i + 9)

/-- The latch of an input. -/
def Cell.latchCode (c : Cell) (i : Nat) : Nat := c.latch.toNat / 2 ^ (2 * i) % 4

/-- The cell with an input's latch replaced. -/
def Cell.setLatch (c : Cell) (i v : Nat) : Cell :=
  { c with latch := BitVec.ofNat 6 (putField c.latch.toNat (2 * i + 1) (2 * i) v) }

/-- A patch entry keeps R373. -/
def patchOk (v : Nat) : Bool :=
  v / 2 ^ 30 % 4 == 0 && (upFrom 0 3).all fun i =>
    let code := v / 2 ^ (10 * i) % 512
    code < 0x105 || code == 0x1FF

/-- The domain that a source belongs to, for a cell (R199). -/
def Bench.sourceDomain (b : Bench) (c : Cell) (code : Nat) : Nat :=
  if code < 0x100 then (b.cell code).dom else if code < 0x104 then code - 0x100 else c.dom

/-- The input takes its value from another domain (R200). -/
def Bench.crosses (b : Bench) (c : Cell) (i : Nat) : Bool := b.sourceDomain c (c.source i) != c.dom

/-- What the external port delivers (R201). -/
def Cell.port (c : Cell) : Int := (c.extin.toInt).sign

/-- The value of an input in a step (R199 to R201, R203). -/
def Bench.input (b : Bench) (c : Cell) (i : Nat) : Int :=
  let code := c.source i
  let v := if b.crosses c i then increment (c.latchCode i)
    else if code < 0x100 then (if (b.cell code).enabled then increment (b.cell code).dz.toNat else 0)
    else if code < 0x104 then 1
    else if code = 0x104 then c.port
    else 0
  if c.negates i then -v else v

/-! ## Ticks (R202 to R205) -/

/-- What the step of a cell comes to: the new integrand, residue and output, or an overrun with its reason. -/
inductive Stepped where
  | done (y r dz : Int)
  | overrun (reason : Nat)

/-- The step of a cell (R202). -/
def Bench.step (b : Bench) (c : Cell) : Stepped :=
  let y := c.y.toInt + b.input c 1 + b.input c 2
  if y < -(2 : Int) ^ 31 ∨ (2 : Int) ^ 31 - 1 < y then .overrun 1
  else
    let one : Int := 2 ^ c.scale.toNat
    let r := c.rs.toInt + b.input c 0 * y
    if 2 * one ≤ r ∨ r ≤ -(2 * one) then .overrun 0
    else if one ≤ r then .done y (r - one) 1
    else if r ≤ -one then .done y (r + one) (-1)
    else .done y r 0

/-- The cells that a tick of a domain steps. -/
def Bench.members (b : Bench) (d : Nat) : List (Nat × Cell) := b.cells.filter fun p => p.2.enabled && p.2.dom == d

/-- What a domain emits in a tick: source code, the cell to report, and the value; its clock among them. -/
def Bench.emissions (b : Bench) (d : Nat) : List (Nat × Nat × Int) :=
  (b.members d).filterMap (fun p =>
    match b.step p.2 with
    | .done _ _ dz => if dz = 0 then none else some (p.1, p.1, dz)
    | .overrun _ => none) ++ [(0x100 + d, 0, 1)]

/-- The cross-domain inputs that take a domain's emission: cell and input (R203). -/
def Bench.consumers (b : Bench) (d code : Nat) : List (Nat × Nat) :=
  b.cells.flatMap fun p =>
    if p.2.enabled && p.2.dom != d then ((upFrom 0 3).filter fun i => p.2.source i == code).map fun i => (p.1, i) else []

/-- A latch is full when emissions are written: it holds an increment, and its domain has not emptied it (R203,
R205). -/
def Bench.latchFull (b : Bench) (ticking fail : List Nat) (n i : Nat) : Bool :=
  let c := b.cell n
  c.latchCode i != 0 && (!ticking.contains c.dom || fail.contains c.dom)

/-- The conditions that a domain raises in phase 2 (R202). -/
def Bench.stepOverruns (b : Bench) (d : Nat) : List (Nat × Nat) :=
  (b.members d).filterMap fun p =>
    match b.step p.2 with
    | .overrun r => some (p.1, r)
    | .done _ _ _ => none

/-- The conditions that a domain raises in phase 3 when the domains `fail` have overrun. -/
def Bench.emitOverruns (b : Bench) (ticking fail : List Nat) (d : Nat) : List (Nat × Nat) :=
  (b.emissions d).filterMap fun e =>
    if (b.consumers d e.1).any fun q => b.latchFull ticking fail q.1 q.2 then some (e.2.1, 2) else none

/-- The domains that overrun, settled (R205). -/
def Bench.settle (b : Bench) (ticking : List Nat) : Nat → List Nat → List Nat
  | 0, fail => fail
  | n + 1, fail =>
    b.settle ticking n (ticking.filter fun d => fail.contains d || !(b.emitOverruns ticking fail d).isEmpty)

/-- The condition that is reported for a domain: that of its lowest cell (R205). -/
def Bench.report (b : Bench) (ticking fail : List Nat) (d : Nat) : Nat × Nat :=
  let conds := if (b.stepOverruns d).isEmpty then b.emitOverruns ticking fail d else b.stepOverruns d
  conds.foldl (fun best c => if c.1 < best.1 then c else best) (conds.headD (0, 2))

/-- A stepped cell: its latches of other domains' sources are emptied, and the external port moves (R201 to R203). -/
def Bench.commitCell (b : Bench) (c : Cell) : Cell :=
  match b.step c with
  | .overrun _ => c
  | .done y r dz =>
    let c' := (upFrom 0 3).foldl (fun (u : Cell) i => if b.crosses c i then u.setLatch i 0 else u) c
    { c' with
      y := BitVec.ofInt 32 y, rs := BitVec.ofInt 32 r, dz := BitVec.ofNat 2 (incrementCode dz)
      oc := c.oc + BitVec.ofInt 32 dz, extin := BitVec.ofInt 16 (c.extin.toInt - c.port) }

/-- The Bench after the domains that did not overrun have committed their steps and written their emissions (R203). -/
def Bench.commit (b : Bench) (domains fail : List Nat) : Bench :=
  let stepped := { b with
    cells := b.cells.map fun p => (p.1, if p.2.enabled && domains.contains p.2.dom then b.commitCell p.2 else p.2) }
  let stepped := domains.foldl (fun (u : Bench) d => u.modDomain d fun x => { x with count := x.count + 1 }) stepped
  let stepped := fail.foldl (fun (u : Bench) d => u.modDomain d fun x => { x with dstate := 2 }) stepped
  domains.foldl (fun u d => (b.emissions d).foldl (fun u e => (b.consumers d e.1).foldl
    (fun u q => u.modCell q.1 fun c => c.setLatch q.2 (incrementCode e.2.2)) u) u) stepped

/-! ## Triggers (R214 to R217) -/

/-- ARMED of a cell's trigger. -/
def Cell.armed (c : Cell) : Bool := c.trig.getLsbD 5

/-- A committed step with output `dz` meets the trigger's mode (R214). -/
def Cell.qualifies (c : Cell) : Bool :=
  let dz := increment c.dz.toNat
  match c.trig.toNat % 8 with
  | 1 => dz != 0
  | 2 => dz == 1
  | 3 => dz == -1
  | 4 => dz == 1 && c.oc == c.octhr
  | 5 => dz == -1 && c.oc == c.octhr
  | _ => false

/-- The trigger message of cell `n` after its step (R216). -/
def Cell.trigger (c : Cell) (k n : Nat) : Msg :=
  { hdr0 := c.thdr, hdr1 := headerWord n (shortId k) c.tlid.toNat 0 0 false (c.trig.getLsbD 4) 24
    payload := [word (c.dom * 256 + n), c.y.signExtend 64, c.oc.signExtend 64] }

/-- A cell fires if its step qualifies and its trigger is armed (R216). -/
def Bench.fire (b : Bench) (k n : Nat) : Bench :=
  let c := b.cell n
  if !c.armed || !c.qualifies then b
  else if 16 ≤ b.triggers.length then
    { b.modCell n fun c => { c with trig := c.trig ||| 0x40 } with bstat := b.bstat ||| 2 }
  else
    let rearm := c.trig.getLsbD 3
    let b := { b with triggers := b.triggers ++ [(!rearm, c.trigger k n)] }
    if rearm then b else b.modCell n fun c => { c with trig := c.trig &&& 0xFFDF }

/-- The ticks of one cycle at a core, for the domains given in rising order (R203, R205, R216). Answers the domains that
committed. -/
def State.tickDomains (s : State) (k : Nat) (ticking : List Nat) : State × List Nat :=
  let b := (s.core k).bench
  let first := ticking.filter fun d => !(b.stepOverruns d).isEmpty
  let fail := b.settle ticking 4 first
  let done := ticking.filter fun d => !fail.contains d
  let b' := b.commit done fail
  let b' := done.foldl (fun u d => (b.members d).foldl (fun u p => u.fire k p.1) u) b'
  let s := s.modCore k fun x => { x with bench := b' }
  (fail.foldl (fun s d =>
    let (n, reason) := b.report ticking fail d
    s.enqueue k { cause := 0x12, ctx := none, pc := 0, addr := 0, info := word (n + 256 * d + 1024 * reason) }) s, done)

/-- The domain ticks at the end of this cycle: its divider expires while it runs (R207), or a context's `istep` steps it
(R211). -/
def Domain.dueAt (x : Domain) (now : Nat) : Bool :=
  (x.dstate == 1 && decide (x.due ≤ now)) || (x.stepper.isSome && x.stepLeft != 0 && decide (x.stepDue ≤ now))

/-- The domain after its tick: its next tick is a divider on (R207). A step of an `istep` is counted if it has committed,
the next comes four cycles on, and an overrun is the last (R211). -/
def Domain.ticked (x : Domain) (now : Nat) (committed : Bool) : Domain :=
  let x := if x.dstate = 1 && x.due ≤ now then { x with due := x.due + x.divider } else x
  if x.stepper.isSome && x.stepLeft != 0 && x.stepDue ≤ now then
    { x with stepDue := now + 4, stepLeft := if committed then x.stepLeft - 1 else 0
             stepDone := if committed then x.stepDone + 1 else x.stepDone }
  else x

/-- The ticks of a core's cycle (R203, R204): every domain that ticks in it ticks jointly. -/
def State.tickDue (s : State) (k : Nat) : State :=
  let x := s.core k
  let ticking := (upFrom 0 4).filter fun d => (x.bench.domain d).dueAt x.cycle
  if ticking.isEmpty then s
  else
    let (s', done) := s.tickDomains k ticking
    s'.modCore k fun y => { y with bench := ticking.foldl (fun (u : Bench) d =>
      u.modDomain d fun z =>
        let w := (x.bench.domain d).ticked x.cycle (done.contains d)
        { z with due := w.due, stepDue := w.stepDue, stepLeft := w.stepLeft, stepDone := w.stepDone }) y.bench }

/-- STEP_CLOCK_TICK: the ticks of a core's cycle come. They come before its next cycle in any case (R204). -/
def execStepClockTick (s : State) : Host.Outcome State Fault Refusal :=
  runEvent (do
    let k := s.input.core
    let x := s.core k
    if s.tripped || !((upFrom 0 4).any fun d => (x.bench.domain d).dueAt x.cycle) then notNow
    else set ((s.tickDue k).modCore k fun y => { y with bench := { y.bench with ticked := true } })) s

/-- A trigger's message is accepted by the outbox; one whose destination cannot be reached is dropped (R217, R348). -/
def State.acceptTrigger (s : State) (k : Nat) (held : Bool) (m : Msg) : State :=
  let node := nodeOf m.hdr0
  let dests := s.destsOf m.hdr0
  if s.destinationOk m.hdr0 then
    let s := (s.modCore k fun x => { x with outbox := x.outbox ++ [{ msg := m, ctx := 15, node, dests }] }).sent k m.lid dests 1
    if held then s else s.count k m.lid 1
  else (if held then s.count k m.lid (-1) else s).lose m.lid

/-- TRIGGER_QUEUE_TRANSFER: the head of the trigger queue passes to the outbox; while a LO head waits for the Tip, a HI
message passes it (R217). -/
def execTriggerQueueTransfer (s : State) : Host.Outcome State Fault Refusal :=
  runEvent (do
    let k := s.input.core
    let x := s.core k
    let free := fun (q : Bool × Msg) => q.2.isHi || !x.tipFull
    let i := if (x.bench.triggers.head?.map free).getD false then 0
      else (x.bench.triggers.findIdx? fun q => q.2.isHi).getD 0
    match x.bench.triggers[i]? with
    | none => notNow
    | some q =>
      if 16 ≤ x.outbox.length || !free q then notNow
      else set ((s.modCore k fun x => { x with bench := { x.bench with triggers := dropNth x.bench.triggers i } }).acceptTrigger
        k q.1 q.2)) s

/-- A cell's armed trigger is disarmed, and its count is retired (R215). -/
def State.disarm (s : State) (k n : Nat) : State :=
  let c := (s.core k).bench.cell n
  if c.armed then
    (s.modCore k fun x => { x with bench := x.bench.modCell n fun c => { c with trig := c.trig &&& 0xFFDF } }).count k
      c.tlid.toNat (-1)
  else s

/-! ## External increments (R201, R210) -/

/-- An increment at a cell's external port, and whether it saturates. -/
def Bench.addExternal (b : Bench) (n : Nat) (v : Int) : Bench × Bool :=
  let t := (b.cell n).extin.toInt + v
  let c := max (-32768) (min 32767 t)
  let b := b.modCell n fun x => { x with extin := BitVec.ofInt 16 c }
  if c = t then (b, false) else ({ b with bstat := b.bstat ||| 1 }, true)

/-- Change the Bench of the core in the slot. -/
def modBench (f : Bench → Bench) : M Unit := modMyCore fun x => { x with bench := f x.bench }

/-- The Bench of the core in the slot. -/
def myBench : M Bench := do
  let x ← myCore
  pure x.bench

/-- A Bench instruction waits while an `isave` or `irest` of another context is in progress (R208). -/
def benchFree : M Unit := waitUntil .image

/-- `iin` (R210). -/
def execIin (ra rb : BitVec 6) (s : State) : Host.Outcome State Fault Refusal :=
  runM (do
    benchFree
    let a ← readS ra
    let b ← readS rb
    let u ← myBench
    let (u, sat) := u.addExternal (field a 7 0) b.toInt
    modBench fun _ => u
    if sat then modMyCtx fun t => t.orFlags flagSAT else pure ()
    retire) s

/-- BENCH_DEPOSIT (R341, R210). It acts before the ticks of its cycle (R204). -/
def execBenchDeposit (s : State) : Host.Outcome State Fault Refusal :=
  consumeSink (fun m => m.kind == 1 && m.layoutOk && m.tag == 0xB000) (fun s f =>
    let add := fun (b : Bench) (w : Word) => (b.addExternal (field w 7 0) (signedOf 32 (field w 63 32))).1
    if (s.core f.dest).bench.ticked then notNow
    else pure ((s.modCore f.dest fun x => { x with bench := f.msg.payload.foldl add x.bench }).consumed f 1)) s

/-! ## `iset` and `iget` (R209) -/

/-- |RS| < 2^SCALE. -/
def residueOk (rs : Int) (scale : Nat) : Bool := decide (rs.natAbs < 2 ^ scale)

/-- No pair of the code is 0b10 (R197). -/
def latchOk (v : Nat) : Bool := (upFrom 0 3).all fun i => v / 2 ^ (2 * i) % 4 != 2

/-- The cell after `iset` of a selector, or none where R209 asks for the fault. -/
def Cell.put (c : Cell) (sel : Nat) (v : Word) : Option Cell :=
  match sel with
  | 0 => some { c with y := v.setWidth 32 }
  | 1 => if residueOk (v.setWidth 32).toInt c.scale.toNat then some { c with rs := v.setWidth 32 } else none
  | 2 => if 8 ≤ field v 4 0 && residueOk c.rs.toInt (field v 4 0) then some { c with scale := v.setWidth 5 } else none
  | 3 => some { c with oc := v.setWidth 32 }
  | 4 => some { c with octhr := v.setWidth 32 }
  | 5 => some { c with cfg := v.setWidth 3, dz := 0, latch := 0 }
  | 6 => if latchOk (field v 5 0) then some { c with latch := v.setWidth 6 } else none
  | 7 => some { c with extin := v.setWidth 16 }
  | 8 => if field v 1 0 ≠ 2 then some { c with dz := v.setWidth 2 } else none
  | _ => none

/-- `iset` (R209). -/
def execIset (ra rb : BitVec 6) (s : State) : Host.Outcome State Fault Refusal :=
  runM (do
    benchFree
    let a ← readS ra
    let v ← readS rb
    let b ← myBench
    if field a 11 8 = 12 then modBench fun b => { b with bstat := b.bstat &&& ~~~(v &&& 3) }
    else
      match (b.cell (field a 7 0)).put (field a 11 8) v with
      | none => valueFault
      | some c => modBench fun b => b.modCell (field a 7 0) fun _ => c
    retire) s

/-- What `iget` returns for a selector (R209). -/
def Bench.get (b : Bench) (a : Word) : Option Word :=
  let c := b.cell (field a 7 0)
  match field a 11 8 with
  | 0 => some (c.y.signExtend 64)
  | 1 => some (c.rs.signExtend 64)
  | 2 => some (c.scale.setWidth 64)
  | 3 => some (c.oc.signExtend 64)
  | 4 => some (c.octhr.signExtend 64)
  | 5 => some (c.cfg.setWidth 64)
  | 6 => some (c.latch.setWidth 64)
  | 7 => some (c.extin.signExtend 64)
  | 8 => some (c.dz.setWidth 64)
  | 9 => some (c.trig.setWidth 64)
  | 10 => some c.thdr
  | 11 => some ((b.domain (field a 1 0)).dstate.setWidth 64)
  | 12 => some b.bstat
  | _ => none

/-- `iget` (R209). -/
def execIget (rd ra : BitVec 6) (s : State) : Host.Outcome State Fault Refusal :=
  runM (do
    benchFree
    let a ← readS ra
    let b ← myBench
    match b.get a with
    | none => valueFault
    | some v => writeS rd v
    retire) s

/-! ## `istep`, `iclk`, `ipatch`, `ibind`, `isnap` -/

/-- An instruction whose effects come over several turns has room for its result before the first (R120). -/
def roomFor (rd : BitVec 6) : M Unit := do
  let t ← myCtx
  if rd = 61#6 && 16 ≤ t.pushed then illegalOperand 3 else pure ()

/-- An `istep` begins: the domain's ticks come with those of the core's cycles, the first four cycles on (R208, R211,
log 79). -/
def stepBegins (old : Ctx) (d n : Nat) : M Unit := do
  let (_, c) ← here
  let x ← myCore
  modBench fun b => b.modDomain d fun y =>
    { y with stepper := some c, stepDue := x.cycle + 4, stepLeft := n, stepDone := 0 }
  awaitAnswer old (.stepping d)

/-- The ticks of an `istep` are over (R211). -/
def stepEnds (rd : BitVec 6) (d : Nat) : M Unit := do
  let b ← myBench
  modBench fun b => b.modDomain d fun y => { y with stepper := none }
  writeS rd (word (b.domain d).stepDone)
  retire

/-- `istep` (R211). -/
def execIstep (rd ra rb : BitVec 6) (s : State) : Host.Outcome State Fault Refusal :=
  runM (do
    let old ← myCtx
    let a ← readS ra
    let n ← readS rb
    let d := field a 1 0
    if old.latch = .asked then do
      waitUntil (.stepping d)
      stepEnds rd d
    else do
      benchFree
      waitUntil (.domain d)
      let b ← myBench
      require (decide (1 ≤ n.toNat ∧ n.toNat ≤ 65536) && zeroBits a 63 2 && (b.domain d).dstate != 1)
      roomFor rd
      stepBegins old d n.toNat) s

/-- A domain starts ticking at a cycle (R207). -/
def Domain.start (x : Domain) (now : Nat) : Domain := { x with dstate := 1, due := now + x.divider }

/-- `iclk` (R413). CMD 2 stops a FAULTED domain as well (log 106). -/
def execIclk (rd ra rb : BitVec 6) (s : State) : Host.Outcome State Fault Refusal :=
  runM (do
    benchFree
    let a ← readS ra
    let v ← readS rb
    let x ← myCore
    let d := field a 1 0
    let div := field v 32 16
    require (zeroBits a 63 2 && zeroBits v 63 33 && zeroBits v 15 2)
    let dom := x.bench.domain d
    match field v 1 0 with
    | 1 => if dom.dstate = 1 then pure () else modBench fun b => b.modDomain d fun y => y.start x.cycle
    | 2 => modBench fun b => b.modDomain d fun y => { y with dstate := 0 }
    | 3 => do
      require (decide (4 ≤ div ∧ div ≤ 65536))
      modBench fun b => b.modDomain d fun y =>
        { y with divider := div, due := if y.dstate = 1 then x.cycle + div else y.due }
    | _ => pure ()
    writeS rd dom.count
    retire) s

/-- A cell with a new patch entry: the latches of the inputs that change are emptied (R389). -/
def Cell.rewire (c : Cell) (v : BitVec 32) : Cell :=
  let changed := fun i => c.patch.toNat / 2 ^ (10 * i) % 1024 != v.toNat / 2 ^ (10 * i) % 1024
  { (upFrom 0 3).foldl (fun (u : Cell) i => if changed i then u.setLatch i 0 else u) c with patch := v }

/-- `ipatch` (R389). -/
def execIpatch (rd ra : BitVec 6) (k : BitVec 8) (s : State) : Host.Outcome State Fault Refusal :=
  runM (do
    benchFree
    let a ← readS ra
    require (patchOk (field a 31 0))
    let b ← myBench
    modBench fun b => b.modCell k.toNat fun c => c.rewire (a.setWidth 32)
    writeS rd ((b.cell k.toNat).patch.setWidth 64)
    retire) s

/-- `ibind` (R215). -/
def execIbind (ra rb : BitVec 6) (s : State) : Host.Outcome State Fault Refusal :=
  runM (do
    benchFree
    let cfg ← readS ra
    let v ← readS rb
    let (k, _) ← here
    let t ← myCtx
    let n := field cfg 7 0
    let mode := field cfg 10 8
    require (decide (mode ≤ 5) && zeroBits v 12 0)
    modify fun s => s.disarm k n
    let trig := (if mode = 0 then 0 else 32) + field cfg 12 11 * 8 + mode
    modBench fun b => b.modCell n fun c => { c with
      trig := BitVec.ofNat 16 trig, thdr := v, tlid := t.launchId
      octhr := if mode = 4 || mode = 5 then BitVec.ofNat 32 (field cfg 63 32) else c.octhr }
    if mode = 0 then pure () else modify fun s => s.count k t.launchId.toNat 1
    retire) s

/-- `isnap` (R212). -/
def execIsnap (ra rb : BitVec 6) (s : State) : Host.Outcome State Fault Refusal :=
  runM (do
    benchFree
    let a ← readS ra
    let v ← readS rb
    let f := field v 7 0
    let n := field v 16 8
    require (localTile a && a.toNat % 4 == 0) a
    require (decide (1 ≤ n ∧ n ≤ 256 ∧ f + n ≤ 256))
    let b ← myBench
    let data := (upFrom f n).flatMap fun i =>
      bytesOf 4 (if bit v 24 then (b.cell i).oc else (b.cell i).y).toNat
    storeBytes a data
    retire) s

/-! ## The Bench image (R213) -/

/-- The words of the Bench image. -/
def imageWords : Nat := 1288

/-- The four words of a cell's record. -/
def Cell.record (c : Cell) : List Word :=
  [word (c.y.toNat + c.rs.toNat * 2 ^ 32), word (c.oc.toNat + c.octhr.toNat * 2 ^ 32),
   word (c.patch.toNat + c.extin.toNat * 2 ^ 32 + c.trig.toNat * 2 ^ 48),
   word (c.cfg.toNat + c.scale.toNat * 2 ^ 8 + c.dz.toNat * 2 ^ 16 + c.latch.toNat * 2 ^ 24 + c.tlid.toNat * 2 ^ 32)]

/-- The 4-byte record of a domain. -/
def Domain.record (d : Domain) : Nat := d.divider + d.dstate.toNat * 2 ^ 24

/-- The Bench image as words. -/
def Bench.image (b : Bench) : List Word :=
  [1] ++ (upFrom 0 4).map (fun d => (b.domain d).count) ++
  [word ((b.domain 0).record + (b.domain 1).record * 2 ^ 32), word ((b.domain 2).record + (b.domain 3).record * 2 ^ 32),
   b.bstat] ++ (upFrom 0 256).flatMap (fun n => (b.cell n).record) ++ (upFrom 0 256).map fun n => (b.cell n).thdr

/-- A domain's record is in order. -/
def domainOk (v : Nat) : Bool :=
  decide (4 ≤ v % 2 ^ 17 ∧ v % 2 ^ 17 ≤ 65536) && v / 2 ^ 17 % 2 ^ 7 == 0 && decide (v / 2 ^ 24 % 4 ≤ 2) && v / 2 ^ 26 % 64 == 0

/-- Word `j` of a cell's record is in order; `w` gives the record's words. -/
def recordOk (w : Nat → Word) (j : Nat) : Bool :=
  match j with
  | 0 => residueOk (signedOf 32 (field (w 0) 63 32)) (field (w 3) 12 8)
  | 1 => true
  | 2 => patchOk (field (w 2) 31 0) && zeroBits (w 2) 63 55 && decide (field (w 2) 50 48 ≤ 5)
  | _ => zeroBits (w 3) 7 3 && zeroBits (w 3) 15 13 && decide (8 ≤ field (w 3) 12 8) && zeroBits (w 3) 23 18 &&
      field (w 3) 17 16 != 2 && zeroBits (w 3) 31 30 && latchOk (field (w 3) 29 24) && zeroBits (w 3) 63 48

/-- Word `i` of an image is in order (R213). -/
def imageWordOk (ws : List Word) (i : Nat) : Bool :=
  let w := ws.getD i 0
  if i = 0 then w == 1
  else if i < 5 then true
  else if i < 7 then domainOk (field w 31 0) && domainOk (field w 63 32)
  else if i = 7 then zeroBits w 63 2
  else if i < 1032 then
    let base := 8 + (i - 8) / 4 * 4
    recordOk (fun j => ws.getD (base + j) 0) ((i - 8) % 4)
  else true

/-- The first word of an image that is not in order. -/
def imageFault (ws : List Word) : Option Nat := (upFrom 0 imageWords).find? fun i => !imageWordOk ws i

/-- A cell from its record and THDR; `armed` keeps ARMED. -/
def cellOf (w : Nat → Word) (thdr : Word) (armed : Bool) : Cell :=
  { y := (w 0).setWidth 32, rs := BitVec.ofNat 32 (field (w 0) 63 32), oc := (w 1).setWidth 32
    octhr := BitVec.ofNat 32 (field (w 1) 63 32), patch := (w 2).setWidth 32
    extin := BitVec.ofNat 16 (field (w 2) 47 32)
    trig := BitVec.ofNat 16 (if armed then field (w 2) 63 48 else putField (field (w 2) 63 48) 5 5 0)
    cfg := (w 3).setWidth 3, scale := BitVec.ofNat 5 (field (w 3) 12 8), dz := BitVec.ofNat 2 (field (w 3) 17 16)
    latch := BitVec.ofNat 6 (field (w 3) 29 24), tlid := BitVec.ofNat 16 (field (w 3) 47 32), thdr := thdr }

/-- A domain from its record and count; one that is RUNNING ticks from the cycle on. An `istep` of it goes on (R211). -/
def domainOf (old : Domain) (v : Nat) (count : Word) (now : Nat) : Domain :=
  { old with dstate := BitVec.ofNat 2 (v / 2 ^ 24), divider := v % 2 ^ 17, count, due := now + v % 2 ^ 17 }

/-- The Bench that an image describes; the trigger queue stays. -/
def Bench.ofImage (b : Bench) (ws : List Word) (armed : Bool) (now : Nat) : Bench :=
  let w := fun i => ws.getD i 0
  { b with
    cells := (upFrom 0 256).map fun n => (n, cellOf (fun j => w (8 + 4 * n + j)) (w (1032 + n)) armed)
    domains := (upFrom 0 4).map fun d => (d, domainOf (b.domain d) (field (w (5 + d / 2)) (32 * (d % 2) + 31) (32 * (d % 2))) (w (1 + d)) now)
    bstat := w 7 }

/-- The outcome of an `isave` or `irest`: while it has to wait with its image begun, it is in progress (R208). -/
def runImage (body : M Unit) (s : State) : Host.Outcome State Fault Refusal :=
  let hold := fun (s : State) => s.modCtx s.iss.core s.iss.ctx fun t => { t with imaging := true }
  match body.run s with
  | .ok r => .next r.2
  | .error (.wait .image) => .next (s.enterWait .image)
  | .error (.wait .ldqHead) => .next (s.enterWait .ldqHead)
  | .error (.wait w) => .next (hold (s.enterWait w))
  | .error (.ask o q) => .next (hold ((Stop.ask o q).outcome s))
  | .error e => .next (e.outcome s)

/-- The image of the Bench, captured at one boundary, goes out as stores; the instruction waits until every byte is written
(R213). -/
def sendImage (old : Ctx) (a : Word) : M Unit := do
  let (k, c) ← here
  let b ← myBench
  let data := b.image.flatMap fun w => bytesOf 8 w.toNat
  let refs ← accessRefs .write data.length a true
  awaitWrites refs
  let asid ← myAsid
  let e ← confirmRuns (.ctx k c) asid a (nodeRuns refs)
  if e then modMyCtx Ctx.remoteError else pure ()
  noteOutside k c true refs
  modify fun s => (s.storeLocal k c asid a refs data).postRuns (.ctx k c) (dieOf k) asid data (nodeRuns refs)
  if refs.all fun r => !r.global then retire
  else do
    awaitAnswer old .written
    modMyCtx fun t => { t with imaging := true }

/-- `isave` (R213). -/
def execIsave (ra : BitVec 6) (s : State) : Host.Outcome State Fault Refusal :=
  runImage (do
    let old ← myCtx
    benchFree
    let a ← readS ra
    if old.latch = .asked then do
      waitUntil .written
      retire
    else sendImage old a) s

/-- `irest` (R213). -/
def execIrest (ra : BitVec 6) (s : State) : Host.Outcome State Fault Refusal :=
  runImage (do
    benchFree
    let a ← readS ra
    let bs ← readBytes (8 * imageWords) a
    let ws := wordsOf imageWords bs
    match imageFault ws with
    | some i => valueFault (a + word (8 * i))
    | none => do
      let (k, _) ← here
      modify fun s => (upFrom 0 256).foldl (fun s n => s.disarm k n) s
      modMyCore fun x => { x with bench := x.bench.ofImage ws false x.cycle }
      retire) s

end Sys2Proof.Machine
end

