-- ==== Sys2Proof/Machine/Counters.lean ====
section
/-! DEFINITION. Counters (R393 to R401), the instructions that start and cancel work (R402, R404), copy tags (R405),
barriers (R406 to R412), and the status counters (R414, R415). -/

namespace Sys2Proof.Machine

/-! ## Counters (R399 to R401) -/

/-- The counter name in a register. -/
def readName (ra : BitVec 6) (cancel : Bool) : M Word := do
  let v ← readS ra
  require (nameOk v cancel)
  pure v

/-- `cnt.inc` (R400). -/
def execCntInc (ra rb : BitVec 6) (s : State) : Host.Outcome State Fault Refusal :=
  runM (do
    let (k, c) ← here
    let t ← myCtx
    let name ← readS ra
    let v ← readS rb
    require (nameOk name false && nameClass name == 0)
    if nameRemote name then do
      let hw0 := word (field name 31 13 * 2 ^ 13)
      let s ← get
      require (s.destinationOk hw0)
      let node := nodeOf hw0
      let dests := s.destsOf hw0
      let m : Msg :=
        { hdr0 := hw0, hdr1 := headerWord 0 (shortId k) t.sendLid.toNat 0 3 false (t.hi && c != 15) 16
          payload := [word (field name 7 0), v] }
      waitOrdered node dests
      waitUntil (.outbox 1)
      modify fun s => s.accept k { msg := m, ctx := c, node, dests }
    else do
      waitPerformed 1
      modMyCore fun x => x.raiseCounter (field name 7 0) v
    retire) s

/-- `cnt.rd` (R401). -/
def execCntRd (rd ra : BitVec 6) (s : State) : Host.Outcome State Fault Refusal :=
  runM (do
    let (k, _) ← here
    let name ← readName ra false
    require (!(nameClass name == 0 && nameRemote name))
    let s ← get
    writeS rd (s.counterAt k name)
    retire) s

/-- `cnt.wait` (R401). -/
def execCntWait (rd ra rb : BitVec 6) (s : State) : Host.Outcome State Fault Refusal :=
  runM (do
    let (k, _) ← here
    let name ← readS ra
    let target ← readS rb
    require (nameOk name false && !(nameClass name == 0 && nameRemote name))
    waitUntil (.counter name target)
    let s ← get
    writeS rd (s.counterAt k name)
    retire) s

/-! ## `launch` and `cancel` (R402, R404) -/

/-- The request of the instruction goes to the master, and the instruction waits for the answer (R188). During an
election it waits at its local Derrick: the instruction is at a boundary still (R402, R404). -/
def askMaster (old : Ctx) (q : MasterReq) : M Unit := do
  let s ← get
  if s.master.electing then pause .answer
  else do
    modify fun s => { s with master := { s.master with requests := s.master.requests ++ [q] } }
    awaitAnswer old .answer

/-- `launch` (R402). -/
def execLaunch (rd ra rb : BitVec 6) (s : State) : Host.Outcome State Fault Refusal :=
  runM (do
    let old ← myCtx
    let (k, c) ← here
    let asid ← myAsid
    let a ← readS ra
    let b ← readS rb
    match old.latch with
    | .answered w => do
      writeS rd w
      retire
    | _ => do
      require (a.toNat % 64 == 0) a
      require (rb == 0#6 || (localTile b && b.toNat % 8 == 0)) b
      afterWrites old (do
        if zeroBits a 63 56 then pure () else operandFault a 0 false false
        let desc ← readBytes 128 a
        let image ← if rb = 0#6 then pure [] else readBytes 64 b
        askMaster old
          { core := k, ctx := c, asid, super := c == 15, desc := wordsOf 16 desc, image := wordsOf 8 image })) s

/-- The ASID of the item that a name names; none where the master knows no such launch (R404). -/
def State.itemAsid (s : State) (asid : Nat) (name : Word) : Option Nat :=
  match nameClass name with
  | 2 => (s.launch? (field name 47 32)).map (·.asid)
  | 3 => (s.launch? (field name 15 0)).map (·.asid)
  | 4 => some asid
  | 5 => some (field name 28 16)
  | _ => some (field name 12 0)

/-- `cancel` (R404). -/
def execCancel (rd ra : BitVec 6) (s : State) : Host.Outcome State Fault Refusal :=
  runM (do
    let old ← myCtx
    let (k, c) ← here
    let asid ← myAsid
    let name ← readS ra
    match old.latch with
    | .answered w => do
      writeS rd w
      retire
    | _ => do
      require (nameOk name true && decide (2 ≤ nameClass name))
      let s ← get
      if c ≠ 15 && (s.itemAsid asid name).getD asid ≠ asid then privilegeFault else pure ()
      askMaster old { core := k, ctx := c, asid, super := c == 15, cancel := some name }) s

/-! ## Copy tags (R405) -/

/-- `wtag.any` (R405). -/
def execWtagAny (rd ra : BitVec 6) (s : State) : Host.Outcome State Fault Refusal :=
  runM (do
    let m ← readS ra
    require (m != 0)
    waitUntil (.tags m false)
    let x ← myCore
    writeS rd (x.tags &&& m)
    retire) s

/-- `wtag.all` (R405). -/
def execWtagAll (rd ra : BitVec 6) (s : State) : Host.Outcome State Fault Refusal :=
  runM (do
    let m ← readS ra
    waitUntil (.tags m true)
    let x ← myCore
    writeS rd (x.tags &&& m)
    retire) s

/-- `ffr` (R405). -/
def execFfr (rd ra : BitVec 6) (s : State) : Host.Outcome State Fault Refusal :=
  runM (do
    let m ← readS ra
    let x ← myCore
    writeS rd (word (lowestBit (x.tags &&& m) 0 64))
    retire) s

/-- `tag.clr` (R405). -/
def execTagClr (ra : BitVec 6) (s : State) : Host.Outcome State Fault Refusal :=
  runM (do
    let m ← readS ra
    modMyCore fun x => { x with tags := x.tags &&& ~~~m }
    retire) s

/-! ## Barrier rectangles (R174, R406 to R408) -/

/-- V of a rectangle. -/
def rectValid (r : Word) : Bool := bit r 63
/-- DIE of a rectangle. -/
def rectDie (r : Word) : Nat := field r 33 32
/-- H of a rectangle. -/
def rectH (r : Word) : Nat := field r 29 24
/-- W of a rectangle. -/
def rectW (r : Word) : Nat := field r 21 16
/-- Y0 of a rectangle. -/
def rectY (r : Word) : Nat := field r 12 8
/-- X0 of a rectangle. -/
def rectX (r : Word) : Nat := field r 4 0

/-- The core lies inside the rectangle. -/
def rectHolds (r : Word) (k : Nat) : Bool :=
  rectDie r == dieOf k && decide (rectX r ≤ xOf k ∧ xOf k < rectX r + rectW r ∧ rectY r ≤ yOf k ∧ yOf k < rectY r + rectH r)

/-- A rectangle keeps the conditions of `bar.set` (R407). -/
def rectOk (r : Word) (k : Nat) : Bool :=
  zeroBits r 62 34 && zeroBits r 31 30 && zeroBits r 23 22 && zeroBits r 15 13 && zeroBits r 7 5 &&
  decide (1 ≤ rectW r ∧ rectW r ≤ 32 ∧ 1 ≤ rectH r ∧ rectH r ≤ 32 ∧ rectX r + rectW r ≤ 32 ∧ rectY r + rectH r ≤ 32) &&
  rectHolds r k

/-- Some context, save record or arrival holds the rectangle's slot (R406, R408). -/
def Core.slotUsed (x : Core) (b : BarSlot) : Bool :=
  b.arr || (x.ctxs.any fun p => p.2.barRect == b.rect) ||
  x.slotRects.any fun p => p.2 == b.rect && x.saveMap.getLsbD p.1

/-- Slots that nothing holds are freed. -/
def Core.freeSlots (x : Core) : Core := { x with slots := x.slots.filter fun p => x.slotUsed p.2 }

/-- A slot for the rectangle: the one that holds it, or a free one taken at a phase; none if there is neither. -/
def Core.takeSlot (x : Core) (r : Word) (phase : BitVec 32) : Option Core :=
  if (x.slotFor r).isSome then some x
  else ((upFrom 0 4).find? fun i => (Tab.find x.slots i).isNone).map fun i =>
    { x with slots := Tab.put x.slots i { rect := r, phase } }

/-- The context lets go of its rectangle (R408). -/
def Core.leaveRect (x : Core) (c : Nat) : Core :=
  (x.setCtx c { x.ctx c with barRect := 0, barPh := 0 }).freeSlots

/-- `bar.set` (R407). -/
def execBarSet (ra : BitVec 6) (s : State) : Host.Outcome State Fault Refusal :=
  runM (do
    let (k, c) ← here
    let r ← readS ra
    let x ← myCore
    if !rectValid r then modMyCore fun x => x.leaveRect c
    else do
      require (rectOk r k)
      match x.takeSlot r 0 with
      | none => valueFault
      | some x => modMyCore fun _ => (x.setCtx c { x.ctx c with barRect := r, barPh := 0 }).freeSlots
    retire) s

/-! ## The barrier network (R411) -/

/-- The enabled cores of a row of a rectangle, from left to right. -/
def State.rowCores (s : State) (r : Word) (y : Nat) : List Nat :=
  ((upFrom (rectX r) (rectW r)).map fun x => siteKey (rectDie r) y x).filter s.enabled

/-- The heads of the rows that take part, from the first row on. -/
def State.heads (s : State) (r : Word) : List Nat :=
  (upFrom (rectY r) (rectH r)).filterMap fun y => (s.rowCores r y).head?

/-- The element of a list before the given one. -/
def elementBefore (l : List Nat) (k : Nat) : Option Nat :=
  match l with
  | a :: b :: rest => if b = k then some a else elementBefore (b :: rest) k
  | _ => none

/-- The element of a list after the given one. -/
def elementAfter (l : List Nat) (k : Nat) : Option Nat :=
  match l with
  | a :: b :: rest => if a = k then some b else elementAfter (b :: rest) k
  | _ => none

/-- A token is on its way. -/
def State.sendToken (s : State) (kind : Nat) (r : Word) (dest : Nat) : State :=
  { s with tokens := s.tokens ++ [{ kind, rect := r, dest }] }

/-- The state with a core's slot of a rectangle changed. -/
def State.modSlot (s : State) (k : Nat) (r : Word) (f : BarSlot → BarSlot) : State :=
  s.modCore k fun x => { x with slots := x.slots.map fun (i, b) => (i, if b.rect = r then f b else b) }

/-- A core is released: its phase and the BARPH of its contexts rise, its flags clear, and the release goes on (R411). -/
def State.releaseAt (s : State) (k : Nat) (r : Word) : State :=
  let s := s.modSlot k r fun b => { b with phase := b.phase + 1, arr := false, row := false, col := false }
  let s := s.modCore k fun x => { x with ctxs := x.ctxs.map fun (c, t) =>
    (c, if t.barRect = r then { t with barPh := t.barPh + 1 } else t) }
  let s := s.modCore k Core.freeSlots
  let row := s.rowCores r (yOf k)
  let s := match elementAfter row k with
    | some j => s.sendToken 2 r j
    | none => s
  if row.head? = some k then
    match elementBefore (s.heads r) k with
    | some j => s.sendToken 2 r j
    | none => s
  else s

/-- After a flag of a core's slot was set, the core sends on what its conditions ask for (R411). -/
def State.passOn (s : State) (k : Nat) (r : Word) : State :=
  match (s.core k).slotFor r with
  | none => s
  | some (_, b) =>
    let row := s.rowCores r (yOf k)
    let rowDone := b.arr && (b.row || row.getLast? == some k)
    if !rowDone then s
    else
      match elementBefore row k with
      | some left => s.sendToken 0 r left
      | none =>
        if !(b.col || (elementBefore (s.heads r) k).isNone) then s
        else
          match elementAfter (s.heads r) k with
          | some next => s.sendToken 1 r next
          | none => s.releaseAt k r

/-- `bar.arrive` (R409). -/
def execBarArrive (rd : BitVec 6) (s : State) : Host.Outcome State Fault Refusal :=
  runM (do
    let (k, _) ← here
    let t ← myCtx
    require (rectValid t.barRect)
    waitFenced 4
    let x ← myCore
    match x.slotFor t.barRect with
    | none => valueFault
    | some (_, b) => do
      writeS rd (b.phase.setWidth 64)
      retire
      if b.arr then pure ()
      else modify fun s => (s.modSlot k t.barRect fun b => { b with arr := true }).passOn k t.barRect) s

/-- `bar.wait` (R410). -/
def execBarWait (ra : BitVec 6) (s : State) : Host.Outcome State Fault Refusal :=
  runM (do
    let t ← myCtx
    let v ← readS ra
    require (rectValid t.barRect)
    waitUntil (.barrier (v.setWidth 32))
    retire) s

/-- A token of a kind reaches its core, which holds it until it has a slot for the rectangle (R411). -/
def tokenArrives (kind : Nat) (body : State → Token → BarSlot → M State) (s : State) :
    Host.Outcome State Fault Refusal :=
  runEvent (do
    match s.tokens[s.input.n]? with
    | none => notNow
    | some t =>
      match (s.core t.dest).slotFor t.rect with
      | none => notNow
      | some (_, b) =>
        if t.kind ≠ kind then notNow
        else do
          let s ← body { s with tokens := dropNth s.tokens s.input.n } t b
          set s) s

/-- BARRIER_ROW_TOKEN (R411). -/
def execBarrierRowToken (s : State) : Host.Outcome State Fault Refusal :=
  tokenArrives 0 (fun s t b =>
    if b.row then notNow else pure ((s.modSlot t.dest t.rect fun b => { b with row := true }).passOn t.dest t.rect)) s

/-- BARRIER_COLUMN_TOKEN (R411). -/
def execBarrierColumnToken (s : State) : Host.Outcome State Fault Refusal :=
  tokenArrives 1 (fun s t b =>
    if b.col then notNow else pure ((s.modSlot t.dest t.rect fun b => { b with col := true }).passOn t.dest t.rect)) s

/-- BARRIER_RELEASE (R411). -/
def execBarrierRelease (s : State) : Host.Outcome State Fault Refusal :=
  tokenArrives 2 (fun s t _ => pure (s.releaseAt t.dest t.rect)) s

/-! ## Status and performance counters (R414, R415) -/

/-- An occupancy of a core (R415, group 1). -/
def State.occupancy (s : State) (k i : Nat) : Option Nat :=
  let x := s.core k
  [x.hiInbox.length, x.loInbox.length, x.park.length, x.tipHi.length, x.tipLo.length, x.tipPark.length, x.spoil.length,
   x.outbox.length, s.poolUsed (dieOf k)][i]?

/-- The value that `perf.rd` returns for its operand, as core `k` reads it; none where R414 asks for the fault. -/
def State.perfWord (s : State) (k : Nat) (v : Word) : Option Word :=
  let i := field v 7 0
  let d := field v 17 16
  if !zeroBits v 63 18 then none
  else
    match field v 15 8 with
    | 0 => if d = 0 && i ≤ 7 then some (Tab.get 0 (s.core k).perf i) else none
    | 1 => if d = 0 then (s.occupancy k i).map word else none
    | 2 =>
      if 8 ≤ i then none
      else if 3 ≤ i && i ≤ 5 then some (word (Tab.get 0 (s.die d).soft i))
      else some (Tab.get 0 (s.core k).perf (512 + i))
    | 3 =>
      if 32 ≤ i then none
      else
        let p := s.port (8 * d + i % 8)
        if i / 8 = 2 then some (word (p.credits.foldl (fun n c => n + c.2) 0)) else some (Tab.get 0 p.perf (i / 8))
    | 4 => if i ≤ 6 then some (Tab.get 0 (s.die d).engine.perf i) else none
    | _ => none

/-- `perf.rd` (R414). -/
def execPerfRd (rd ra : BitVec 6) (s : State) : Host.Outcome State Fault Refusal :=
  runM (do
    let (k, _) ← here
    let v ← readS ra
    let s ← get
    match s.perfWord k v with
    | none => valueFault
    | some w => writeS rd w
    retire) s

/-- COUNTER_CLEAR: management clears counter `m` of group `n` at a core, or at a die with the port in the index
(R415). -/
def execCounterClear (s : State) : Host.Outcome State Fault Refusal :=
  runEvent (do
    let k := s.input.core
    let d := s.input.die
    let i := s.input.m
    match s.input.n with
    | 0 => if i ≤ 7 then set (s.modCore k fun x => { x with perf := Tab.del x.perf i }) else notNow
    | 2 =>
      if 8 ≤ i then notNow
      else if 3 ≤ i && i ≤ 5 then set (s.modDie d fun x => { x with soft := Tab.del x.soft i })
      else set (s.modCore k fun x => { x with perf := Tab.del x.perf (512 + i) })
    | 3 => if 32 ≤ i then notNow else set (s.modPort (8 * d + i % 8) fun p => { p with perf := Tab.del p.perf (i / 8) })
    | 4 => set (s.modDie d fun x => { x with engine := { x.engine with perf := Tab.del x.engine.perf i } })
    | _ => notNow) s

end Sys2Proof.Machine
end

