-- ==== Sys2Proof/Machine/Spans.lean ====
section
/-! DEFINITION. Runs of virtual bytes that a unit of the module reads or writes by itself: save records (R189, R192,
R195), the Derricks (R227, R382), the mailbox (R421), the network engines (R442) and the ingress MMUs (R425). -/

namespace Sys2Proof.Machine

/-- A translation of a unit. -/
abbrev Translator := Nat → Access → M (Except Nat Place)

/-- The translator of a core (R378). -/
def coreMmu (k asid : Nat) : Translator := fun va a =>
  if va < 2 ^ 56 then translate k asid va a else pure (.error 0)

/-- The translator of a unit on a die (R379). -/
def dieMmu (d asid : Nat) : Translator := fun va a =>
  if va < 2 ^ 56 then translateDie d asid va a else pure (.error 0)

/-- The byte at a distance from a page's place. -/
def Place.byte (p : Place) (va : Nat) : ByteRef :=
  match p with
  | .here pa => .hbm (pa / 4096 * 4096 + va % 4096)
  | .node n => .node n va

/-- The bytes from `va` on, with one translation a page; the failing address and its kind if one fails. -/
def spanRefs (tr : Translator) (acc : Access) (last : Option (Nat × Place)) :
    Nat → Nat → M (List ByteRef × Option (Nat × Nat))
  | 0, _ => pure ([], none)
  | n + 1, va => do
    let known := match last with
      | some (page, p) => if page = va / 4096 then some p else none
      | none => none
    let place ← match known with
      | some p => pure (.ok p)
      | none => tr va acc
    match place with
    | .error kind => pure ([], some (va, kind))
    | .ok p => do
      let (rs, e) ← spanRefs tr acc (some (va / 4096, p)) n (va + 1)
      pure (p.byte va :: rs, e)

/-- Wait for the stacks of the bytes that lie in this package. -/
def needStacks (refs : List ByteRef) : M Unit := do
  let s ← get
  match (refPas refs).find? s.stackWaits with
  | some pa => pause (.stack (stackOf pa))
  | none => pure ()

/-- An answer in which another node refuses the access, STATUS 1 to 3, with the kind of the refusal (R425). -/
def Answer.refusal (x : Answer) : Option Nat := if 1 ≤ x.status && x.status ≤ 3 then some (x.status - 1) else none

/-- The data of runs on other nodes, and whether an error value came; the address and kind of the first refusal. -/
def fetchSpan (o : Owner) (asid : Nat) : List Run → M (Except (Nat × Nat) (List (Run × List Byte) × Bool))
  | [] => pure (.ok ([], false))
  | r :: rs => do
    let x ← askNode o { node := r.node, asid, va := r.va, ask := .load r.len }
    match x.refusal with
    | some kind => pure (.error (r.va, kind))
    | none => do
      let data := if x.status = 0 then (x.data ++ errorBytes r.len).take r.len else errorBytes r.len
      match ← fetchSpan o asid rs with
      | .error e => pure (.error e)
      | .ok (more, bad) => pure (.ok ((r, data) :: more, x.status != 0 || bad))

/-- The data of a span, read at once; `seen` gives the byte of a physical address as the unit sees it. The flag says
that an error value came. The address and kind of a refusal by another node stand for the data. -/
def spanData (o : Owner) (asid : Nat) (seen : Nat → Byte) (refs : List ByteRef) :
    M (Except (Nat × Nat) (List Byte × Bool)) := do
  needStacks refs
  match ← fetchSpan o asid (nodeRuns refs) with
  | .error e => pure (.error e)
  | .ok (got, bad) => do
    modify fun s => s.touchAll true (refPas refs)
    let s ← get
    let data := (sourcesOf refs got).map fun b =>
      match b with
      | .hbm pa => seen pa
      | .known v => v
      | .tile _ _ => 0
    pure (.ok (data, bad || (refPas refs).any s.badByte))

/-- The data of a span, or the address and kind of its failure. -/
def spanRead (tr : Translator) (o : Owner) (asid : Nat) (seen : Nat → Byte) (n va : Nat) :
    M (Except (Nat × Nat) (List Byte × Bool)) := do
  let (refs, err) ← spanRefs tr .read none n va
  match err with
  | some e => pure (.error e)
  | none => spanData o asid seen refs

/-- Runs of another node take their data; the worst STATUS is the result. -/
def sendAny (o : Owner) (asid : Nat) (data : List Byte) : List Run → M Nat
  | [] => pure 0
  | r :: rs => do
    let x ← askNode o { node := r.node, asid, va := r.va, ask := .store ((data.drop r.start).take r.len) }
    let e ← sendAny o asid data rs
    pure (max x.status e)

/-- The bytes of a span with their data, in this package. -/
def localPairs (refs : List ByteRef) (data : List Byte) : List (Nat × Byte) :=
  (refs.zip data).filterMap fun p =>
    match p.1 with
    | .hbm pa => some (pa, p.2)
    | _ => none

/-- The data go to their homes; the result is the STATUS of the part on other nodes (R425). -/
def spanStore (o : Owner) (asid : Nat) (refs : List ByteRef) (data : List Byte) : M Nat := do
  needStacks refs
  let e ← sendAny o asid data (nodeRuns refs)
  modify fun s => s.writeHbm (localPairs refs data)
  pure e

/-- Runs of another node take their data in ascending order, and the bytes of this package from index `pos` on between
them, each part performed before the next (R421). A part of this package is written when the run after it is asked; the
result, the worst STATUS, comes with the last answer. -/
def storeAscending (o : Owner) (asid : Nat) (refs : List ByteRef) (data : List Byte) (pos : Nat) :
    List Run → M (Option Nat)
  | [] => do
    modify fun s => s.writeHbm (localPairs (refs.drop pos) (data.drop pos))
    pure (some 0)
  | r :: rs => do
    let q : Query := { node := r.node, asid, va := r.va, ask := .store ((data.drop r.start).take r.len) }
    let s ← get
    match s.answer o q with
    | some x => do
      let e ← storeAscending o asid refs data (r.start + r.len) rs
      pure (e.map (max x.status))
    | none =>
      if s.isAsked o q then pure none
      else do
        modify fun s => s.writeHbm (localPairs ((refs.take r.start).drop pos) (data.drop pos))
        modify fun s => s.askNode (o.die s) o q
        pure none

/-- The pages of a span on other nodes confirm their translation; the address and kind of the first refusal (R235). -/
def confirmAny (o : Owner) (asid : Nat) : List Run → M (Option (Nat × Nat))
  | [] => pure none
  | r :: rs => do
    let x ← askNode o { node := r.node, asid, va := r.va, ask := .confirm }
    match x.refusal with
    | some kind => pure (some (r.va, kind))
    | none => confirmAny o asid rs

/-- The bytes that a write of a span takes, every page translated here and confirmed elsewhere, or the address and kind
of a failure. -/
def spanConfirm (tr : Translator) (o : Owner) (asid base n : Nat) : M (Except (Nat × Nat) (List ByteRef)) := do
  let (refs, err) ← spanRefs tr .write none n base
  match err with
  | some e => pure (.error e)
  | none =>
    match ← confirmAny o asid (nodeRuns refs) with
    | some e => pure (.error e)
    | none => pure (.ok refs)

/-- A unit writes a span once every page has its translation: the STATUS of the part on other nodes, 0 where every byte is
performed, or the address and kind of a failure. A node that refuses the data, STATUS 1 to 3, fails the translation too
(R425). -/
def spanWrite (tr : Translator) (o : Owner) (asid : Nat) (va : Nat) (data : List Byte) : M (Except (Nat × Nat) Nat) := do
  match ← spanConfirm tr o asid va data.length with
  | .error e => pure (.error e)
  | .ok refs => do
    let status ← spanStore o asid refs data
    pure (if 1 ≤ status ∧ status ≤ 3 then .error (va, status - 1) else .ok status)

end Sys2Proof.Machine
end

