-- ==== Sys2Proof/Machine/Master.lean ====
section
/-! DEFINITION. The master Derrick: launch requests (R38, R40, R382, R402), the hierarchy of launches, graphs, phases and
jobs (R30 to R35, R396), cancels (R36, R37, R404), completion events (R33, R34, R403) and the release of launch IDs (R31,
R232). -/

namespace Sys2Proof.Machine

/-! ## Descriptors and request images (R382, R402) -/

/-- The rectangle of a descriptor with PLACE = 1 has no unlisted bit (R382). -/
def placeRectOk (w : Word) : Bool := zeroBits w 63 30 && zeroBits w 23 22 && zeroBits w 15 13 && zeroBits w 7 5

/-- A descriptor keeps R382, but for what its map and images hold. -/
def descriptorOk (d : List Word) : Bool :=
  let w := fun i => d.getD i 0
  zeroBits (w 0) 63 56 && !bit (w 0) 0 && decide (field (w 1) 31 0 < field (w 1) 63 32 / 2) &&
  field (w 2) 39 36 != 0 && zeroBits (w 2) 47 40 && zeroBits (w 2) 55 53 && field (w 2) 51 48 != 0 &&
  field (w 2) 51 48 != 15 && decide (field (w 2) 58 56 ≤ 4) &&
  zeroBits (w 10) 63 56 && zeroBits (w 10) 3 0 && zeroBits (w 11) 63 52 && !bit (w 11) 15 &&
  decide (field (w 11) 14 0 ≤ 16384) && field (w 11) 31 16 % 16 == 0 &&
  decide (field (w 11) 51 32 + 16 * field (w 11) 31 16 ≤ 2 ^ 20) &&
  (if bit (w 2) 35 then placeRectOk (w 12)
   else zeroBits (w 12) 63 56 && decide (1 ≤ field (w 13) 10 0 ∧ field (w 13) 10 0 ≤ 1024)) &&
  zeroBits (w 13) 15 11 && decide (field (w 13) 23 16 ≤ 248) && zeroBits (w 13) 31 24 &&
  zeroBits (w 14) 63 56 && zeroBits (w 15) 63 56 && zeroBits (w 15) 2 0

/-- NEDGE of a request image. -/
def edgeCount (im : List Word) : Nat := field (im.getD 1 0) 27 24

/-- The edges of a request image: KIND, SRC and V. -/
def imageEdges (im : List Word) : List (Nat × Nat × Nat) :=
  (upFrom 2 (edgeCount im)).map fun i =>
    (field (im.getD i 0) 17 16, field (im.getD i 0) 15 0, field (im.getD i 0) 63 32)

/-- A request image keeps R402. -/
def imageOk (im : List Word) : Bool :=
  zeroBits (im.getD 0 0) 62 32 && zeroBits (im.getD 0 0) 12 8 && zeroBits (im.getD 1 0) 63 28 &&
  zeroBits (im.getD 1 0) 23 19 && decide (edgeCount im ≤ 6) &&
  (upFrom 2 6).all fun i =>
    let e := im.getD i 0
    if i < 2 + edgeCount im then zeroBits e 31 18 && field e 17 16 != 3 && (field e 17 16 == 2 || field e 63 32 == 0)
    else e == 0

/-- PHASE of a request image. -/
def imagePhase (im : List Word) : Nat := field (im.getD 1 0) 15 0

/-- GRAPH ID of a descriptor. -/
def descGraph (d : List Word) : Nat := field (d.getD 13 0) 63 32

/-- The dies of a mask, in rising order. -/
def maskDies (d : List Word) : List Nat := (upFrom 0 4).filter fun i => bit (d.getD 2 0) (36 + i)

/-! ## Items (R30, R34, R396) -/

/-- A new item, in place of a completed one of its name. -/
def State.openItem (s : State) (i : Item) : State :=
  let rest := s.master.items.filter fun j => !(j.cls == i.cls && j.asid == i.asid && j.num == i.num)
  { s with master := { s.master with items := rest ++ [i] } }

/-- A child of an item has completed with a status. -/
def Item.childDone (i : Item) (status : Nat) : Item := { i with count := i.count - 1, status := max i.status status }

/-- The items of a class that are closed and have no incomplete child complete, and their parents count it (R396). -/
def State.settleClass (s : State) (cls : Nat) : State :=
  (s.master.items.filter fun i => i.cls == cls && i.closed && !i.done && i.count == 0).foldl (fun s i =>
    let s := s.modItem cls i.asid i.num fun j => { j with done := true }
    if cls = 4 then s.modItem 5 i.asid i.phase fun j => j.childDone i.status
    else if cls = 5 then s.modItem 6 i.asid 0 fun j => j.childDone i.status
    else s) s

/-- Graphs, then phases, then jobs complete. -/
def State.settleItems (s : State) : State := ((s.settleClass 4).settleClass 5).settleClass 6

/-- Every phase of the job with a lower number has completed (R35, R396). -/
def State.phaseOpen (s : State) (asid phase : Nat) : Bool :=
  s.master.items.all fun i => !(i.cls == 5 && i.asid == asid && decide (i.num < phase)) || i.done

/-- The item exists and is not done. -/
def State.standing (s : State) (cls asid num : Nat) : Option Item := (s.item? cls asid num).filter fun i => !i.done

/-- The item takes no further child. -/
def closedItem (i : Option Item) : Bool :=
  match i with
  | some i => i.closed || i.done
  | none => false

/-- A launch into a graph and phase meets a closed item (R402). -/
def State.closedFor (s : State) (asid graph phase : Nat) : Bool :=
  match if graph = 0 then none else s.standing 4 asid graph with
  | some g => g.closed
  | none =>
    closedItem (s.item? 5 asid phase) || ((s.item? 5 asid phase).isNone && closedItem (s.item? 6 asid 0))

/-- A launch joins its graph, phase and job, which are opened where they do not stand (log 28), and the image's closes
are carried out (R396, R402). -/
def State.joinItems (s : State) (asid graph phase : Nat) (im : List Word) : State :=
  let s := if (s.item? 6 asid 0).isSome then s else s.openItem { cls := 6, asid, num := 0 }
  let s := if (s.item? 5 asid phase).isSome then s
    else (s.openItem { cls := 5, asid, num := phase }).modItem 6 asid 0 fun i => { i with count := i.count + 1 }
  let newGraph := fun (s : State) => s.modItem 5 asid phase fun i => { i with count := i.count + 1 }
  let s := if graph = 0 then newGraph s
    else
      let s := if (s.standing 4 asid graph).isSome then s
        else (newGraph s).openItem { cls := 4, asid, num := graph, phase }
      s.modItem 4 asid graph fun i => { i with count := i.count + 1, closed := i.closed || bit (im.getD 1 0) 16 }
  let s := s.modItem 5 asid phase fun i => { i with closed := i.closed || bit (im.getD 1 0) 17 }
  s.modItem 6 asid 0 fun i => { i with closed := i.closed || bit (im.getD 1 0) 18 }

/-! ## Edges and eligibility (R35) -/

/-- An edge is met, or can no longer be met, or neither yet. -/
def State.edgeState (s : State) (e : Nat × Nat × Nat) : Option Bool :=
  match s.launch? e.2.1 with
  | none => some false
  | some l =>
    let enough := decide (e.2.2 ≤ l.completed)
    if l.state = .complete then
      some (if e.1 = 0 then l.status == 0 else if e.1 = 1 then true else enough)
    else if e.1 = 2 && enough then some true
    else none

/-- The launch's edges and phase decide whether it is ELIGIBLE, or completes as CANCELLED without dispatching (R35). -/
def State.review (s : State) (lid : Nat) : State :=
  match s.launch? lid with
  | none => s
  | some l =>
    if l.state ≠ .queued || l.cancelled then s
    else if l.edges.any fun e => s.edgeState e == some false then
      let s := s.modLaunch lid fun l => { l with cancelled := true, edges := [], status := max l.status 1 }
      { s with master := { s.master with events := s.master.events ++ [lid] } }
    else
      let left := l.edges.filter fun e => s.edgeState e != some true
      s.modLaunch lid fun l =>
        { l with edges := left, state := if left.isEmpty && s.phaseOpen l.asid l.phase then .eligible else .queued }

/-- Every launch is reviewed. -/
def State.reviewAll (s : State) : State := s.master.launches.foldl (fun s p => s.review p.1) s

/-! ## Launch requests (R402) -/

/-- The master answers a request (R188, R402, R404, R421). -/
def State.answerTo (s : State) (mailbox : Bool) (core ctx : Nat) (w : Word) : State :=
  if mailbox then { s with mailbox := { s.mailbox with latch := .answered w } }
  else s.modCtx core ctx fun t => if t.latch = .asked then { t with latch := .answered w } else t

/-- The head request leaves, with its answer. -/
def State.answerHead (s : State) (q : MasterReq) (w : Word) : State :=
  let s := (s.forget .master).answerTo q.mailbox q.core q.ctx w
  { s with master := { s.master with requests := s.master.requests.drop 1 } }

/-- A launch ID that is not live, from the allocator's place on (R31). -/
def Master.freeId (m : Master) : Option Nat :=
  ((upFrom m.nextId (m.launches.length + 2)).map fun n => (n - 1) % 65535 + 1).find? fun n => (Tab.find m.launches n).isNone

/-- At the allocation of an ID the cores lose the code lines of the segment that it last named (R232). -/
def State.dropCode (s : State) (lid : Nat) : State :=
  match Tab.find s.master.segments lid with
  | none => s
  | some (asid, base, len) =>
    s.mapCores fun x => { x with icache := x.icache.filter fun l =>
      !(l.asid == asid && decide (l.va < base + len ∧ base < l.va + 64)) }

/-- The launch enters the level's queue of every Derrick of its mask (R38). -/
def State.enterQueues (s : State) (dies : List Nat) (level lid : Nat) : State :=
  dies.foldl (fun s d => s.modDie d fun x => { x with derrick := { x.derrick with
    levels := Tab.put x.derrick.levels level (Tab.get [] x.derrick.levels level ++ [lid]) } }) s

/-- The entries of an explicit map. -/
def mapEntries (bs : List Byte) (n : Nat) : List Nat := (upFrom 0 n).map fun i => natOf ((bs.drop (2 * i)).take 2)

/-- An entry of an explicit map names a core of the map (R40). -/
def State.entryOk (s : State) (e : Nat) : Bool :=
  decide (e < 4096) && ((s.die (e / 1024)).coreMap.getD (e % 1024) none).isSome

/-- The binding table of an image (R367). -/
def bindingTable (bs : List Byte) : Tab Word :=
  ((upFrom 0 256).map fun i => (i, wordOf ((bs.drop (8 * i)).take 8) &&& 0x80000000FFFFFFFF#64)).filter fun p => p.2 != 0

/-- The master reads `n` bytes under the request's ASID; none where it cannot. -/
def masterRead (asid n va : Nat) : M (Option (List Byte)) := do
  let s ← get
  match ← spanRead (dieMmu s.master.die asid) .master asid s.hbmByte n va with
  | .error _ => pure none
  | .ok (bs, bad) => pure (if bad then none else some bs)

/-- Status 2 for a request, as far as the master's tables tell (R402). -/
def State.malformed (s : State) (q : MasterReq) : Bool :=
  !descriptorOk q.desc || !imageOk q.image ||
  (imageEdges q.image).any (fun e => e.2.1 == 0 || (s.launch? e.2.1).map (·.asid) != some q.asid) ||
  (descGraph q.desc != 0 &&
    match s.standing 4 q.asid (descGraph q.desc) with
    | some g => g.phase != imagePhase q.image
    | none => false)

/-- The record of an accepted launch (R383). -/
def launchRecord (q : MasterReq) (places : List Nat) (bindings : Tab Word) (level : Nat) : Launch :=
  { asid := q.asid, desc := q.desc, image := q.image, bindings, places, level
    graph := descGraph q.desc, phase := imagePhase q.image, edges := imageEdges q.image }

/-- The launch is accepted: it takes an ID, and the answer names it (R402). -/
def State.acceptLaunch (s : State) (q : MasterReq) (lid level : Nat) (dies places : List Nat) (bindings : Tab Word) :
    State :=
  let l := launchRecord q places bindings level
  let s := s.dropCode lid
  let s := { s with master := { s.master with
    nextId := lid % 65535 + 1
    segments := Tab.put s.master.segments lid (q.asid, field (l.word 0) 55 0, field (l.word 1) 63 32)
    launches := Tab.put s.master.launches lid l } }
  let s := (s.joinItems q.asid l.graph l.phase q.image).enterQueues dies level lid
  (s.review lid).answerHead q (word lid)

/-- The master's Derrick is ready, and no election is in progress (R43, R173). -/
def State.masterReady (s : State) : Bool := s.ready.getLsbD (48 + s.master.die) && !s.master.electing

/-- MASTER_LAUNCH_REQUEST: the oldest request, a launch, is accepted or refused (R402). -/
def execMasterLaunchRequest (s : State) : Host.Outcome State Fault Refusal :=
  runEvent (do
    match s.master.requests.head? with
    | none => notNow
    | some q =>
      let refuse := fun (stat : Nat) => modify fun s => s.answerHead q (word (stat * 2 ^ 56))
      if q.cancel.isSome || !s.masterReady then notNow
      else if s.malformed q then refuse 2
      else do
        let w := fun i => q.desc.getD i 0
        let n := if bit (w 2) 35 then 0 else field (w 13) 10 0
        let map ← masterRead q.asid (2 * n) (field (w 12) 55 0)
        let image ← masterRead q.asid 2048 (field (w 15) 55 0)
        let s ← get
        let level := min (field (w 2) 33 32) (field (Tab.get 0 s.asids q.asid) 41 40)
        let dies := (maskDies q.desc).filter fun d => !s.fenced.getLsbD d
        match map, image with
        | some bs, some im =>
          let places := mapEntries bs n
          if !places.all s.entryOk then refuse 2
          else if s.closedFor q.asid (descGraph q.desc) (imagePhase q.image) then refuse 4
          else
            match s.master.freeId with
            | none => refuse 3
            | some lid =>
              if 4096 ≤ (s.master.launches.filter fun p => p.1 != 0).length then refuse 3
              else if dies.any fun d => decide (64 ≤ (Tab.get [] (s.die d).derrick.levels level).length) then refuse 1
              else set (s.acceptLaunch q lid level dies places (bindingTable im))
        | _, _ => refuse 2) s

/-! ## Cancels (R36, R37, R404) -/

/-- A chunk's first unit after its last. -/
def Launch.chunkEnd (l : Launch) (n : Nat) : Nat := 64 * n + l.chunkSize n

/-- The unsent units of a launch are discarded. -/
def Launch.discard (l : Launch) : Launch :=
  { l with dealt := l.chunkCount
           chunks := l.chunks.map fun (d, cs) => (d, cs.map fun c => { c with next := l.chunkEnd c.number }) }

/-- A unit has been sent. -/
def Launch.unitSent (l : Launch) (i : Nat) : Bool :=
  l.allChunks.any fun c => c.number == i / 64 && decide (i < c.next)

/-- The cores whose NIs a filter must reach. -/
def State.allNis (s : State) : List Nat := (upFrom 0 4096).filter fun k => s.enabled k && !s.fenced.getLsbD (dieOf k)

/-- A filter is on its way to every NI, on behalf of a request (R36). A request of the mailbox has core 4096. -/
def State.sendFilter (s : State) (q : MasterReq) (lid : Nat) (unit : Option Nat) : State :=
  { s with master := { s.master with filters := s.master.filters ++
      [{ lid, unit, core := if q.mailbox then 4096 else q.core, ctx := q.ctx, left := s.allNis }] } }

/-- The launch is cancelled: its unsent units are discarded, it will complete as CANCELLED, and it is filtered. -/
def State.cancelLaunch (s : State) (q : MasterReq) (lid : Nat) : State :=
  (s.modLaunch lid fun l => { l.discard with cancelled := true, status := max l.status 1 }).sendFilter q lid none

/-- The launches that a predicate selects and that have not completed. -/
def State.liveLaunches (s : State) (p : Launch → Bool) : List Nat :=
  (s.master.launches.filter fun e => e.1 != 0 && e.2.state != .complete && p e.2).map (·.1)

/-- An item with the items below it is closed (R404, log 29). -/
def State.closeItem (s : State) (cls asid num : Nat) : State :=
  let under := fun (i : Item) => i.asid == asid &&
    ((i.cls == cls && i.num == num) || (cls == 5 && i.cls == 4 && i.phase == num) || (cls == 6 && i.cls != 6))
  let items := s.master.items.map fun i => if under i && !i.done then { i with closed := true } else i
  { s with master := { s.master with items } }

/-- The request has no filter on its way. -/
def State.filtersIn (s : State) (core ctx : Nat) : Bool := !s.master.filters.any fun e => e.core == core && e.ctx == ctx

/-- A cancel is accepted; its answer comes once every NI holds the filters (R404). -/
def State.acceptCancel (s : State) (q : MasterReq) : State :=
  if s.filtersIn (if q.mailbox then 4096 else q.core) q.ctx then s.answerHead q 0
  else { s with master := { s.master with requests := s.master.requests.drop 1 } }

/-- The cancel of a graph, phase or job. -/
def State.cancelItem (s : State) (q : MasterReq) (cls asid num : Nat) (mine : Launch → Bool) : State :=
  match s.item? cls asid num with
  | none => s.answerHead q 2
  | some i =>
    if i.done then s.answerHead q 1
    else
      let s := (s.closeItem cls asid num)
      let s := (s.liveLaunches fun l => l.asid == asid && mine l).foldl (fun s lid => s.cancelLaunch q lid) s
      s.settleItems.reviewAll.acceptCancel q

/-- The cancel of a request (R36, R37, R404). An item of an ASID that the requester may not name is unknown to it. -/
def State.performCancel (s : State) (q : MasterReq) (name : Word) : State :=
  let known := fun (l : Launch) => q.super || l.asid == q.asid
  let ofLaunch := fun (lid : Nat) (act : Launch → State) =>
    match (s.launch? lid).filter known with
    | none => s.answerHead q 2
    | some l => if l.state = .complete then s.answerHead q 1 else act l
  match nameClass name with
  | 2 =>
    let lid := field name 47 32
    let i := field name 31 0
    ofLaunch lid fun l =>
      if l.units ≤ i then s.answerHead q 2
      else
        let sent := l.unitSent i
        let s := s.modLaunch lid fun l => { l with status := max l.status 1, cut := i :: l.cut }
        (if sent then s.sendFilter q lid (some i) else s).acceptCancel q
  | 3 => ofLaunch (field name 15 0) fun _ => (s.cancelLaunch q (field name 15 0)).acceptCancel q
  | 4 =>
    let g := field name 31 0
    s.cancelItem q 4 q.asid g fun l => l.graph == g
  | 5 =>
    let asid := field name 28 16
    if !q.super && asid ≠ q.asid then s.answerHead q 2
    else s.cancelItem q 5 asid (field name 15 0) fun l => l.phase == field name 15 0
  | _ =>
    let asid := field name 12 0
    if !q.super && asid ≠ q.asid then s.answerHead q 2 else s.cancelItem q 6 asid 0 fun _ => true

/-- MASTER_CANCEL_REQUEST: the oldest request, a cancel, is ordered against completion events (R37). -/
def execMasterCancelRequest (s : State) : Host.Outcome State Fault Refusal :=
  runEvent (do
    match s.master.requests.head? with
    | none => notNow
    | some q =>
      match q.cancel with
      | none => notNow
      | some name => if s.masterReady then set (s.performCancel q name) else notNow) s

/-- An NI holds a filter entry: parked messages that it names are dropped, and triggers armed under its launch are
disarmed (R36, R215). -/
def State.installFilter (s : State) (k : Nat) (f : Filter) : State :=
  let s := s.modCore k fun x => { x with filter := x.filter ++ [f] }
  let x := s.core k
  let gone := (x.park ++ x.tipPark.map (·.msg)).filter x.filters
  let s := s.modCore k fun x => { x with park := x.park.filter fun m => !x.filters m
                                         tipPark := x.tipPark.filter fun e => !x.filters e.msg }
  let s := gone.foldl (fun s m => s.dropMessage k m) s
  if f.unit.isNone then
    ((upFrom 0 256).filter fun n => (x.bench.cell n).tlid.toNat == f.lid).foldl (fun s n => s.disarm k n) s
  else s

/-- CANCEL_FILTER_INSTALL: the oldest filter that has not reached a core's NI is installed there; the request is answered
when its filters are held everywhere (R36, R404). -/
def execCancelFilterInstall (s : State) : Host.Outcome State Fault Refusal :=
  runEvent (do
    let k := s.input.core
    match s.master.filters.find? fun e => e.left.contains k with
    | none => notNow
    | some e =>
      let first := s.master.filters.takeWhile fun e => !e.left.contains k
      let rest := s.master.filters.drop first.length
      let s := { s with master := { s.master with
        filters := first ++ reached (fun _ => true) k (rest.take 1) ++ rest.drop 1 } }
      let s := s.installFilter k { lid := e.lid, unit := e.unit }
      set (if s.filtersIn e.core e.ctx then s.answerTo (e.core == 4096) e.core e.ctx 0 else s)) s

/-! ## Completion (R33, R34, R403) -/

/-- The counter message of a notification (R403, R446). -/
def State.notify (s : State) (l : Launch) : State :=
  let w := l.image.getD 0 0
  let hw0 := word (field w 31 13 * 2 ^ 13)
  if bit w 63 && s.destinationOk hw0 then
    let src := 4096 + s.master.die
    let m : Msg :=
      { hdr0 := hw0, hdr1 := headerWord 0 (4096 + 1024 * s.master.die) 0 0 3 false false 16
        payload := [word (field w 7 0), if l.status = 0 then 1 else 0x0000000100000001#64] }
    if nodeOf hw0 = s.node then
      (s.destsOf hw0).foldl (fun s d => s.launchFlight { msg := m, src, dest := d, counted := false }) s
    else s.leaveTo s.master.die (nodeOf hw0) { msg := m, src, dest := 0, counted := false }
  else s

/-- The launch is no longer queued at any Derrick. -/
def State.leaveQueues (s : State) (lid : Nat) : State :=
  s.mapDies fun x => { x with derrick := { x.derrick with
    levels := x.derrick.levels.map fun (n, l) => (n, l.filter (· != lid))
    delta := Tab.del x.derrick.delta lid } }

/-- The launch leaves the cancel filters, and filters of it that are on their way go no further; a cancel that waited for
them has its answer (R36, R404). -/
def State.dropFilters (s : State) (lid : Nat) : State :=
  let mine := s.master.filters.filter fun e => e.lid == lid
  let s := s.mapCores fun x => { x with filter := x.filter.filter fun f => f.lid != lid }
  let s := { s with master := { s.master with filters := s.master.filters.filter fun e => e.lid != lid } }
  mine.foldl (fun s e => if s.filtersIn e.core e.ctx then s.answerTo (e.core == 4096) e.core e.ctx 0 else s) s

/-- A launch completes: its state and status, its notification, its parents, its filters, and the launches that waited
for it (R33 to R36, R403). -/
def State.complete (s : State) (lid : Nat) (l : Launch) : State :=
  let s := (s.modLaunch lid fun l => { l with state := .complete, last := 0 }).leaveQueues lid
  let s := s.dropFilters lid
  let s := if l.graph = 0 then s.modItem 5 l.asid l.phase fun i => i.childDone l.status
    else s.modItem 4 l.asid l.graph fun i => i.childDone l.status
  ((s.settleItems).notify l).reviewAll

/-- COMPLETION_EVENT: the event of launch `n`, which is due, is raised (R33). -/
def execCompletionEvent (s : State) : Host.Outcome State Fault Refusal :=
  runEvent (do
    let lid := s.input.n
    match s.launch? lid with
    | none => notNow
    | some l =>
      if !s.master.events.contains lid || s.master.electing then notNow
      else set (({ s with master := { s.master with events := s.master.events.erase lid } } : State).complete lid l)) s

/-- LAUNCH_ID_RELEASE: the record of completed launch `n` is released, once no NI keeps a delta or a filter for it (R31,
R396). -/
def execLaunchIdRelease (s : State) : Host.Outcome State Fault Refusal :=
  runEvent (do
    let lid := s.input.n
    match s.launch? lid with
    | none => notNow
    | some l =>
      let kept := s.cores.any fun p => Tab.get 0 p.2.delta lid != 0 || p.2.filter.any fun f => f.lid == lid
      if l.state ≠ .complete || kept || (s.master.filters.any fun f => f.lid == lid) then notNow
      else
        let s := { s with master := { s.master with
          launches := Tab.del s.master.launches lid, bindings := s.master.bindings.filter fun e => e.lid != lid } }
        let s := s.mapDies fun y => { y with bindings := Tab.del y.bindings lid }
        set (s.mapCores fun x => { x with delta := Tab.del x.delta lid, bindCache := Tab.del x.bindCache lid })) s

end Sys2Proof.Machine
end

