-- ==== Sys2Proof/Machine/Derrick.lean ====
section
/-! DEFINITION. The Derricks: dealing and dispatching units (R32, R38 to R41, R383), constant fills (R227), promotion
(R38), the quiescence sweep (R33), and the fencing of a die with the election that follows (R43, R44). -/

namespace Sys2Proof.Machine

/-! ## Units and chunks (R39, R383) -/

/-- The next unit of a chunk to send; a unit that was cancelled is passed over (R36). -/
def Launch.nextUnit (l : Launch) (c : Chunk) : Option Nat :=
  (upFrom c.next (l.chunkEnd c.number - c.next)).find? fun i => !l.cut.contains i

/-- Every unit of the chunk has retired or was cancelled. -/
def Launch.chunkDone (l : Launch) (c : Chunk) : Bool :=
  decide (l.chunkSize c.number ≤ c.count + (l.cut.filter fun i => i / 64 == c.number).length)

/-- Some unit of the launch is not sent. -/
def Launch.unsent (l : Launch) : Bool :=
  decide (l.dealt < l.chunkCount) || l.allChunks.any fun c => (l.nextUnit c).isSome

/-- The chunk that a die sends from: the first with a unit to send, if it is at most 64 chunks beyond the lowest
incomplete one (R383). -/
def Launch.sending (l : Launch) (d : Nat) : Option (Chunk × Nat) :=
  let cs := Tab.get [] l.chunks d
  let low := (cs.findIdx? fun c => !l.chunkDone c).getD cs.length
  match cs.findIdx? fun c => (l.nextUnit c).isSome with
  | none => none
  | some p => if p ≤ low + 64 then cs[p]?.bind fun c => (l.nextUnit c).map fun i => (c, i) else none

/-- A chunk in its die's list, by number. -/
def insertChunk (c : Chunk) : List Chunk → List Chunk
  | [] => [c]
  | b :: l => if c.number < b.number then c :: b :: l else b :: insertChunk c l

/-- The launch with a chunk dealt to a die. -/
def Launch.dealTo (l : Launch) (d n : Nat) : Launch :=
  { l with chunks := Tab.put l.chunks d (insertChunk { number := n, next := 64 * n, count := 0 } (Tab.get [] l.chunks d)) }

/-- The dies of the launch's mask that are not fenced. -/
def State.launchDies (s : State) (l : Launch) : List Nat := (maskDies l.desc).filter fun d => !s.fenced.getLsbD d

/-- The dies that chunks of the launch are dealt to: those of its mask that are live and ready (R39, R432). -/
def State.dealDies (s : State) (l : Launch) : List Nat := (s.launchDies l).filter fun d => s.ready.getLsbD d

/-- The die that a chunk is dealt to (R39). -/
def State.chunkDie (s : State) (l : Launch) (n : Nat) : Option Nat :=
  let dies := s.dealDies l
  dies[n % dies.length]?

/-- A launch leaves the queues of the Derricks that have no unit of it to send. -/
def State.leaveSent (s : State) (lid : Nat) : State :=
  match s.launch? lid with
  | none => s
  | some l =>
    if l.dealt < l.chunkCount then s
    else
      let gone := fun (d : Nat) => (Tab.get [] l.chunks d).all fun c => (l.nextUnit c).isNone
      let leave := fun (y : Derrick) => { y with levels := y.levels.map fun p => (p.1, p.2.filter (· != lid)) }
      { s with dies := s.dies.map fun p => (p.1, if gone p.1 then { p.2 with derrick := leave p.2.derrick } else p.2) }

/-- A launch that may send units: ELIGIBLE or RUNNING, and not cancelled. -/
def Launch.sends (l : Launch) (electing : Bool) : Bool :=
  !l.cancelled && (l.state == .running || (l.state == .eligible && !electing))

/-- CHUNK_DEAL: the master deals the next chunk of launch `n` (R39). With no die of its mask alive, the launch's work is
lost (R34, log 30); where no live die of it is ready yet, the chunk waits (R432). -/
def execChunkDeal (s : State) : Host.Outcome State Fault Refusal :=
  runEvent (do
    let lid := s.input.n
    let s := s.reviewAll
    match s.launch? lid with
    | none => notNow
    | some l =>
      if !l.sends s.master.electing || !s.ready.getLsbD (48 + s.master.die) || l.chunkCount ≤ l.dealt then notNow
      else
        match s.chunkDie l l.dealt with
        | none =>
          if (s.launchDies l).isEmpty then set ((s.modLaunch lid fun l => { l.discard with status := 3 }).leaveSent lid)
          else notNow
        | some d => set ((s.modLaunch lid fun l => { l.dealTo d l.dealt with dealt := l.dealt + 1 }).leaveSent lid)) s

/-! ## Placement (R40, R41) -/

/-- The enabled cores of a die in the order of their logical indices. -/
def State.mapCoresOf (s : State) (d : Nat) : List Nat :=
  (s.mapOf d).filterMap fun e => (e.map (1024 * d + ·)).filter s.enabled

/-- The core lies in the rectangle of a descriptor. -/
def inPlaceRect (w : Word) (k : Nat) : Bool :=
  decide (field w 4 0 ≤ xOf k ∧ xOf k < field w 4 0 + field w 21 16 ∧
    field w 12 8 ≤ yOf k ∧ yOf k < field w 12 8 + field w 29 24)

/-- The core that an entry of an explicit map names now; none once its core has left the core map (R40). -/
def State.entryCore (s : State) (l : Launch) (e : Nat) : Option Nat :=
  if l.gone.contains e then none
  else (((s.mapOf (e / 1024)).getD (e % 1024) none).map (e / 1024 * 1024 + ·)).filter s.enabled

/-- The cores that may take a unit of a chunk of a die. -/
def State.candidates (s : State) (d : Nat) (l : Launch) (i : Nat) : List Nat :=
  if bit (l.word 2) 35 then (s.mapCoresOf d).filter (inPlaceRect (l.word 12))
  else
    match s.entryCore l (l.places.getD (i % l.places.length) 0) with
    | some k => [k]
    | none => (s.launchDies l).flatMap s.mapCoresOf

/-- The message was sent by a die's Derrick. -/
def Msg.fromDerrick (m : Msg) (d : Nat) : Bool := field m.hdr1 47 32 == 4096 + 1024 * d

/-- The Derrick's dispatch messages that a core has not dispatched, parked ones among them (R41). -/
def State.derrickMessages (s : State) (d k : Nat) : Nat :=
  let x := s.core k
  ((x.loInbox ++ x.park ++ (x.tipLo ++ x.tipPark).map (·.msg)).filter fun m => m.fromDerrick d).length +
  (s.loFlights.filter fun f => f.dest == k && f.msg.fromDerrick d).length

/-- The occupancy of a core's LO inbox, as last reported. -/
def State.reportedAt (s : State) (k : Nat) : Nat := Tab.get 0 (s.die (dieOf k)).derrick.reported (k % 1024)

/-- Core `k` takes a unit before core `j`: by the reported occupancy, then by the logical index (R40), and of cores with
one logical index the one that the list names first, on the lower die (log 100). -/
def State.placedBefore (s : State) (k j : Nat) : Bool :=
  decide (s.reportedAt k < s.reportedAt j) ||
    (s.reportedAt k == s.reportedAt j && decide (s.logicalOf k ≤ s.logicalOf j))

/-- The core of a list with the least reported occupancy; the one with the lowest logical index on a tie (R40). -/
def State.leastOccupied (s : State) : List Nat → Option Nat
  | [] => none
  | k :: l =>
    match s.leastOccupied l with
    | none => some k
    | some j => if s.placedBefore k j then some k else some j

/-- Where a unit goes, if it can be sent at once (R40, R41, R227). -/
def State.placement (s : State) (d : Nat) (l : Launch) (i : Nat) : Option Nat :=
  let room := (s.candidates d l i).filter fun k => decide (s.derrickMessages d k < 8)
  (s.leastOccupied room).filter fun k => field (l.word 13) 23 16 == 0 || l.filled.contains k

/-! ## Dispatch (R32, R38) -/

/-- The dispatch message of a unit (R32, R446). -/
def Launch.dispatchMessage (l : Launch) (node d lid i k : Nat) : Msg :=
  { hdr0 := BitVec.ofNat 64 (field (l.word 1) 31 0 * 2 ^ 32 + node * 2 ^ 26 + k * 2 ^ 14)
    hdr1 := headerWord 0 (4096 + 1024 * d) lid 0 0 false false 64
    payload := BitVec.ofNat 64 i :: (upFrom 3 7).map l.word }

/-- The Derrick of a die sends a message to a core (R32, R446). -/
def State.derrickSend (s : State) (d lid k : Nat) (m : Msg) : State :=
  let s := (s.launchFlight { msg := m, src := 4096 + d, dest := k }).countDie d lid 1
  if lid = 0 || dieOf k = d then s
  else
    let key := 4 * lid + dieOf k
    s.modDie d fun y => { y with derrick := { y.derrick with
      cross := Tab.put y.derrick.cross key (Tab.get 0 y.derrick.cross key + 1) } }

/-- A unit of a launch is sent from a chunk of a die. Of an explicit map, the die it goes to is kept (R44). -/
def State.sendUnit (s : State) (d lid i k : Nat) (l : Launch) (n : Nat) : State :=
  let next := fun (c : Chunk) => if c.number = n then { c with next := i + 1 } else c
  let s := s.modLaunch lid fun l =>
    { l with state := .running, chunks := Tab.put l.chunks d ((Tab.get [] l.chunks d).map next)
             away := if l.places.isEmpty then l.away else Tab.put l.away i (dieOf k) }
  (s.derrickSend d lid k (l.dispatchMessage s.node d lid i k)).leaveSent lid

/-- What a die's Derrick sends of a launch now: the unit, its chunk and its core. -/
def State.sendable (s : State) (d lid : Nat) : Option (Launch × Nat × Nat × Nat) :=
  match s.launch? lid with
  | none => none
  | some l =>
    if l.sends s.master.electing then
      match l.sending d with
      | none => none
      | some (c, i) => (s.placement d l i).map fun k => (l, i, c.number, k)
    else none

/-- The launches queued at a Derrick, the highest level first (R38). -/
def Derrick.order (y : Derrick) : List Nat := [3, 2, 1, 0].flatMap fun n => Tab.get [] y.levels n

/-- DERRICK_DISPATCH: a die's Derrick sends the next unit (R32, R38). -/
def execDerrickDispatch (s : State) : Host.Outcome State Fault Refusal :=
  runEvent (do
    let d := s.input.die
    if s.fenced.getLsbD d || !s.ready.getLsbD (48 + d) then notNow
    else
      match (s.die d).derrick.order.findSome? fun lid => (s.sendable d lid).map fun r => (lid, r) with
      | none => notNow
      | some (lid, l, i, n, k) => set (s.sendUnit d lid i k l n)) s

/-- A core may take units of a launch. -/
def State.takesUnits (s : State) (l : Launch) (k : Nat) : Bool :=
  if bit (l.word 2) 35 then (s.launchDies l).contains (dieOf k) && (s.mapCoresOf (dieOf k)).contains k &&
    inPlaceRect (l.word 12) k
  else
    (l.places.any fun e => s.entryCore l e == some k) ||
    ((l.places.any fun e => (s.entryCore l e).isNone) && (s.launchDies l).contains (dieOf k) &&
      (s.mapCoresOf (dieOf k)).contains k)

/-- `n` free bytes (log 5). -/
def drawBytes : Nat → M (List Byte)
  | 0 => pure []
  | n + 1 => do
    let i ← draw
    let bs ← drawBytes n
    pure ((Config.freeValue i).setWidth 8 :: bs)

/-- The deposits of a constant fill, of at most 192 bytes each (R227, R446). -/
def State.fillMessages (s : State) (d lid k : Nat) (bs : List Byte) : List Msg :=
  (upFrom 0 (ceilDiv bs.length 192)).map fun i =>
    let part := (bs.drop (192 * i)).take 192
    { hdr0 := word (192 * i * 2 ^ 32 + s.node * 2 ^ 26 + k * 2 ^ 14)
      hdr1 := headerWord 0 (4096 + 1024 * d) lid 0 1 false false part.length
      payload := wordsOf (part.length / 8) part }

/-- A fill of the launch is on its way to the core. -/
def State.filling (s : State) (d lid k : Nat) : Bool :=
  s.hiFlights.any fun f => f.src == 4096 + d && f.dest == k && f.msg.kind == 1 && f.msg.lid == lid

/-- CONSTANT_FILL: the Derrick sends the constant image of launch `n` toward a core's window, as HI deposits that no
launch counts (R227, R446, log 31). The spec states no value for an image that cannot be read: its bytes are free (log
31). -/
def execConstantFill (s : State) : Host.Outcome State Fault Refusal :=
  runEvent (do
    let lid := s.input.n
    let k := s.input.core
    match s.launch? lid with
    | none => notNow
    | some l =>
      let cl := field (l.word 13) 23 16
      let d := dieOf k
      if cl = 0 || !l.sends s.master.electing || l.filled.contains k || s.filling d lid k || !s.takesUnits l k then notNow
      else do
        let o : Owner := .engine d (4 * (lid * 4096 + k) + 3)
        let bs ← match ← spanRead (dieMmu d l.asid) o l.asid s.hbmByte (8 * cl) (field (l.word 14) 55 0) with
          | .ok (bs, bad) => if bad then drawBytes (8 * cl) else pure bs
          | .error _ => drawBytes (8 * cl)
        modify fun s => (s.fillMessages d lid k bs).foldl (fun s m =>
          s.launchFlight { msg := m, src := 4096 + d, dest := k, counted := false }) (s.forget o)) s

/-- LAUNCH_PROMOTION: launch `n` has waited 1 ms at its level of a Derrick and rises one level (R38). While the next level
holds 64 launches it stays where it is (log 84). -/
def execLaunchPromotion (s : State) : Host.Outcome State Fault Refusal :=
  runEvent (do
    let d := s.input.die
    let lid := s.input.n
    let levels := (s.die d).derrick.levels
    match levels.find? fun p => p.2.contains lid with
    | none => notNow
    | some (n, l) =>
      let up := Tab.get [] levels (n + 1)
      if 3 ≤ n || 64 ≤ up.length then notNow
      else set (s.modDie d fun y => { y with derrick := { y.derrick with
        levels := Tab.put (Tab.put levels n (l.erase lid)) (n + 1) (up ++ [lid]) } })) s

/-! ## The quiescence sweep (R33) -/

/-- DELTA_FLUSH: an NI sends the changes of its counts to its Derrick, and reports its LO inbox (R33, R40). -/
def execDeltaFlush (s : State) : Host.Outcome State Fault Refusal :=
  runEvent (do
    let k := s.input.core
    let x := s.core k
    let s := x.delta.foldl (fun s e => if s.live e.1 then s.countDie (dieOf k) e.1 e.2 else s) s
    let s := s.modDie (dieOf k) fun y => { y with derrick := { y.derrick with
      reported := Tab.put y.derrick.reported (k % 1024) x.loInbox.length } }
    set (s.modCore k fun x => { x with delta := [] })) s

/-- SWEEP_START: the master starts a sweep of the live dies. An NI that has nothing to flush acknowledges at once. -/
def execSweepStart (s : State) : Host.Outcome State Fault Refusal :=
  runEvent (do
    if s.master.sweep.running || !s.masterReady then notNow
    else
      let left := s.cores.filterMap fun p =>
        if p.2.delta.isEmpty || s.fenced.getLsbD (dieOf p.1) then none else some p.1
      set { s with master := { s.master with sweep := { running := true, left } } }) s

/-- SWEEP_ACKNOWLEDGE: an NI that has flushed its changes acknowledges the sweep. -/
def execSweepAcknowledge (s : State) : Host.Outcome State Fault Refusal :=
  runEvent (do
    let k := s.input.core
    let w := s.master.sweep
    if !w.left.contains k || !(s.core k).delta.isEmpty then notNow
    else set { s with master := { s.master with sweep := { w with left := w.left.filter (· != k) } } }) s

/-- The summed delta of a launch over the live dies (R33). -/
def State.deltaSum (s : State) (lid : Nat) : Int :=
  s.liveDies.foldl (fun n d => n + Tab.get 0 (s.die d).derrick.delta lid) 0

/-- The counts of a launch that the live cores have not sent to their Derricks (R33). -/
def State.unflushed (s : State) (lid : Nat) : Int :=
  s.cores.foldl (fun n p => if s.fenced.getLsbD (dieOf p.1) then n else n + Tab.get 0 p.2.delta lid) 0

/-- What a complete sweep says of a launch (R31, R33). It is quiescent only where no count is on its way either (log
96). -/
def State.judge (s : State) (lid : Nat) : State :=
  match s.launch? lid with
  | none => s
  | some l =>
    if lid = 0 || l.state == .complete || (l.state == .queued && !l.cancelled) || s.master.events.contains lid then s
    else
      let sum := s.deltaSum lid
      let zeros := if sum = 0 && s.unflushed lid = 0 && !l.unsent then l.zeros + 1 else 0
      let s := s.modLaunch lid fun l => { l with last := sum.toNat, zeros }
      if 2 ≤ zeros || (l.units = 0 && 1 ≤ zeros) then
        { s with master := { s.master with events := s.master.events ++ [lid] } }
      else s

/-- SWEEP_COMPLETE: every NI has acknowledged; launches that two sweeps have found quiescent are to complete. -/
def execSweepComplete (s : State) : Host.Outcome State Fault Refusal :=
  runEvent (do
    let w := s.master.sweep
    if !w.running || !w.left.isEmpty || s.master.electing then notNow
    else
      let s := ({ s with master := { s.master with sweep := {} } } : State).reviewAll
      set (s.master.launches.foldl (fun s p => s.judge p.1) s)) s

/-! ## A fenced die (R43, R44, R381) -/

/-- DIE_FENCE: a die's FENCED bit sets, its cores leave the core map (R40, R392), and an election begins. -/
def execDieFence (s : State) : Host.Outcome State Fault Refusal :=
  runEvent (do
    let d := s.input.die
    if 4 ≤ d || s.fenced.getLsbD d then notNow
    else
      let s := s.loseEntries fun k => dieOf k == d
      set { s with fenced := s.fenced ||| BitVec.ofNat 4 (2 ^ d), master := { s.master with electing := true } }) s

/-- The die of a core or Derrick key, and of the short form 4·launch + die, is fenced. -/
def State.outside (s : State) (k : Nat) : Bool := decide (k < 4096) && s.fenced.getLsbD (dieOf k)

/-- The counts of messages between a live unit and the fenced dies, by launch (log 27). -/
def State.crossed (s : State) (t : Tab Int) : List (Nat × Int) :=
  (t.filter fun p => s.fenced.getLsbD (p.1 % 4)).map fun p => (p.1 / 4, p.2)

/-- The entries of such a table that concern live dies. -/
def State.uncrossed (s : State) (t : Tab Int) : Tab Int := t.filter fun p => !s.fenced.getLsbD (p.1 % 4)

/-- Messages toward the fenced dies count as retired, and those from them no more; the fenced dies' deltas are
discarded (R43). -/
def State.discountFenced (s : State) : State :=
  let lives := s.liveDies
  let s := s.cores.foldl (fun s p =>
    if s.outside p.1 then s
    else (s.crossed p.2.cross).foldl (fun s e => s.countDie (dieOf p.1) e.1 (-e.2)) s) s
  let s := lives.foldl (fun s d => (s.crossed (s.die d).derrick.cross).foldl (fun s e => s.countDie d e.1 (-e.2)) s) s
  let s := s.mapCores fun x => { x with cross := s.uncrossed x.cross }
  { s with dies := s.dies.map fun p =>
      (p.1, if s.fenced.getLsbD p.1 then { p.2 with derrick := {} }
            else { p.2 with derrick := { p.2.derrick with cross := s.uncrossed p.2.derrick.cross } }) }

/-- An outbox entry without its fenced destinations. -/
def State.keepEntry (s : State) (e : OutEntry) : Option OutEntry :=
  if e.node ≠ s.node || e.dests.isEmpty then some e
  else
    let dests := e.dests.filter fun k => !s.outside k
    if dests.isEmpty then none else some { e with dests }

/-- Messages on their way toward the fenced dies are not delivered (R43, R48). -/
def State.dropToFenced (s : State) : State :=
  let keep := fun (f : Flight) => !s.outside f.dest
  let s := s.mapCores fun x => { x with outbox := x.outbox.filterMap s.keepEntry }
  { s with hiFlights := s.hiFlights.filter keep, loFlights := s.loFlights.filter keep
           routers := s.routers.map fun p => (p.1, p.2.filter keep) }

/-- A chunk of a die that was fenced: dealt to it, or, under an explicit map, with a unit that was sent to it (R44, log
32). -/
def State.chunkLost (s : State) (l : Launch) (d : Nat) (c : Chunk) : Bool :=
  s.fenced.getLsbD d ||
  (!bit (l.word 2) 35 && (upFrom (64 * c.number) (c.next - 64 * c.number)).any fun i =>
    ((Tab.find l.away i).map s.fenced.getLsbD).getD false)

/-- The chunks of a launch that were lost, with their dies. -/
def State.lostChunks (s : State) (l : Launch) : List (Nat × Chunk) :=
  l.chunks.flatMap fun p => (p.2.filter (s.chunkLost l p.1)).map fun c => (p.1, c)

/-- The launch without a chunk of a die. -/
def Launch.undeal (l : Launch) (d n : Nat) : Launch :=
  { l with chunks := Tab.put l.chunks d ((Tab.get [] l.chunks d).filter fun c => c.number != n) }

/-- A lost chunk is reissued where its unit counter has not reached its size (R44). -/
def State.reissue (s : State) (l : Launch) (p : Nat × Chunk) : Launch :=
  if l.chunkSize p.2.number ≤ p.2.count then l
  else
    let d := if s.fenced.getLsbD p.1 then s.chunkDie l p.2.number else some p.1
    match d with
    | some d => (l.undeal p.1 p.2.number).dealTo d p.2.number
    | none => { l with status := 3 }

/-- The fenced dies send no unit. -/
def State.stopFenced (s : State) (l : Launch) : Launch :=
  let done := fun (c : Chunk) => { c with next := l.chunkEnd c.number }
  { l with chunks := l.chunks.map fun p => (p.1, if s.fenced.getLsbD p.1 then p.2.map done else p.2) }

/-- What the election means for a launch (R44). A launch that is not reissuable goes on where dies are left. -/
def State.afterFence (s : State) (lid : Nat) (l : Launch) : State :=
  let lost := s.lostChunks l
  if l.state == .complete || lost.isEmpty then s
  else if bit (l.word 2) 34 then
    let s := s.modLaunch lid fun l => s.stopFenced (lost.foldl s.reissue l)
    let queued := fun (d : Nat) => (s.die d).derrick.order.contains lid
    if l.cancelled then s.modLaunch lid Launch.discard
    else s.enterQueues ((s.launchDies l).filter fun d => !queued d) l.level lid
  else s.modLaunch lid fun l => { s.stopFenced l with status := 3 }

/-- The changes that only fenced dies had not received have taken place; a die's Derrick stands as 4096 + die. -/
def State.changesWithout (s : State) (l : List Change) : List Change :=
  let out := fun (k : Nat) => s.outside k || (decide (4096 ≤ k) && s.fenced.getLsbD (k - 4096))
  (l.map fun e => { e with left := e.left.filter fun k => !out k }).filter fun e => !e.left.isEmpty

/-- The filters and bindings of the fenced dies are not waited for. -/
def State.forgetFenced (s : State) : State :=
  let old := s.master.filters
  let dies := fun (e : Change) => { e with left := e.left.filter fun d => !s.fenced.getLsbD d }
  let s := { s with master := { s.master with
    filters := s.changesWithout old, bindings := s.changesWithout s.master.bindings
    regionChanges := (s.master.regionChanges.map dies).filter fun e => !e.left.isEmpty
    requests := s.master.requests.filter fun q => q.mailbox || !s.outside q.core } }
  old.foldl (fun s e => if s.filtersIn e.core e.ctx then s.answerTo (e.core == 4096) e.core e.ctx 0 else s) s

/-- MASTER_ELECTION: a surviving master goes on, or the lowest live die's Derrick becomes master; it settles what the
fenced dies leave behind (R43, R44). -/
def execMasterElection (s : State) : Host.Outcome State Fault Refusal :=
  runEvent (do
    match s.liveDies with
    | [] => notNow
    | low :: _ =>
      if !s.master.electing then notNow
      else
        let die := if s.fenced.getLsbD s.master.die then low else s.master.die
        let s := ((s.discountFenced).dropToFenced).forgetFenced
        let s := s.master.launches.foldl (fun s p => s.afterFence p.1 p.2) s
        let launches := s.master.launches.map fun p => (p.1, { p.2 with zeros := 0 })
        let inProgress := (launches.filter fun p => p.1 != 0 && p.2.state != .complete).map (·.1)
        set { s with
          master := { s.master with die, electing := false, sweep := {}, launches }
          reports := s.reports ++ [Report.continues s.fenced inProgress] }) s

end Sys2Proof.Machine
end

