-- ==== Sys2Proof/Machine/System.lean ====
section
/-! DEFINITION. Control: `nop`, `trap`, `brk`, `end`, `eret`, `rep`, illegal encodings (R24, R93 to R95, R107, R134 to
R136, R185), `safe` (R137, R138) and the gang instructions (R186). -/

namespace Sys2Proof.Machine

/-! ## Plain control -/

/-- `nop` (R185). -/
def execNopShort (s : State) : Host.Outcome State Fault Refusal := runM retire s

/-- `nop.w` (R185). -/
def execNopW (s : State) : Host.Outcome State Fault Refusal := runM retire s

/-- `trap` (R185): it retires, and the context is then TRAPPED with the next instruction's address. -/
def execTrap (s : State) : Host.Outcome State Fault Refusal :=
  runM (do
    let code ← myCode
    retire
    modify fun s => s.trapCtx s.iss.core s.iss.ctx 0x09 s.iss.next 0 (code.k8.setWidth 64)) s

/-- `brk` (R185). -/
def execBrk (s : State) : Host.Outcome State Fault Refusal :=
  runM (do
    let code ← myCode
    raise { cause := 0x0A, info := code.k8.setWidth 64 }) s

/-- ILLEGAL_INSTRUCTION: the encoding in the slot is illegal (R107). -/
def execIllegalInstruction (s : State) : Host.Outcome State Fault Refusal :=
  runM (do
    illegalEncoding) s

/-- `rep` (R93, R94): the next instruction is checked against the prefix, and the repetition begins, or goes on at the
repetition that REPI names (R95). -/
def execRep (s : State) : Host.Outcome State Fault Refusal :=
  runM (do
    let code ← myCode
    let t ← myCtx
    let next ← fetchCode (t.pc + 2)
    if repeatable code.repMask next then
      modMyCtx fun t => { t with repeating := some (code.repCount, code.repMask) }
    else raise { cause := 0x02, info := Code.fltInfo code }) s

/-! ## `end` and `eret` (R24, R134 to R136, R185) -/

/-- What is left of a context that has become FREE: its registers can still be read through the window of R177; results,
queues and records of its last handler are gone. -/
def Ctx.freed (t : Ctx) : Ctx :=
  { t with state := .free, waitOn := none, latch := .none, windows := [], pending := [], ldq := [], stq := []
           repeating := none, repi := 0, gang := .alone, staging := none, replay := [], checks := [], unit := none
           preqSince := none, save := none, imaging := false, formed := none }

/-- A bit of PREQ clears. -/
def Core.clearPreq (x : Core) (c : Nat) : Core := { x with preq := x.preq &&& ~~~(BitVec.ofNat 15 (2 ^ c)) }

/-- The context becomes FREE; its held sends and spill entries go, and its rectangle is let go (R24, R354, R408). -/
def Core.freeCtx (x : Core) (c : Nat) : Core :=
  let x := { (x.dropHeld c).clearPreq c with spill := x.spill.filter fun e => e.1 != c }
  (x.setCtx c (x.ctx c).freed).leaveRect c

/-- A handler has ended: R24 steps 1 to 3. -/
def State.endHandler (s : State) (k c : Nat) : State :=
  let t := s.ctx k c
  let s := ((s.leaveGang k t).modCore k fun x => x.freeCtx c).retired k t.launchId.toNat (originDie s.node t.hdr0 t.hdr1) 1
  match t.unit with
  | some i => s.unitRetired t.launchId.toNat i
  | none => s

/-- The instruction in the slot retires without a next one. -/
def retireLast : M Unit := modify fun s =>
  let s := s.modCore s.iss.core fun x => x.bump 0 1 1
  { s with iss := { s.iss with retired := true } }

/-- A handler of a filtered launch takes the cancel trap at a `safe` or `end` (R36). -/
def cancelCheck : M Unit := do
  let x ← myCore
  let t ← myCtx
  if t.launchId ≠ 0 && x.filtered t.launchId.toNat none then
    raise { cause := 0x11, info := t.launchId.setWidth 64 }
  else pure ()

/-- `end` in either encoding (R24, R134 to R136). -/
def endContext : M Unit := do
  let (k, c) ← here
  waitUntil .allResults
  if c = 15 then modMyCore fun x => (x.dropHeld 15).endActivation
  else do
    cancelCheck
    modify fun s => s.endHandler k c
  retireLast

/-- `end` (R134). -/
def execEndShort (s : State) : Host.Outcome State Fault Refusal := runM endContext s

/-- `end.w` (R134). -/
def execEndW (s : State) : Host.Outcome State Fault Refusal := runM endContext s

/-- `eret` (R185). -/
def execEret (s : State) : Host.Outcome State Fault Refusal :=
  runM (do
    let (_, c) ← here
    if c ≠ 15 then privilegeFault else pure ()
    waitUntil .allResults
    modMyCore Core.resume
    retireLast) s

/-! ## `safe` (R137, R138) -/

/-- The lowest clear bit of SAVEMAP (R189). -/
def Core.saveSlot (x : Core) : Option Nat := (upFrom 0 16).find? fun n => !x.saveMap.getLsbD n

/-- The context begins to be saved (R189). -/
def Ctx.toSaving (t : Ctx) (job : SaveJob) : Ctx :=
  { t with state := .saving, waitOn := none, latch := .none, repeating := none, staging := none
           save := some job, preqSince := none, imaging := false, formed := none
           gang := match t.gang with
             | .joining _ => .alone
             | g => g }

/-- `safe` (R138). A follower takes the pre-emption that its leader took at the same `safe` (R29, R142), and one of its
own (log 60). The leader alone needs a clear slot: a follower whose slots are all held waits for one in its save (log
103). -/
def execSafe (s : State) : Host.Outcome State Fault Refusal :=
  runM (do
    let (_, c) ← here
    let code ← myCode
    cancelCheck
    let s ← get
    let x ← myCore
    let take := (s.iss.forwarded && s.iss.save) || (c != 15 && x.preq.getLsbD c && x.saveSlot.isSome)
    retire
    if take then do
      modMyCtx fun t => t.toSaving { index := some code.safeIndex.toNat, forced := false }
      modify fun s => { s.flushCtx s.iss.core s.iss.ctx with iss := { s.iss with save := true } }
    else pure ()) s

/-! ## Gangs (R27 to R29, R186) -/

/-- Context 15 takes no part in a gang. -/
def gangContext : M Unit := do
  let (_, c) ← here
  if c = 15 then gangFault else pure ()

/-- The context leads, follows or waits to follow. -/
def Ctx.inGang (t : Ctx) : Bool := t.gang ≠ .alone

/-- Another context of the core leads, follows or waits in `gang.join`. -/
def Core.gangElsewhere (x : Core) (c : Nat) : Bool := x.ctxs.any fun p => p.1 != c && p.2.inGang

/-- Another context of the core is a member of a gang, or waits in `gang.join` or `gang.lead` (R186). -/
def Core.gangOrWaiting (x : Core) (c : Nat) : Bool :=
  x.gangElsewhere c || x.ctxs.any fun p => p.1 != c && (p.2.waitOn.map WaitOn.leads).getD false

/-- `gang.lead k` may be executed (R27, R186). -/
def State.leadOk (s : State) (k c n : Nat) : Bool :=
  let x := s.core k
  decide (1 ≤ n ∧ n ≤ 7) && decide (xOf k + n < 32) && (xOf k + n) / 8 == xOf k / 8 &&
  (upFrom 1 n).all (fun j => s.enabled (k + j)) && (x.ctx c).gang == .alone && !x.gangElsewhere c

/-- A waiting `gang.join` that names the leader retires, and its context follows (R186). -/
def Ctx.joinLeader (t : Ctx) (lead pos now : Nat) (lid : BitVec 16) : Ctx :=
  match t.gang with
  | .joining y =>
    if y = lead then
      { t.retired (t.pc + 4) false with gang := .following lead pos [], gangLid := lid, deadline := now + 15 }
    else t
  | _ => t

/-- The waiting context of a follower core joins its leader. -/
def Core.joinLeader (x : Core) (lead pos : Nat) (lid : BitVec 16) : Core :=
  ({ x with ctxs := x.ctxs.map fun p => (p.1, p.2.joinLeader lead pos x.cycle lid) } : Core).bump 0 1 1

/-- `gang.lead` (R186). -/
def execGangLead (s : State) : Host.Outcome State Fault Refusal :=
  runM (do
    let (k, c) ← here
    let code ← myCode
    let n := code.k8.toNat
    gangContext
    let s ← get
    if s.iss.forwarded || !s.leadOk k c n then gangFault else pure ()
    waitUntil (.gang n)
    let t ← myCtx
    modify fun s => (upFrom 1 n).foldl (fun s j => s.modCore (k + j) fun x => x.joinLeader (xOf k) j t.launchId) s
    modMyCtx fun t => { t with gang := .leading n (upFrom 1 n) }
    retire) s

/-- `gang.join x` may be executed (R186). -/
def State.joinOk (s : State) (k c x : Nat) : Bool :=
  decide (x < xOf k) && decide (xOf k ≤ x + 7) && x / 8 == xOf k / 8 && !(s.core k).gangOrWaiting c

/-- `gang.join` (R186): it waits until its leader forms the gang, which retires it. -/
def execGangJoin (s : State) : Host.Outcome State Fault Refusal :=
  runM (do
    let (k, c) ← here
    let code ← myCode
    let x := code.k8.toNat
    let old ← myCtx
    gangContext
    let s ← get
    let free := match old.gang with
      | .alone => true
      | .joining _ => true
      | _ => false
    if s.iss.forwarded || !free || !s.joinOk k c x then gangFault else pure ()
    modMyCtx fun t => { t with gang := .joining x }
    holdOn old (.gang 0)) s

/-- `gang.leave` (R186): a follower, once it has executed it, goes on with its own code. -/
def execGangLeave (s : State) : Host.Outcome State Fault Refusal :=
  runM (do
    gangContext
    let t ← myCtx
    let member := match t.gang with
      | .leading _ _ => true
      | .following _ _ _ => true
      | _ => false
    if member then pure () else gangFault
    retire
    modMyCtx fun t => { t with gang := .alone }) s

end Sys2Proof.Machine
end

