-- ==== Sys2Proof/Machine/Registers.lean ====
section
/-! DEFINITION. The control registers: `mfc` and `mtc` (R168 to R179), the selected-context window (R177), and the steps
that context 15's writes of PREQ and CTXCMD start (R178, R187). -/

namespace Sys2Proof.Machine

/-! ## Reading (R169 to R177) -/

/-- STATE of CTXSTAT (R171). -/
def CtxState.code : CtxState → Nat
  | .free => 0
  | .ready => 1
  | .wait => 2
  | .trapped => 3
  | .saving => 4

/-- GLEAD, GPOS and GX of CTXSTAT (R171). -/
def Gang.status (g : Gang) : Nat :=
  match g with
  | .alone => 0
  | .joining x => x * 2 ^ 17
  | .leading k _ => k * 2 ^ 25
  | .following x pos _ => pos * 2 ^ 22 + x * 2 ^ 17

/-- CTXSTAT of context `c` (R171). -/
def Ctx.status (t : Ctx) (c : Nat) : Word :=
  word (t.repi * 2 ^ 32 + t.windows.length * 2 ^ 28 + t.gang.status + (if c = 15 then 2 ^ 9 else 0)
    + (if t.hi then 2 ^ 8 else 0) + c * 2 ^ 4 + t.state.code)

/-- Per-context register `n`, 0x001 to 0x00B, of context `c` (R169). -/
def Core.ctxRegister (x : Core) (c n : Nat) : Word :=
  let t := x.ctx c
  match n with
  | 0x001 => t.prec
  | 0x002 => t.rmode
  | 0x003 => t.satf
  | 0x004 => t.oob
  | 0x005 => t.status c
  | 0x006 => t.hdr0
  | 0x007 => t.hdr1
  | 0x008 => t.launchId.setWidth 64
  | 0x009 => t.barRect
  | 0x00A => t.barPh.setWidth 64
  | 0x00B => word (x.holdn c)
  | _ => 0

/-- RESTORE as it reads (R192). -/
def Core.restoreWord (x : Core) : Word :=
  word ((if x.restoring.isSome then 1 else x.restoreStat.toNat) + x.restoreCtx.toNat * 2 ^ 4)

/-- JOBSW as it reads (R195). -/
def Core.jobWord (x : Core) : Word :=
  word (x.jobsw.toNat + (if x.jobBusy then 2 ^ 8 else 0) + (if x.jobErr then 2 ^ 9 else 0))

/-- Core register `n`, 0x100 to 0x10F (R169); CTXCMD is write-only. -/
def State.coreRegister (s : State) (k n : Nat) : Word :=
  let x := s.core k
  match n with
  | 0x100 => x.tags
  | 0x101 => s.coreAddr k
  | 0x102 => s.ready.setWidth 64
  | 0x103 => x.tvec
  | 0x104 => x.flt
  | 0x105 => x.fltpc
  | 0x106 => x.fltaddr
  | 0x107 => x.fltinfo
  | 0x108 => x.ctxsel
  | 0x10A => x.preq.setWidth 64
  | 0x10B => x.saveBase
  | 0x10C => x.saveMap.setWidth 64
  | 0x10D => x.restoreWord
  | 0x10E => x.jobWord
  | 0x10F => x.asid.setWidth 64
  | _ => 0

/-- Word `w` of a handle (R160). -/
def handleWord (h : HandleBits) (w : Nat) : Word := word (h.toNat / 2 ^ (64 * w))

/-- Window register `n` of the selected context (R177). -/
def Core.windowRegister (x : Core) (c n : Nat) : Word :=
  let t := x.ctx c
  if n < 0x840 then
    if n = 0x800 + 60 || n = 0x800 + 61 then 0 else t.scalar (n - 0x800)
  else if n < 0x880 then handleWord (t.handle ((n - 0x840) / 4)) ((n - 0x840) % 4)
  else if n < 0x900 then x.ctxRegister c (n - 0x880)
  else t.pc

/-- A register that only context 15 may access (R168). -/
def supervisorRegister (n : Nat) : Bool := decide (0x103 ≤ n)

/-- A register of the window of R177. -/
def windowNumber (n : Nat) : Bool := decide (0x800 ≤ n)

/-- The window may be used: the selected context is TRAPPED or FREE, or context 15 itself (R177). -/
def Core.windowOpen (x : Core) : Bool :=
  let c := field x.ctxsel 3 0
  c == 15 || (x.ctx c).state == .trapped || (x.ctx c).state == .free

/-- The access rules of R168 and R177. -/
def checkAccess (n : Nat) : M Unit := do
  let (_, c) ← here
  let x ← myCore
  if supervisorRegister n && c ≠ 15 then privilegeFault
  else if windowNumber n && !x.windowOpen then privilegeFault
  else pure ()

/-- The value of a control register for the context in the slot. -/
def State.register (s : State) (n : Nat) : Word :=
  let x := s.core s.iss.core
  if n < 0x100 then x.ctxRegister s.iss.ctx n
  else if windowNumber n then x.windowRegister (field x.ctxsel 3 0) n
  else s.coreRegister s.iss.core n

/-- `mfc` (R179). -/
def execMfc (rd : BitVec 6) (csr : BitVec 12) (s : State) : Host.Outcome State Fault Refusal :=
  runM (do
    checkAccess csr.toNat
    if csr = 0x003#12 then waitUntil .flags else pure ()
    let s ← get
    writeS rd (s.register csr.toNat)
    retire) s

/-! ## Writing -/

/-- A write of a per-context register of context `c`; a reserved value faults, and an RO register is left (R144, R168,
R170). -/
def writeCtxRegister (c n : Nat) (v : Word) : M Unit := do
  let (k, _) ← here
  let put := fun (f : Ctx → Ctx) => modify fun s => s.modCtx k c f
  match n with
  | 0x001 =>
    if field v 3 0 = 0 || field v 3 0 = 15 then illegalOperand 8
    else do
      allFloats c
      put fun t => { t with prec := v &&& 0x1F#64 }
  | 0x002 => if 5 ≤ field v 2 0 then illegalOperand 8 else put fun t => { t with rmode := v &&& 0x1F07#64 }
  | 0x003 => put fun t => { t with satf := v &&& 0x7F#64 }
  | 0x004 => put fun t => { t with oob := v &&& 0x8000FFFFFFFFFFFF#64 }
  | _ => pure ()

/-- SAVEMAP bits are cleared, and their records name no rectangle any more (R169, R408). -/
def Core.clearSaveMap (x : Core) (v : BitVec 16) : Core :=
  let map := x.saveMap &&& ~~~v
  ({ x with saveMap := map, slotRects := x.slotRects.filter fun p => map.getLsbD p.1 } : Core).freeSlots

/-- Context 15 hands a command over; the step of its own performs it, and the `mtc` retires then (log 21). -/
def giveCommand (old : Ctx) (n : Nat) (v : Word) : M Unit := do
  if old.latch = .asked then pure ()
  else do
    modMyCore fun x => { x with command := some (n, v) }
    awaitAnswer old .command

/-- CTXCMD names a TRAPPED context and a command that has an effect (R178). -/
def Core.commandActs (x : Core) (v : Word) : Bool :=
  (field v 9 8 == 1 || field v 9 8 == 2) && (x.ctx (field v 3 0)).state == .trapped

/-- A write of a core register (R168, R169). The result is false while a command is being performed. What
a write of JOBSW does to its BUSY and ERR bits is log 105. -/
def writeCoreRegister (old : Ctx) (n : Nat) (v : Word) : M Unit :=
  match n with
  | 0x100 => modMyCore fun x => { x with tags := x.tags &&& ~~~v }
  | 0x103 => modMyCore fun x => { x with tvec := v &&& 0xFFFFFFFFFFFFFFFE#64 }
  | 0x108 => modMyCore fun x => { x with ctxsel := v &&& 0x10F#64 }
  | 0x109 => do
    let x ← myCore
    if old.latch = .asked || x.commandActs v then giveCommand old 0x109 v else pure ()
  | 0x10A => giveCommand old 0x10A v
  | 0x10B => modMyCore fun x => { x with saveBase := v &&& 0xFFFFFFFFFFFFC000#64 }
  | 0x10C => modMyCore fun x => x.clearSaveMap (v.setWidth 16)
  | 0x10D => do
    waitUntil .restore
    modMyCore fun x => { x with restoring := some v }
  | 0x10E => do
    waitUntil .restore
    if field v 1 0 = 1 || field v 1 0 = 2 then
      modMyCore fun x => { x with jobsw := v.setWidth 2, jobBusy := true, jobErr := false }
    else modMyCore fun x => { x with jobsw := v.setWidth 2 }
  | 0x10F => modMyCore fun x => { x with asid := v.setWidth 13 }
  | _ => pure ()

/-- A handle with word `w` replaced. -/
def putHandleWord (h : HandleBits) (w : Nat) (v : Word) : HandleBits :=
  BitVec.ofNat 256 (putField h.toNat (64 * w + 63) (64 * w) v.toNat)

/-- A PC written through the window; a repetition in progress is over when the context resumes elsewhere (R95, R177). -/
def Ctx.moveTo (t : Ctx) (a : Word) : Ctx := if a = t.pc then t else { t with pc := a, repi := 0 }

/-- A write of a window register other than the PC (R177). -/
def writeWindow (c n : Nat) (v : Word) : M Unit := do
  let (k, _) ← here
  if n < 0x840 then
    if n = 0x800 + 60 || n = 0x800 + 61 then pure ()
    else modify fun s => s.modCtx k c fun t => t.setScalar (n - 0x800) v
  else if n < 0x880 then
    modify fun s => s.modCtx k c fun t =>
      t.setHandle ((n - 0x840) / 4) (putHandleWord (t.handle ((n - 0x840) / 4)) ((n - 0x840) % 4) v)
  else writeCtxRegister c (n - 0x880) v

/-- `mtc` (R144, R168 to R179). -/
def execMtc (ra : BitVec 6) (csr : BitVec 12) (s : State) : Host.Outcome State Fault Refusal :=
  runM (do
    let old ← myCtx
    let (k, c) ← here
    let n := csr.toNat
    checkAccess n
    let v ← readS ra
    let x ← myCore
    let sel := field x.ctxsel 3 0
    if n = 0x900 then do
      let a := v &&& 0xFFFFFFFFFFFFFFFE#64
      if sel = c then retireTo a
      else do
        modify fun s => s.modCtx k sel fun t => t.moveTo a
        retire
    else do
      if n < 0x100 then do
        if n = 3 then waitUntil .flags else pure ()
        writeCtxRegister c n v
      else if windowNumber n then writeWindow sel n v
      else writeCoreRegister old n v
      let t ← myCtx
      if t.state = .wait then pure () else retire) s

/-! ## PREQ and CTXCMD (R178, R187) -/

/-- A pre-emption request is made against a context (R187). -/
def Core.request (x : Core) (c : Nat) : Core :=
  let t := x.ctx c
  let x' := { x with preq := x.preq ||| BitVec.ofNat 15 (2 ^ c) }
  match t.state with
  | .free => x
  | .trapped => x'
  | .saving => x'
  | _ => if x.preq.getLsbD c then x else x'.setCtx c { t with preqSince := some x.cycle }

/-- Pre-emption requests against every context of a set. -/
def Core.requestAll (x : Core) (bits : Word) : Core :=
  (upFrom 0 15).foldl (fun x c => if bit bits c then x.request c else x) x

/-- PREQ_WRITE: context 15's write of PREQ is performed (R187). -/
def execPreqWrite (s : State) : Host.Outcome State Fault Refusal :=
  runEvent (do
    let k := s.input.core
    match (s.core k).command with
    | some (0x10A, v) => set (s.modCore k fun x => { x.requestAll v with command := none })
    | _ => notNow) s

/-- Followers of a leader that does not go on execute an `end` (R29, log 23). -/
def State.endFollowers (s : State) (k : Nat) (t : Ctx) : State :=
  match t.gang with
  | .leading _ members =>
    members.foldl (fun s pos =>
      match (s.core (k + pos)).followerAt pos with
      | some (c, _) => s.modCtx (k + pos) c fun u =>
        match u.gang with
        | .following x q buffer =>
          { u with gang := .following x q (buffer ++ [{ code := .short 0x8002#16, pc := t.pc, next := t.pc }]) }
        | _ => u
      | none => s) s
  | _ => s

/-- Context 15 frees a TRAPPED context (R178); `faulted` reports status FAULTED for its launch. -/
def State.commandFree (s : State) (k c : Nat) (faulted : Bool) : State :=
  let t := s.ctx k c
  let s := (s.endFollowers k t).endHandler k c
  if faulted then s.modLaunch t.launchId.toNat fun l => { l with status := max l.status 2 } else s

/-- Context 15's write of CTXCMD is performed, if its CMD is the given one (R178). -/
def performFree (cmd : Nat) (s : State) : Host.Outcome State Fault Refusal :=
  runEvent (do
    let k := s.input.core
    match (s.core k).command with
    | some (0x109, v) =>
      if field v 9 8 ≠ cmd then notNow
      else
        let s := s.modCore k fun x => { x with command := none }
        set (if (s.ctx k (field v 3 0)).state = .trapped then s.commandFree k (field v 3 0) (cmd == 2) else s)
    | _ => notNow) s

/-- CTXCMD_FREE (R178). -/
def execCtxcmdFree (s : State) : Host.Outcome State Fault Refusal := performFree 1 s

/-- CTXCMD_FREE_FAULTED (R178). -/
def execCtxcmdFreeFaulted (s : State) : Host.Outcome State Fault Refusal := performFree 2 s

end Sys2Proof.Machine
end

