-- ==== Sys2Proof/Machine/Records.lean ====
section
/-! DEFINITION. Save records (R139 to R141, R187 to R191), restores (R192 to R194), forced saves (R188), and context 15's
activations (R182). -/

namespace Sys2Proof.Machine

/-! ## Reaching a record -/

/-- Every page of `n` bytes from a virtual address on can be reached; the address and kind of the first that cannot. -/
def spanPages (tr : Translator) (acc : Access) (va : Nat) : Nat → M (Option (Nat × Nat))
  | 0 => pure none
  | n + 1 => do
    match ← tr va acc with
    | .error kind => pure (some (va, kind))
    | .ok _ => spanPages tr acc (va + 4096) n

/-- Segments of a record, as offset and bytes, are written; every page was confirmed before. -/
def writeSegments (tr : Translator) (o : Owner) (asid base : Nat) : List (Nat × List Byte) → M (Option (Nat × Nat))
  | [] => pure none
  | (off, bs) :: rest => do
    match ← spanWrite tr o asid (base + off) bs with
    | .error e => pure (some e)
    | .ok _ => writeSegments tr o asid base rest

/-- Data as context 15 of the core sees them. -/
def State.superSees (s : State) (k : Nat) (pa : Nat) : Byte := s.loadByte k 15 (s.core k).seq pa

/-- `n` bytes of a record read for context 15; none where translation fails or another node refuses. The read waits for a
queued `mst` of the core that will write one of the bytes (R313). -/
def readRecord (k base n : Nat) : M (Option (List Byte)) := do
  let s ← get
  let asid := (s.core k).asid.toNat
  let (refs, err) ← spanRefs (coreMmu k asid) .read none n base
  match err with
  | some _ => pure none
  | none => do
    let s ← get
    if s.mstWill k refs then notNow else pure ()
    match ← spanData (.core k) asid (s.superSees k) refs with
    | .error _ => pure none
    | .ok (bs, _) => pure (some bs)

/-- The effective address of a record lies in virtual space. -/
def recordVa (a : Word) : Option Nat := if zeroBits a 63 56 then some a.toNat else none

/-! ## Live maps (R139 to R141) -/

/-- The masks of a save: SMASK, FMASK, HMASK, ACC, and the index, none for a full save. -/
structure LiveMap where
  s : Nat
  f : Nat
  h : Nat
  acc : Bool
  index : Option Nat
  deriving DecidableEq

/-- A full save (R191). -/
def LiveMap.full : LiveMap := { s := 2 ^ 64 - 1, f := 2 ^ 32 - 1, h := 2 ^ 16 - 1, acc := true, index := none }

/-- The entry of a live-map table (R140), or a full save where it is malformed (R141). -/
def LiveMap.ofEntry (idx : Nat) (lo hi : Word) : LiveMap :=
  if bit lo 0 || bit lo 60 || bit lo 61 || !zeroBits hi 63 49 then LiveMap.full
  else { s := lo.toNat, f := field hi 31 0, h := field hi 47 32, acc := bit hi 48, index := some idx }

/-- The map that a save applies (R139, R141). -/
def liveMap (k c : Nat) (job : SaveJob) : M LiveMap := do
  let s ← get
  match job.index with
  | none => pure LiveMap.full
  | some idx =>
    let l := s.launchOf (s.ctx k c).sendLid.toNat
    if field (l.word 11) 14 0 ≤ idx then pure LiveMap.full
    else do
      match ← readRecord k (field (l.word 10) 55 4 * 16 + 16 * idx) 16 with
      | some bs => pure (LiveMap.ofEntry idx (wordOf (bs.take 8)) (wordOf (bs.drop 8)))
      | none => pure LiveMap.full

/-! ## The record (R190, R191) -/

/-- Bytes of a word. -/
def wordBytes (w : Word) : List Byte := bytesOf 8 w.toNat

/-- Bytes of a handle. -/
def handleBytes (h : HandleBits) : List Byte := bytesOf 32 h.toNat

/-- The 208 bytes of a held send. -/
def HeldSend.bytes (h : HeldSend) : List Byte :=
  ((h.msg.hdr0 :: h.msg.hdr1 :: h.msg.payload).flatMap wordBytes ++ List.replicate 208 0).take 208

/-- The 208 bytes of a spill entry (R355). -/
def Spill.bytes (e : Spill) : List Byte :=
  (wordBytes e.addr ++ wordBytes (word (e.data.length + (if e.error then 1024 else 0))) ++ e.data ++
    List.replicate 208 0).take 208

/-- The file code of a window (R190). -/
def RegFile.code : RegFile → Nat
  | .scalar => 0
  | .float => 1
  | .handle => 2

/-- The record of an open window (R190). -/
def Window.bytes (w : Window) : List Byte :=
  wordBytes (word (w.reg + w.file.code * 2 ^ 6 + w.count * 2 ^ 8 + 2 ^ 15)) ++ handleBytes (w.result.getD 0)

/-- The spill entries of a context. -/
def Core.spilled (x : Core) (c : Nat) : List Spill := (x.spill.filter fun e => e.1 == c).map (·.2)

/-- GPOS, and the leader's core, of a context in a gang (R191 word 6). -/
def State.gangWord (s : State) (k : Nat) (t : Ctx) : Option Word :=
  match t.gang with
  | .leading _ _ => some (s.coreAddr k)
  | .following _ pos _ => some (s.coreAddr (k - pos) + word (pos * 2 ^ 61))
  | _ => none

/-- The header of a record (R191). -/
def State.recordHeader (s : State) (k c : Nat) (m : LiveMap) : List Word :=
  let x := s.core k
  let t := x.ctx c
  let gang := s.gangWord k t
  let flags := (if t.hi then 2 ^ 11 else 0) + (if gang.isSome then 2 ^ 10 else 0) + (if m.acc then 2 ^ 9 else 0)
    + (if m.index.isNone then 2 ^ 8 else 0)
  [word (2 ^ 63 + t.stq.length * 2 ^ 48 + t.ldq.length * 2 ^ 40 + t.windows.length * 2 ^ 32
     + (x.spilled c).length * 2 ^ 24 + x.holdn c * 2 ^ 16 + c * 2 ^ 12 + flags + 1),
   word (m.index.getD 0xFFFF), word m.s, word (m.h * 2 ^ 32 + m.f), s.coreAddr k, x.asid.setWidth 64,
   gang.getD 0, 0]

/-- The control words of a record (R190). -/
def Core.controlWords (x : Core) (c : Nat) : List Word :=
  let t := x.ctx c
  [t.pc, t.prec, t.rmode, t.satf, t.oob, t.hdr0, t.hdr1, t.launchId.setWidth 64, t.barRect, t.barPh.setWidth 64,
   t.status c, 0, 0, 0, 0, 0]

/-- The segments of a record that a save fills (R139, R190). -/
def State.recordSegments (s : State) (k c : Nat) (m : LiveMap) : List (Nat × List Byte) :=
  let x := s.core k
  let t := x.ctx c
  let scalar := fun n => if n = 60 || n = 61 then 0 else t.scalar n
  let floats := if m.index.isNone then [(0x2C0, bytesOf 128 t.pool.toNat)]
    else ((upFrom 0 32).filter fun n => m.f.testBit n && floatExists t.len n).map fun n =>
      (0x2C0 + n * (widthOf t.len / 8), bytesOf (widthOf t.len / 8) (t.float n))
  [(0, (s.recordHeader k c m).flatMap wordBytes), (0x40, (x.controlWords c).flatMap wordBytes)] ++
  (((upFrom 0 64).filter fun n => m.s.testBit n || n == 0 || n == 60 || n == 61).map fun n =>
    (0xC0 + 8 * n, wordBytes (scalar n))) ++ floats ++
  (t.windows.zipIdx.map fun p => (0x340 + 64 * p.2, p.1.bytes)) ++
  (((upFrom 0 16).filter m.h.testBit).map fun n => (0x440 + 32 * n, handleBytes (t.handle n))) ++
  (t.ldq.zipIdx.map fun p => (0x640 + 8 * p.2, wordBytes (p.1.value.getD 0))) ++
  (t.stq.zipIdx.map fun p => (0x6C0 + 8 * p.2, wordBytes p.1)) ++
  (if m.acc then [(0x740, (upFrom 0 256).flatMap fun i => bytesOf 4 (Tab.get 0 t.acc i).toNat)] else []) ++
  ((x.heldBy c).zipIdx.map fun p => (0xB40 + 208 * p.2, p.1.bytes)) ++
  ((x.spilled c).zipIdx.map fun p => (0x2540 + 208 * p.2, p.1.bytes))

/-! ## Saving (R187 to R189) -/

/-- The request to another node is of a context: of an instruction, of a matrix entry, or of a non-temporal line. -/
def Owner.ofCtx (o : Owner) (k c : Nat) : Bool :=
  match o with
  | .ctx j d => j == k && d == c
  | .matrix j d _ => j == k && d == c
  | .line j _ cs => j == k && cs.contains c
  | .left j d => j == k && d == c
  | _ => false

/-- What a save waits for (R102, R121, R189, R266, R313, R314): every result has come, and every store of the context is
performed and acknowledged. -/
def State.saveReady (s : State) (k c : Nat) : Bool :=
  let x := s.core k
  let t := x.ctx c
  t.pending.isEmpty && t.windows.all (fun w => w.result.isSome) && t.ldq.all (fun e => e.value.isSome) &&
  !(x.lanes.any fun o => o.ctx == c) && !(x.matrix.any fun e => e.ctx == c) && x.stores.isEmpty &&
  !(x.nt.any fun l => l.holds c) && !(s.requests.any fun r => r.2.owner.ofCtx k c)

/-- The key under which the master keeps the unit of a saved context (R397, log 24). -/
def recordKey (asid base : Nat) : Nat := asid * 2 ^ 56 + base

/-- The words of a record by which a copy of it is known: its header and control words (R397, log 24). -/
def State.recordWords (s : State) (k c : Nat) (m : LiveMap) : List Word :=
  s.recordHeader k c m ++ (s.core k).controlWords c

/-- The forwarding buffers that a core keeps when a context is saved under a key: with a follower's, whose forwarded
instructions are still to be executed (R28, log 60). -/
def Core.keepBuffer (x : Core) (g : Gang) (key : Nat) : List GangBuffer :=
  let rest := x.gangBuffers.filter fun b => b.key != key
  match g with
  | .following lead pos buffer => rest ++ [{ key, lead, pos, buffer }]
  | _ => rest

/-- The buffer that the core kept for a follower that is restored: that of its record, or, where the record was moved, the
first of its leader and position (log 60). -/
def Core.keptBuffer (x : Core) (g : Gang) (key : Nat) : Option GangBuffer :=
  match g with
  | .following lead pos _ =>
    let mine := x.gangBuffers.filter fun b => b.lead == lead && b.pos == pos
    match mine.find? fun b => b.key == key with
    | some b => some b
    | none => mine.head?
  | _ => none

/-- The gang role with the instructions of a kept buffer. -/
def Gang.withBuffer (g : Gang) (b : Option GangBuffer) : Gang :=
  match g, b with
  | .following lead pos _, some b => .following lead pos b.buffer
  | g, _ => g

/-- The record of a context is complete (R189 step 4); `words` are those by which a copy of it is known. -/
def State.saved (s : State) (k c n base : Nat) (words : List Word) : State :=
  let t := s.ctx k c
  let x := s.core k
  let s := match t.unit with
    | some i => { s with master := { s.master with
        restarts := { key := recordKey x.asid.toNat base, lid := t.launchId.toNat, unit := i, words } :: s.master.restarts } }
    | none => s
  s.modCore k fun x =>
    ({ x with saveMap := x.saveMap ||| BitVec.ofNat 16 (2 ^ n)
              gangBuffers := x.keepBuffer t.gang (recordKey x.asid.toNat base)
              slotRects := if bit t.barRect 63 then Tab.put x.slotRects n t.barRect else x.slotRects }).freeCtx c

/-- SAVE_COMPLETE: the record of context `ctx` of a core is written, and the context becomes FREE. A record that cannot
be reached raises a machine check, and the save tries again (R189). While every slot holds a saved context the save waits
(R188, log 103). -/
def execSaveComplete (s : State) : Host.Outcome State Fault Refusal :=
  runEvent (do
    let k := s.input.core
    let c := s.input.ctx
    let x := s.core k
    let t := x.ctx c
    let told := x.activations.any fun a => a.cause == 0x10 && a.info == 3 && a.ctx == some c
    let fail := fun (a : Nat) => do
      let s ← get
      set ((s.forget (.core k)).enqueue k { cause := 0x10, ctx := some c, pc := t.pc, addr := word a, info := 3 })
    match t.save, x.saveSlot with
    | some job, some n =>
      if t.state ≠ .saving || !s.saveReady k c || told then notNow
      else do
        let a := x.saveBase + word (0x4000 * n)
        match recordVa a with
        | none => fail a.toNat
        | some base => do
          let mmu := coreMmu k x.asid.toNat
          match ← spanPages mmu .write base 4 with
          | some (bad, _) => fail bad
          | none => do
            let m ← liveMap k c job
            match ← writeSegments mmu (.core k) x.asid.toNat base (s.recordSegments k c m) with
            | some (bad, _) => fail bad
            | none => modify fun s => (s.forget (.core k)).saved k c n base (s.recordWords k c m)
    | _, _ => notNow) s

/-- The replies to a context's matrix fetch that are still to come (R355). -/
def State.fetchesOut (s : State) (k c : Nat) : Nat :=
  (s.requests.filter fun r => decide (r.2.owner = .ctx k c) &&
    match r.2.query.ask with
    | .load _ => true
    | _ => false).length

/-- The spill ring has entries for the replies that a save of the context would divert, and for those that the saves in
progress still await (R323, R355). -/
def State.spillRoom (s : State) (k c : Nat) : Bool :=
  let x := s.core k
  let saving := (x.ctxs.filter fun p => p.2.state == .saving).foldl (fun n p => n + s.fetchesOut k p.1) 0
  (x.fetching c).isNone || decide (x.spill.length + saving + s.fetchesOut k c ≤ 32)

/-- The forced save of a context of a running core is due and may begin (R184, R188); an `acq` whose grant has come retires
first (R258), and the replies that the save diverts have room (R355). -/
def State.forcedDue (s : State) (k c : Nat) : Bool :=
  let x := s.core k
  let t := x.ctx c
  decide (c < 15) && !x.stopped && x.preq.getLsbD c && x.saveSlot.isSome && (t.state == .ready || t.state == .wait) && t.atBoundary &&
  t.waitOn != some .allResults && t.checks.isEmpty && s.spillRoom k c &&
  !s.lockAnswered k c &&
  match t.preqSince with
  | some n => decide (n + 65536 ≤ x.cycle)
  | none => false

/-- A waiting instruction is abandoned. The replies of a matrix fetch go to the spill ring (R318). -/
def State.abandonWait (s : State) (k c : Nat) : State :=
  let x := s.core k
  let s := s.withdraw k c
  let s := if (x.fetching c).isSome then s.forget (.ctx k c) else s.abandon (.ctx k c)
  s.modCore k fun x => { x with matrix := x.matrix.filter fun e => e.ctx != c || e.fetched }

/-- Context `c` of a core begins to be saved in full (R188): its stores are on their way (R266). -/
def State.forceSave (s : State) (k c : Nat) : State :=
  let s := (s.abandonWait k c).modCtx k c fun t => { t.toSaving { index := none, forced := true } with replay := [] }
  (s.flushCtx k c).modCore k fun x => x.bump 0 7 1

/-- FORCED_SAVE: context `ctx` of a core begins to be saved in full (R188). -/
def execForcedSave (s : State) : Host.Outcome State Fault Refusal :=
  runEvent (do
    if s.forcedDue s.input.core s.input.ctx then set (s.forceSave s.input.core s.input.ctx) else notNow) s

/-- Every forced save of the core that is due begins (R188). -/
def State.forceDue (s : State) (k : Nat) : State :=
  (upFrom 0 15).foldl (fun s c => if s.forcedDue k c then s.forceSave k c else s) s

/-! ## Restoring (R192 to R194) -/

/-- Word `i` of a record's bytes. -/
def wordAt (bs : List Byte) (off : Nat) : Word := wordOf ((bs.drop off).take 8)

/-- The header names a record of this kind under the ASID (R192 step 1). -/
def headerOk (bs : List Byte) (asid : BitVec 13) : Bool :=
  bit (wordAt bs 0) 63 && field (wordAt bs 0) 7 0 == 1 && wordAt bs 0x28 == asid.setWidth 64

/-- A window of a record. -/
def windowOf (bs : List Byte) (id i : Nat) : Window :=
  let w := wordAt bs (0x340 + 64 * i)
  { file := match field w 7 6 with
      | 0 => .scalar
      | 1 => .float
      | _ => .handle
    reg := field w 5 0, count := field w 11 8, id
    result := some (BitVec.ofNat 256 (natOf ((bs.drop (0x348 + 64 * i)).take 32))) }

/-- A spill entry of a record (R355). -/
def spillOf (bs : List Byte) (off : Nat) : Spill :=
  let w := wordAt bs (off + 8)
  { addr := wordAt bs off, error := field w 10 8 == 4, data := (bs.drop (off + 16)).take (min 192 (field w 7 0)) }

/-- A held send of a record; its destination is that of its header. -/
def heldOf (c : Nat) (bs : List Byte) (off : Nat) : HeldSend :=
  let hdr1 := wordAt bs (off + 8)
  let n := min 24 (field hdr1 7 0 / 8)
  let m : Msg := { hdr0 := wordAt bs off, hdr1, payload := wordsOf n ((bs.drop (off + 16)).take (8 * n)) }
  { ctx := c, msg := m, node := nodeOf m.hdr0 }

/-- The pool of a record: the registers that it names and that exist at its length; other bits are 0 (R148). -/
def poolOf (bs : List Byte) (len mask : Nat) : BitVec 1024 :=
  let pool := BitVec.ofNat 1024 (natOf ((bs.drop 0x2C0).take 128))
  ((upFrom 0 32).filter fun n => mask.testBit n && floatExists len n).foldl
    (fun p n => poolSet p len n (poolGet pool len n)) 0

/-- The role in a gang that a record names (R191, R193). -/
def gangOf (bs : List Byte) : Gang :=
  let w := wordAt bs 0x30
  if !bit (wordAt bs 0) 10 then .alone
  else if field w 63 61 = 0 then
    let n := field (wordAt bs 0x90) 27 25
    .leading n (upFrom 1 n)
  else .following (field w 18 14) (field w 63 61) []

/-- The context that a record describes, READY at the saved PC (R192 step 3). Reserved bits of the registers read as zero
(R5, R6), and bit 0 of the PC is 0 (R115); a LEN or MODE that `mtc` would refuse is taken as it stands (log 77). -/
def Ctx.ofRecord (old : Ctx) (bs : List Byte) (now : Nat) : Ctx :=
  let w0 := wordAt bs 0
  let ctl := fun i => wordAt bs (0x40 + 8 * i)
  let smask := wordAt bs 0x10
  let masks := wordAt bs 0x18
  let nw := min 4 (field w0 34 32)
  let scalars := ((upFrom 1 63).filter fun n => bit smask n && n != 60 && n != 61).map fun n => (n, wordAt bs (0xC0 + 8 * n))
  let acc := (upFrom 0 256).map fun i => (i, BitVec.ofNat 32 (natOf ((bs.drop (0x740 + 4 * i)).take 4)))
  { state := .ready, hi := bit w0 11, pc := ctl 0 &&& 0xFFFFFFFFFFFFFFFE#64, prec := ctl 1 &&& 0x1F#64
    rmode := ctl 2 &&& 0x1F07#64, satf := ctl 3 &&& 0x7F#64, oob := ctl 4 &&& 0x8000FFFFFFFFFFFF#64
    hdr0 := ctl 5 &&& 0xFFFFFFFFFFFFE000#64, hdr1 := ctl 6, launchId := (ctl 7).setWidth 16, barRect := ctl 8 &&& 0x800000033F3F1F1F#64, barPh := (ctl 9).setWidth 32
    s := scalars
    pool := poolOf bs (field (ctl 1) 3 0) (if bit w0 8 then 2 ^ 32 - 1 else field masks 31 0)
    h := ((upFrom 0 16).filter fun n => bit masks (32 + n)).map fun n =>
      (n, BitVec.ofNat 256 (natOf ((bs.drop (0x440 + 32 * n)).take 32)))
    windows := (upFrom 0 nw).map fun i => windowOf bs (old.nextId + i) i
    ldq := (upFrom 0 (min 16 (field w0 44 40))).map fun i =>
      { id := old.nextId + nw + i, value := some (wordAt bs (0x640 + 8 * i)) }
    stq := (upFrom 0 (min 16 (field w0 52 48))).map fun i => wordAt bs (0x6C0 + 8 * i)
    nextId := old.nextId + nw + 16
    repi := field (ctl 10) 37 32, gang := gangOf bs, deadline := now + 15
    acc := if bit w0 9 then acc else []
    replay := (upFrom 0 (min 32 (field w0 29 24))).map fun i => spillOf bs (0x2540 + 208 * i) }

/-- The subcode of a restore fault, if there is one (R194); of several cases the first is reported (log 78). -/
def State.restoreFault (s : State) (k : Nat) (bs : List Byte) : Option Nat :=
  let r := wordAt bs 0x80 &&& 0x800000033F3F1F1F#64
  if bit r 63 && !rectHolds r k then some 1
  else if bit (wordAt bs 0) 10 && field (wordAt bs 0x20) 31 14 ≠ field (s.coreAddr k) 31 14 then some 2
  else if bit r 63 && ((s.core k).takeSlot r ((wordAt bs 0x88).setWidth 32)).isNone then some 3
  else none

/-- The launch ID of the leader that a restored follower rejoins, if the leader stands (R28, log 22). -/
def State.leaderLid (s : State) (k : Nat) (t : Ctx) : BitVec 16 :=
  match t.gang with
  | .following _ pos _ =>
    ((s.core (k - pos)).ctxs.findSome? fun p =>
      match p.2.gang with
      | .leading _ _ => some p.2.launchId
      | _ => none).getD t.launchId
  | _ => t.launchId

/-- The record is taken out of SAVEMAP if it lies in a slot of SAVEBASE (R192 step 4). -/
def Core.leaveSlot (x : Core) (a : Word) : Core :=
  let d := a - x.saveBase
  if field d 13 0 = 0 && zeroBits d 63 18 then x.clearSaveMap (BitVec.ofNat 16 (2 ^ field d 17 14)) else x

/-- A restore that changes nothing but its status. -/
def Core.restoreEnds (x : Core) (status : Nat) : Core :=
  { x with restoring := none, restoreStat := BitVec.ofNat 2 status }

/-- The message that started the handler came from a Derrick, so that the handler is a unit (R32, R446). -/
def Ctx.isUnit (t : Ctx) : Bool := bit t.hdr1 44

/-- The unit that a record restores (R397, log 24): the one whose words it holds, at its address if several do, then the
one saved under its address, then one of its launch. -/
def State.restartOf (s : State) (t : Ctx) (key : Nat) (words : List Word) : Option Restart :=
  let mine := s.master.restarts.filter fun r => r.lid == t.launchId.toNat
  if !t.isUnit then none
  else
    let same := mine.filter fun r => r.words == words
    let choose := fun (l : List Restart) => (l.find? fun r => r.key == key).or l.head?
    (choose same).or (choose mine)

/-- The context of a record comes to context `c` (R192 steps 3 to 5, R194). -/
def State.restoreInto (s : State) (k c : Nat) (a : Word) (bs : List Byte) : State :=
  let key := recordKey (s.core k).asid.toNat a.toNat
  let t := Ctx.ofRecord (s.ctx k c) bs (s.core k).cycle
  let fault := s.restoreFault k bs
  let again := s.restartOf t key (wordsOf 24 bs)
  let kept := (s.core k).keptBuffer t.gang key
  let t := { t with unit := again.map (·.unit), gangLid := s.leaderLid k t, gang := t.gang.withBuffer kept }
  let held := (upFrom 0 (min 16 (field (wordAt bs 0) 21 16))).map fun i => heldOf c bs (0xB40 + 208 * i)
  let s := { s with master := { s.master with restarts := s.master.restarts.filter fun r => some r != again } }
  let s := s.modCore k fun x =>
    let x := if bit t.barRect 63 then (x.takeSlot t.barRect t.barPh).getD x else x
    { x.restoreEnds 0 with spoil := x.spoil ++ held, restoreCtx := BitVec.ofNat 4 c
                           gangBuffers := x.gangBuffers.filter fun b => some b != kept }
  match fault with
  | none => s.modCore k fun x => (x.setCtx c t).leaveSlot a
  | some sub =>
    let t := { t with state := .trapped, barRect := 0, barPh := 0, gang := .alone }
    (s.modCore k fun x => ((x.setCtx c t).leaveSlot a).freeSlots).enqueue k
      { cause := 0x0B, ctx := some c, pc := t.pc, addr := a, info := word sub }

/-- RESTORE_START: the restore that context 15 wrote to RESTORE takes place; it waits while the Spoil has no room
(R192). -/
def execRestoreStart (s : State) : Host.Outcome State Fault Refusal :=
  runEvent (do
    let k := s.input.core
    let ends := fun (status : Nat) => modify fun s => (s.forget (.core k)).modCore k fun x => x.restoreEnds status
    match (s.core k).restoring with
    | none => notNow
    | some a =>
      match if field a 13 0 = 0 then recordVa a else none with
      | none => ends 3
      | some base => do
        let mmu := coreMmu k (s.core k).asid.toNat
        match ← spanPages mmu .read base 4 with
        | some _ => ends 3
        | none => do
          match ← readRecord k base 0x4000 with
          | none => ends 3
          | some bs => do
            let s ← get
            let x := s.core k
            if !headerOk bs x.asid then ends 3
            else
              match x.freeContext (bit (wordAt bs 0) 11) with
              | none => ends 2
              | some c =>
                if 32 < x.spoil.length + min 16 (field (wordAt bs 0) 21 16) then notNow
                else set ((s.forget (.core k)).restoreInto k c a bs)) s

/-! ## Activations (R181, R182) -/

/-- The activation that context 15 takes next (R182): the oldest of the first class. -/
def Core.nextActivation (x : Core) : Option Activation := leastBy Activation.rank x.activations

/-- SUPERVISOR_ACTIVATION: context 15 of a core, when FREE, takes the next activation (R182). -/
def execSupervisorActivation (s : State) : Host.Outcome State Fault Refusal :=
  runEvent (do
    let k := s.input.core
    let x := s.core k
    match x.nextActivation with
    | none => notNow
    | some a => if x.stopped || s.tripped || (x.ctx 15).state ≠ .free then notNow else set (s.setCore k (x.activate a))) s

end Sys2Proof.Machine
end

