-- ==== Sys2Proof/Machine/JobSwitch.lean ====
section
/-! DEFINITION. Job switches through JOBSW (R195, R320), and errors of a core's memories and registers: failed banks,
scrubbing, soft errors and core reset (R180, R184, R223 to R225). -/

namespace Sys2Proof.Machine

/-! ## Plane images (R320) -/

/-- Row `d` of a plane image. -/
def Plane.rowImage (p : Plane) (d : Nat) : List Byte :=
  let codes := (upFrom 0 16).map (p.code d)
  let e0 := (Tab.get 0 p.e0 d).toNat
  let e1 := (Tab.get 0 p.e1 d).toNat
  let row := match p.fmt.toNat with
    | 0x10 => codes.flatMap (bytesOf 2)
    | 0x11 => codes.flatMap (bytesOf 2)
    | 0x18 => dxbBytes 6 e0 e1 codes
    | 0x19 => dxbBytes 2 e0 e1 codes
    | 0x00 => codes.flatMap (bytesOf 1)
    | 0x08 => (upFrom 0 8).map fun j => BitVec.ofNat 8 (codes.getD (2 * j) 0 % 16 + 16 * codes.getD (2 * j + 1) 0)
    | _ => []
  (row ++ List.replicate 64 0).take 64

/-- A plane image. -/
def Plane.image (p : Plane) : List Byte :=
  wordBytes (word (p.fmt.toNat + p.kvalid.toNat * 2 ^ 16 + p.nvalid.toNat * 2 ^ 32)) ++ List.replicate 56 0 ++
    (upFrom 0 16).flatMap p.rowImage

/-- Code and exponents of column `n` in a row of a plane image. -/
def rowCode (fmt : Nat) (row : List Byte) (n : Nat) : Nat :=
  let at' := fun (i : Nat) => (row.getD i 0).toNat
  match fmt with
  | 0x10 => at' (2 * n) + 256 * at' (2 * n + 1)
  | 0x11 => at' (2 * n) + 256 * at' (2 * n + 1)
  | 0x18 => at' (2 + n)
  | 0x19 => at' (2 + n / 2) / 16 ^ (n % 2) % 16
  | 0x00 => at' n
  | 0x08 => at' (n / 2) / 16 ^ (n % 2) % 16
  | _ => 0

/-- The plane of an image, or none where its header is not in order. -/
def Plane.ofImage (bs : List Byte) : Option Plane :=
  let w := wordAt bs 0
  let f := field w 5 0
  if !(weightFmt f || f == 0x3F) || !zeroBits w 15 6 || !zeroBits w 63 48 then none
  else
    let row := fun (d : Nat) => (bs.drop (64 + 64 * d)).take 64
    let dxb := f == 0x18 || f == 0x19
    some { fmt := BitVec.ofNat 6 f, kvalid := BitVec.ofNat 16 (field w 31 16), nvalid := BitVec.ofNat 16 (field w 47 32)
           codes := if f = 0x3F then [] else (upFrom 0 16).flatMap fun d =>
             (upFrom 0 16).map fun n => (16 * d + n, BitVec.ofNat 16 (rowCode f (row d) n))
           e0 := if dxb then (upFrom 0 16).map fun d => (d, (row d).getD 0 0) else []
           e1 := if dxb then (upFrom 0 16).map fun d => (d, (row d).getD 1 0) else [] }

/-! ## The core record (R195) -/

/-- The bytes of the core record. -/
def coreRecordBytes : Nat := 0x8880

/-- The Bench with every domain stopped (R195). -/
def Bench.stopAll (b : Bench) : Bench :=
  (upFrom 0 4).foldl (fun b d => b.modDomain d fun x => if x.dstate = 1 then { x with dstate := 0 } else x) b

/-- The core record. Its Bench image tells which domains were running (log 25). -/
def Core.record (x : Core) : List Byte :=
  wordBytes x.tags ++ wordBytes (x.asid.setWidth 64) ++ List.replicate 0x30 0 ++
  x.bench.image.flatMap wordBytes ++ List.replicate 0x80 0 ++
  ((upFrom 0 16).flatMap fun c => bytesOf 4 (Tab.get 0 x.cb c).toNat) ++ List.replicate 0x56C0 0 ++
  x.active.image ++ x.shadow.image

/-- The address of the core record. -/
def Core.recordAddress (x : Core) : Word := x.saveBase + 0x40000

/-- The job-switch command ends. -/
def Core.jobEnds (x : Core) (err : Bool) : Core := { x with jobBusy := false, jobErr := err, jobSent := false }

/-- The core record is on its way and its domains have stopped (R195). -/
def Core.jobSends (x : Core) : Core := { x with bench := x.bench.stopAll, jobSent := true }

/-- JOBSW_SAVE: the core record is written (R195). It waits for the array and the copies. Every page is confirmed before
the domains stop and a byte is written, so that a failure leaves the core as it was. -/
def execJobswSave (s : State) : Host.Outcome State Fault Refusal :=
  runEvent (do
    let k := s.input.core
    let x := s.core k
    let ends := fun (err : Bool) => modify fun s => (s.forget (.core k)).modCore k fun x => x.jobEnds err
    if !x.jobBusy || x.jobsw ≠ 1 then notNow
    else if x.ctxs.any fun p => decide (p.1 < 15) && p.2.state != .free then ends true
    else if !x.matrix.isEmpty || !x.copies.isEmpty || !x.stores.isEmpty then notNow
    else if x.jobSent then
      if s.requests.any fun r => r.2.owner == .core k then notNow else ends false
    else
      match recordVa x.recordAddress with
      | none => ends true
      | some base => do
        let asid := x.asid.toNat
        match ← spanConfirm (coreMmu k asid) (.core k) asid base x.record.length with
        | .error _ => ends true
        | .ok refs => do
          needStacks refs
          modify fun s => ((s.writeHbm (localPairs refs x.record)).postRuns (.core k) (dieOf k) asid x.record
            (nodeRuns refs)).modCore k Core.jobSends) s

/-- The core's state that a core record holds is written back; whether both planes are in order (R195, R320). -/
def Core.ofRecord (x : Core) (bs : List Byte) : Core × Bool :=
  let words := wordsOf imageWords (bs.drop 0x40)
  let a := Plane.ofImage ((bs.drop 0x8000).take 0x440)
  let b := Plane.ofImage ((bs.drop 0x8440).take 0x440)
  ({ x with
      tags := wordAt bs 0, tagCount := []
      bench := x.bench.ofImage words true x.cycle
      cb := (upFrom 0 16).map fun c => (c, BitVec.ofNat 32 (natOf ((bs.drop (0x2900 + 4 * c)).take 4)))
      active := a.getD {}, shadow := b.getD {} }, a.isSome && b.isSome)

/-- JOBSW_RESTORE: the core record is checked and written back (R195). A Bench image that is not in order sets ERR
(log 25). -/
def execJobswRestore (s : State) : Host.Outcome State Fault Refusal :=
  runEvent (do
    let k := s.input.core
    let x := s.core k
    let ends := fun (err : Bool) => modify fun s => (s.forget (.core k)).modCore k fun x => x.jobEnds err
    if !x.jobBusy || x.jobsw ≠ 2 then notNow
    else
      match recordVa x.recordAddress with
      | none => ends true
      | some base => do
        match ← readRecord k base coreRecordBytes with
        | none => ends true
        | some bs =>
          if wordAt bs 8 ≠ x.asid.setWidth 64 || (imageFault (wordsOf imageWords (bs.drop 0x40))).isSome then ends true
          else do
            let ok := (x.ofRecord bs).2
            modify fun s => s.modCore k fun x => (x.ofRecord bs).1
            ends (!ok)) s

/-! ## Failed banks, scrubbing and soft errors (R180, R224, R225) -/

/-- Distinct stripes corrected in a bank within the last 2^20 cycles (R224). -/
def Core.recentCorrections (x : Core) (bank : Nat) : Nat :=
  ((Tab.get [] x.corrected bank).filter fun p => decide (x.cycle < p.2 + 2 ^ 20)).length

/-- BANK_FAILURE_MARK: bank `n` of a core is marked failed, by its corrections, or with the flag by management; a failure
in a second bank raises a machine check and is reported (R224). -/
def execBankFailureMark (s : State) : Host.Outcome State Fault Refusal :=
  runEvent (do
    let k := s.input.core
    let n := s.input.n
    let x := s.core k
    if 18 ≤ n || !(s.input.flag || decide (16 ≤ x.recentCorrections n)) || !s.enabled k then notNow
    else if !x.bank.getLsbD 7 then set (s.modCore k fun x => { x with bank := BitVec.ofNat 8 (128 + n) })
    else if x.bank.toNat % 32 = n then notNow
    else
      let s := (s.modCore k fun x => { x with corrected := Tab.del x.corrected n }).coreCheck k 1 0
      set { s with reports := s.reports ++ [Report.bankFailure k] }) s

/-- SCRUB_STRIPE: stripe `n` of a core's tile is read, corrected where that is possible, and rewritten (R225). -/
def execScrubStripe (s : State) : Host.Outcome State Fault Refusal :=
  runEvent (do
    let k := s.input.core
    let n := s.input.n
    let x := s.core k
    if 8192 ≤ n then notNow
    else
      let good := (upFrom (128 * n) 128).filter fun o => decide (x.wrongSymbols o < 2)
      set ((s.noteRead k good).modCore k fun y => { y with
        bad := y.bad.filter fun b => !(b.stripe == n && decide (x.wrongSymbols (128 * n + b.position) < 2)) })) s

/-- REGISTER_SOFT_ERROR: a machine check of source 2 against context `ctx` of a core (R180, R181). -/
def execRegisterSoftError (s : State) : Host.Outcome State Fault Refusal :=
  runEvent (do
    let k := s.input.core
    if !s.enabled k || 16 ≤ s.input.ctx then notNow
    else set ((s.modCore k fun x => x.bumpSoft 2 1).machineCheck k s.input.ctx 2 0)) s

/-- A core right after a core reset: its Reset columns. Launch accounting is the Derrick's business and stays, as do the
event counters (log 26). -/
def Core.afterReset (x : Core) : Core :=
  { Core.reset with cycle := x.cycle, delta := x.delta, filter := x.filter, perf := x.perf }

/-- CORE_RESET: a core starts anew; a core that a supervisor fault has stopped resumes (R184). -/
def execCoreReset (s : State) : Host.Outcome State Fault Refusal :=
  runEvent (do
    let k := s.input.core
    if !s.enabled k then notNow
    else
      let s := (upFrom 0 16).foldl (fun s c => s.withdraw k c) s
      let mine := fun (o : Owner) => o.ofCore k ||
        match o with
        | .copy j _ => j == k
        | .line j _ _ => j == k
        | _ => false
      let orphan := fun (r : Request) => if mine r.owner then { r with owner := .gone } else r
      let s := { s with
        answers := s.answers.filter fun a => !mine a.1
        requests := s.requests.map fun (p : Nat × Request) => (p.1, orphan p.2)
        master := { s.master with
          requests := s.master.requests.filter fun q => q.mailbox || q.core != k
          bindings := reached (fun _ => true) k s.master.bindings
          filters := reached (fun _ => true) k s.master.filters } }
      set (s.modCore k Core.afterReset)) s

end Sys2Proof.Machine
end

