-- ==== Sys2Proof/Machine/Links.lean ====
section
/-! DEFINITION. The Isder links: flits and their acknowledgement (R423, R424), retraining and link loss (R429, R430), the
requests of other nodes at the ingress dies (R379, R425), the messages of other nodes (R428), and the answers to this
node's requests (R425 to R427, R269). -/

namespace Sys2Proof.Machine

/-! ## Answers to requests (R425, R426) -/

/-- SATF.REMERR of every context that a request was made for (R426, R269, R238). -/
def State.remoteErrorOf (s : State) (o : Owner) : State :=
  match o with
  | .ctx k c => s.modCtx k c Ctx.remoteError
  | .left k c => s.modCtx k c Ctx.remoteError
  | .copy k id =>
    match (s.core k).copies.find? fun c => c.id == id with
    | some c => if c.ctx < 16 then s.modCtx k c.ctx Ctx.remoteError else s
    | none => s
  | .matrix k c _ => if c < 16 then s.modCtx k c Ctx.remoteError else s
  | .line k _ cs => cs.foldl (fun s c => s.modCtx k c Ctx.remoteError) s
  | _ => s

/-- The writes of the mailbox and of the network engines are answered when they are performed, the others when their
translation is confirmed (R236, R365, R421). -/
def Request.late (r : Request) : Bool :=
  match r.owner with
  | .mailbox => true
  | .engine _ _ => true
  | _ => false

/-- The owner takes an answer to the request; the writes of copies, of `mst` and of the non-temporal buffer leave
without one. -/
def Request.expects (r : Request) : Bool :=
  match r.owner, r.query.ask with
  | .gone, _ => false
  | .left _ _, _ => false
  | .line _ _ _, _ => false
  | .copy _ _, .store _ => false
  | .matrix _ _ _, .store _ => false
  | _, _ => true

/-- The context and length of a matrix operand fetch whose context is being saved (R189, R355). -/
def State.diverts (s : State) (r : Request) : Option (Nat × Nat × Nat) :=
  match r.owner, r.query.ask with
  | .ctx k c, .load n => if (s.ctx k c).state = .saving then some (k, c, n) else none
  | _, _ => none

/-- The entry of the spill ring that an answer to a fetch leaves: its data, or the error value where the answer is an error
or never came; a failed translation leaves none (R316, R355, R427). -/
def spillEntry (va n : Nat) (a : Answer) : Option Spill :=
  if 1 ≤ a.status && a.status ≤ 3 then none
  else some { addr := word va, error := decide (4 ≤ a.status), data := if 4 ≤ a.status then errorBytes n else a.data }

/-- Request `tx` ends with an answer; that of a fetch of a context that is being saved goes into the spill ring. -/
def State.endRequest (s : State) (tx : Nat) (a : Answer) : State :=
  match Tab.find s.requests tx with
  | none => s
  | some r =>
    let s := { s with requests := Tab.del s.requests tx }
    match s.diverts r with
    | some (k, c, n) => s.modCore k fun x => { x with
        spill := x.spill ++ ((spillEntry r.query.va n a).toList.map fun e => (c, e)) }
    | none =>
    if !r.translated && r.expects then { s with answers := s.answers ++ [(r.owner, r.query, a)] }
    else if a.status = 0 then s
    else s.remoteErrorOf r.owner

/-- The requests that a predicate selects end as unreachable (R426, R430). -/
def State.endRequests (s : State) (p : Nat → Request → Bool) : State :=
  s.requests.foldl (fun s r => if p r.1 r.2 then s.endRequest r.1 { status := 5 } else s) s

/-! ## Flits (R424) -/

/-- The die at whose Derrick a change is counted that a die's unit makes: that die, or, once it is fenced and its deltas are
discarded, the lowest-numbered live one (R43, log 27). -/
def State.countingDie (s : State) (d : Nat) : Nat :=
  if s.fenced.getLsbD d then ((upFrom 0 4).find? fun e => !s.fenced.getLsbD e).getD d else d

/-- A message that left is retired when its flit is acknowledged, or when it is lost (R428, R430). -/
def State.flitRetired (s : State) (p : Nat) (f : SentFlit) : State := s.countDie (s.countingDie (p / 8)) f.lid (-f.count)

/-- The partner acknowledges the flits through `a`. -/
def State.ackFlits (s : State) (p a : Nat) : State :=
  let l := (s.port p).unacked
  match l.findIdx? fun f => f.fseq == a with
  | none => s
  | some i =>
    let s := s.modPort p fun x => { x with unacked := l.drop (i + 1) }
    (l.take (i + 1)).foldl (fun s f => s.flitRetired p f) s

/-- Word 1 of a packet keeps its reserved bits, and OP and mode the values that R425 names. -/
def Packet.word1Ok (p : Packet) : Bool :=
  match p.kind with
  | 0x01 => true
  | 0x10 => zeroBits p.word1 63 56
  | 0x11 => zeroBits p.word1 63 56
  | 0x12 => zeroBits p.word1 63 60 && decide (field p.word1 59 56 ≤ 10)
  | 0x13 => zeroBits p.word1 63 58 && decide (field p.word1 57 56 ≤ 1) && zeroBits p.word1 2 1
  | 0x24 => zeroBits p.word1 63 9
  | _ => zeroBits p.word1 63 8

/-- A packet keeps R425: its TYPE, its reserved bits and its LEN. -/
def Packet.ok (p : Packet) : Bool :=
  !p.reserved && p.word1Ok && (p.kind = 0x10 || p.data.length = p.len) &&
  match p.kind with
  | 0x01 => decide (16 ≤ p.len ∧ p.len ≤ 220) && p.txid == 0 && p.asid == 0 &&
      p.len == 16 + field (wordOf ((p.data.drop 8).take 8)) 7 0
  | 0x10 => decide (1 ≤ p.len ∧ p.len ≤ 128)
  | 0x11 => decide (p.len ≤ 128)
  | 0x12 => p.len == 16
  | 0x13 => p.len == 0
  | 0x20 => decide (p.len ≤ 128) && p.asid == 0
  | 0x23 => p.len == 8 && p.asid == 0
  | k => [0x21, 0x22, 0x24, 0x2F].contains k && p.len == 0 && p.asid == 0

/-- A packet that breaks R425 counts as a message error, at the core of the router that the port is attached to
(R415, log 35). -/
def State.packetError (s : State) (p : Nat) (packet : Packet) : State :=
  s.modCore (portRouter p) fun x => x.messageError (wordOf ((packet.data.drop 8).take 8))

/-- What a flit that has arrived in order holds goes to the upper layer. -/
def State.passUp (s : State) (p : Nat) (f : Flit) : State :=
  if f.ftype = 1 then
    if f.packet.ok then s.modPort p fun x => { x with inbound := x.inbound ++ [f] }
    else (s.packetError p f.packet).modPort p fun x => { x with freed := x.freed ++ [f.packet.vc] }
  else s.modPort p fun x => { x with lost := x.lost ++ f.lost.toList, wanted := x.wanted || f.retrain }

/-- A flit whose CRC fails, or that has a reserved ACK or FTYPE (R424). -/
def Flit.bad (f : Flit) : Bool := !f.crcOk || decide (3 ≤ f.ack) || decide (3 ≤ f.ftype)

/-- FLIT_RECEIVE: a flit arrives at port `n`; a replay request sends what the partner has not acknowledged again (R424).
Idle flits take no sequence number (log 36). A flit that is discarded, because its CRC fails or it comes out of order, is
answered and returns no slot: its replay does. -/
def execFlitReceive (s : State) : Host.Outcome State Fault Refusal :=
  runEvent (do
    let p := s.input.n
    let f := s.input.flit
    let x := s.port p
    if 32 ≤ p || !x.up || x.training then notNow
    else
      let s := s.modPort p fun x => { x with received := x.received + 1 }
      if f.bad then
        set (s.modPort p fun x => ({ x with failed := (x.received :: x.failed).take 16, ack := 2 } : Port).pump)
      else
        let ahead := (f.fseq + 1024 - x.aseq) % 1024
        let s := if f.ftype = 0 || ahead = 1 then s.modPort p fun x =>
            { x with credits := Tab.put x.credits f.cvc (Tab.get 0 x.credits f.cvc + f.cred) }
          else s
        let s := if f.ack = 0 then s else s.ackFlits p f.aseq
        let s := if f.ack = 2 then s.modPort p Port.replay else s
        let s := if f.ftype = 0 then s
          else if ahead = 1 then (s.modPort p fun x => { x with aseq := f.fseq, ack := 1 }).passUp p f
          else s.modPort p fun x => { x with ack := if 1 < ahead && ahead < 512 then 2 else 1 }
        set (s.modPort p Port.pump)) s

/-! ## Retraining and loss (R429, R430) -/

/-- Sixteen flits have failed within 2^20 (R429). -/
def Port.tooManyErrors (p : Port) : Bool :=
  match p.failed[15]? with
  | some old => decide (p.received < old + 2 ^ 20)
  | none => false

/-- RETRAIN: port `n` retrains: a lane has lost lock (the flag), flits have failed, or the partner asks for it. With the
second flag a lane does not train, and the spare takes its place (R429). -/
def execRetrain (s : State) : Host.Outcome State Fault Refusal :=
  runEvent (do
    let p := s.input.n
    let x := s.port p
    if !x.up || x.training || !(s.input.flag || x.wanted || x.tooManyErrors) then notNow
    else set (s.modPort p fun x => { x with
      training := true, wanted := false, failed := []
      spareUsed := x.spareUsed || s.input.flag2, broken := x.broken || (x.spareUsed && s.input.flag2)
      perf := Tab.put x.perf 0 (Tab.get 0 x.perf 0 + 1) })) s

/-- LINK_RESUME: port `n` has trained again after `m` cycles, at most 12 µs, and replays from the partner's ASEQ + 1
(R429). -/
def execLinkResume (s : State) : Host.Outcome State Fault Refusal :=
  runEvent (do
    let p := s.input.n
    let x := s.port p
    if !x.training || x.broken || 21600 < s.input.m then notNow
    else
      let s := s.modPort p fun x => { x with
        training := false, perf := Tab.put x.perf 1 (Tab.get 0 x.perf 1 + word s.input.m) }
      set (((s.ackFlits p s.input.flit.aseq).modPort p Port.replay).modPort p Port.pump)) s

/-- A route entry after a port has been lost: the alternate takes its place for each die, or the node becomes
unreachable (R381). -/
def State.reroute (s : State) (p : Nat) (e : Word) : Word :=
  let dies := (upFrom 0 4).filter fun d => field e (8 * d + 4) (8 * d) == p
  if field e 63 62 ≠ 1 || dies.isEmpty then e
  else if bit e 37 && (s.port (field e 36 32)).up then
    word (dies.foldl (fun n d => putField n (8 * d + 4) (8 * d) (field e 36 32)) e.toNat)
  else word (putField e.toNat 63 62 0)

/-- A packet that has no flit yet follows the new route, or ends with its node (R430, R348). -/
def State.rerouteFlit (s : State) (p : Nat) (f : SentFlit) : State :=
  let node := f.packet.dst
  if s.path node = 1 then
    let q := s.exitPort (p / 8) node
    let move := fun (r : Request) => if r.port = p then { r with port := q } else r
    let s := if f.packet.vc = 2 then
        match Tab.find s.requests f.packet.txid with
        | some r => { s with requests := Tab.put s.requests f.packet.txid (move r) }
        | none => s
      else s
    s.toPort q f.packet f.lid f.count f.senders f.part
  else if f.packet.kind = 1 then (s.flitRetired p f).lose f.lid
  else if f.packet.vc = 2 then s.endRequest f.packet.txid { status := 5 }
  else s

/-- A flit that the partner has not acknowledged is lost: its message is retired, and its launch in error (R430). -/
def State.lostFlit (s : State) (p : Nat) (f : SentFlit) : State :=
  if f.ftype ≠ 1 then s
  else if f.packet.kind = 1 then (s.flitRetired p f).lose f.lid
  else if f.packet.vc = 2 then s.endRequest f.packet.txid { status := 5 }
  else s

/-- A link is declared down (R430). -/
def State.dropLink (s : State) (p : Nat) : State :=
  let x := s.port p
  if !x.up then s
  else
    let s := s.modPort p fun x => { x with
      up := false, training := false, unacked := [], out := [], credits := [], wanted := false, failed := []
      perf := Tab.put x.perf 3 (Tab.get 0 x.perf 3 + 1) }
    let s := { s with routes := s.routes.map fun e => (e.1, s.reroute p e.2) }
    x.out.foldl (fun s f => s.rerouteFlit p f) (x.unacked.foldl (fun s f => s.lostFlit p f) s)

/-- LINK_DOWN: retraining port `n` is not up within 12 µs (R429, R430). -/
def execLinkDown (s : State) : Host.Outcome State Fault Refusal :=
  runEvent (do
    if (s.port s.input.n).training then set (s.dropLink s.input.n) else notNow) s

/-- PRESENCE_LOSS: all ports drop at once (R430, R434). -/
def execPresenceLoss (s : State) : Host.Outcome State Fault Refusal :=
  runEvent (set ((upFrom 0 32).foldl (fun s p => s.dropLink p) s)) s

/-- A node is lost: it is unreachable, and every request toward it ends (R430). -/
def State.loseNode (s : State) (n : Nat) : State :=
  let s := { s with routes := Tab.put s.routes n (word (putField (Tab.get 0 s.routes n).toNat 63 62 0)) }
  let s := (upFrom 0 32).foldl (fun s p =>
    let l := (s.port p).out
    let gone := l.filter fun f => f.packet.dst == n
    if gone.isEmpty then s
    else gone.foldl (fun s f => s.rerouteFlit p f) (s.modPort p fun x => { x with out := l.filter fun f => f.packet.dst != n })) s
  s.endRequests fun _ r => r.query.node == n

/-- LOST_NODE_FLIT: a link-control flit of port `n` names a lost node (R430). -/
def execLostNodeFlit (s : State) : Host.Outcome State Fault Refusal :=
  runEvent (do
    let p := s.input.n
    match (s.port p).lost with
    | [] => notNow
    | n :: rest =>
      let s := s.modPort p fun x => { x with lost := rest }
      if n < 64 && n != s.node then set (s.loseNode n) else set s) s

/-! ## Packets that have come (R425, R428) -/

/-- The flit of the oldest packet of a virtual channel of a port leaves it, if the packet is of the kind. -/
def takeFlit (p vc kind : Nat) : M Flit := do
  let s ← get
  match (s.port p).inbound.find? fun q => q.packet.vc == vc with
  | none => notNow
  | some q =>
    if q.packet.kind = kind then do
      set (s.modPort p fun x => ({ x with inbound := x.inbound.erase q, freed := x.freed ++ [vc] } : Port).pump)
      pure q
    else notNow

/-- The oldest packet of a virtual channel of a port leaves it, if it is of the kind. -/
def takePacket (p vc kind : Nat) : M Packet := do
  let q ← takeFlit p vc kind
  pure q.packet

/-- The local launch ID of a message from another node (R428). -/
def State.importLid (s : State) (node lid : Nat) : Option Nat :=
  (s.imports.find? fun e => bit e.2 63 && field e.2 21 16 == node && field e.2 15 0 == lid).map fun e => field e.2 47 32

/-- The message of a packet, with the source node in NODE (R325). -/
def Packet.message (p : Packet) : Msg :=
  { hdr0 := word (putField (wordOf (p.data.take 8)).toNat 31 26 p.src), hdr1 := wordOf ((p.data.drop 8).take 8)
    payload := wordsOf ((p.len - 16) / 8) (p.data.drop 16) }

/-- A message from another node is accepted on this package, at a router, from a port or an engine (R428, R333); it is
counted under the local launch ID at its destination's die (log 27). One toward a fenced die is treated as retired (R43,
R48). -/
def State.ingress (s : State) (router src : Nat) (p : Packet) (part : Option CopyPart := none) : State :=
  let m := p.message
  let drop := s.modCore router fun x => x.messageError m.hdr1
  if ((s.resolve m.hdr0).map fun k => s.fenced.getLsbD (dieOf k)).getD false then s
  else
  match s.resolve m.hdr0, s.importLid p.src m.lid with
  | none, _ => drop
  | some _, none =>
    if !sinkKind m.kind then drop
    else
      let m := { m with hdr1 := word (putField m.hdr1.toNat 31 16 0) }
      (s.resolve m.hdr0).toList.foldl (fun s k => s.launchFlight
        { msg := m, src, dest := k, counted := false, part, place := if m.kind = 4 && k != router then router else 4096 }) s
  | some k, some lid =>
    let m := { m with hdr1 := word (putField m.hdr1.toNat 31 16 lid) }
    let s := if s.live lid then s.countDie (dieOf k) lid m.weight else s
    s.launchFlight { msg := m, src, dest := k, counted := s.live lid, part
                     place := if m.kind = 4 && k != router then router else 4096 }

/-- MSG: the oldest message packet of port `n`, of the HI channel with the flag, is accepted (R428). -/
def execMsg (s : State) : Host.Outcome State Fault Refusal :=
  runEvent (do
    let p := s.input.n
    let q ← takeFlit p (if s.input.flag then 0 else 1) 1
    modify fun s => s.ingress (portRouter p) (4100 + p) q.packet q.part) s

/-- The translator of an ingress MMU: a leaf that leads to another node is a walk error there, whatever the access (R379). -/
def ingressMmu (d asid : Nat) : Translator := fun va a => do
  match ← dieMmu d asid va .any with
  | .ok (.node _) => pure (.error 2)
  | _ => dieMmu d asid va a

/-- The ingress MMU translates `n` bytes of a request (R379): the places, or the STATUS of a failure. -/
def ingressRefs (d asid va n : Nat) (acc : Access) : M (Except Nat (List Nat)) := do
  let (refs, err) ← spanRefs (ingressMmu d asid) acc none n va
  match err with
  | some e => pure (.error (e.2 + 1))
  | none =>
    let pas := refPas refs
    pure (if pas.length = refs.length then .ok pas else .error 3)

/-- The bytes' stacks are ready. -/
def awaitStacks (pas : List Nat) : M Unit := do
  let s ← get
  match pas.find? s.stackWaits with
  | some pa => pause (.stack (stackOf pa))
  | none => pure ()

/-- VA of a request. -/
def Packet.va (p : Packet) : Nat := field p.word1 55 0

/-- A response to a request. -/
def Packet.response (q : Packet) (kind status : Nat) (data : List Byte) : Packet :=
  { kind, txid := q.txid, dst := q.src, len := data.length, word1 := word status, data }

/-- LDREQ: the oldest request of port `n`, a load, is answered with data (R425). -/
def execLdreq (s : State) : Host.Outcome State Fault Refusal :=
  runEvent (do
    let p := s.input.n
    let q ← takePacket p 2 0x10
    match ← ingressRefs (p / 8) q.asid q.va q.len .read with
    | .error st => modify fun s => s.respond p (q.response 0x20 st [])
    | .ok pas => do
      awaitStacks pas
      modify fun s =>
        let bad := pas.any s.badByte
        (s.touchAll true pas).respond p (q.response 0x20 (if bad then 4 else 0) (pas.map s.hbmByte))) s

/-- STREQ: the oldest request of port `n`, a store, is confirmed, and performed at its home (R425, R235). -/
def execStreq (s : State) : Host.Outcome State Fault Refusal :=
  runEvent (do
    let p := s.input.n
    let q ← takePacket p 2 0x11
    match ← ingressRefs (p / 8) q.asid q.va (max 1 q.len) .write with
    | .error st => modify fun s => s.respond p (q.response 0x21 st [])
    | .ok pas => do
      awaitStacks pas
      modify fun s =>
        let s := s.respond p (q.response 0x21 0 [])
        let lost := pas.any fun pa => s.failedStacks.contains (stackOf pa)
        if q.len = 0 then s
        else (s.writeHbm (pas.zip q.data)).respond p (q.response 0x22 (if lost then 4 else 0) [])) s

/-- AMOREQ: the oldest request of port `n`, an atomic, goes to its home engine (R425, R242). A refusal carries eight bytes
as every answer does (log 97). The packet names no class, and the request is served in the LO class (log 108). -/
def execAmoreq (s : State) : Host.Outcome State Fault Refusal :=
  runEvent (do
    let p := s.input.n
    let q ← takePacket p 2 0x12
    let op := field q.word1 59 56
    match ← ingressRefs (p / 8) q.asid q.va (atomicWidth op) .both with
    | .error st => modify fun s => s.respond p (q.response 0x23 st (errorBytes 8))
    | .ok pas => do
      awaitStacks pas
      let pa := pas.headD 0
      let (d, c) := engineOf pa
      let r : AtomicReq :=
        { port := 32, hi := false, pa, op, b := wordOf (q.data.take 8), x := wordOf (q.data.drop 8)
          core := 0, ctx := 15, id := 0, node := some q.src, txid := q.txid, exit := p, asid := q.asid, va := q.va }
      modify fun s => s.modDie d fun y =>
        let e := Tab.get {} y.atomics c
        { y with atomics := Tab.put y.atomics c { e with queue := e.queue ++ [r] } }) s

/-- LOCKREQ: the oldest request of port `n`, an `acq` or `rel`, goes to its home engine (R425, R256). The packet does not
carry the core's short ID (log 34). -/
def execLockreq (s : State) : Host.Outcome State Fault Refusal :=
  runEvent (do
    let p := s.input.n
    let q ← takePacket p 2 0x13
    let va := q.va / 8 * 8
    match ← ingressRefs (p / 8) q.asid va 8 .both with
    | .error st => modify fun s => s.respond p (q.response 0x24 st [])
    | .ok pas => do
      awaitStacks pas
      let r : LockReq :=
        { release := bit q.word1 56, shared := bit q.word1 0, pa := pas.headD 0, core := (Config.remoteHolder q.src).toNat
          ctx := 15, node := some q.src, txid := q.txid, port := p, asid := q.asid, va }
      modify fun s => { s with locks := s.locks ++ [r] }) s

/-! ## Responses -/

/-- STATUS of a response. -/
def Packet.status (p : Packet) : Nat := field p.word1 7 0

/-- The request is the fetch of a matrix operand row (R316). -/
def State.fetches (s : State) (r : Request) : Bool :=
  match r.owner, r.query.ask with
  | .ctx k c, .load _ => (s.ctx k c).state = .saving || (s.core k).matrix.any fun e => e.ctx == c && !e.fetched
  | .matrix _ _ _, .load _ => true
  | _, _ => false

/-- A response of a kind comes by port `n`; one to a request that has ended is discarded (R427). -/
def response (kind : Nat) (mine : State → Request → Bool) (body : State → Packet → Request → State) (s : State) :
    Host.Outcome State Fault Refusal :=
  runEvent (do
    let q ← takePacket s.input.n 3 kind
    let s ← get
    match Tab.find s.requests q.txid with
    | none => pure ()
    | some r => if mine s r then set (body s q r) else notNow) s

/-- LDRSP: the data of a load (R425), but for matrix operands. -/
def execLdrsp (s : State) : Host.Outcome State Fault Refusal :=
  response 0x20 (fun s r => !s.fetches r)
    (fun s q _ => s.endRequest q.txid { status := q.status, data := q.data }) s

/-- MATRIX_FETCH_REPLY: the data of a matrix operand row (R316, R189). -/
def execMatrixFetchReply (s : State) : Host.Outcome State Fault Refusal :=
  response 0x20 (fun s r => s.fetches r)
    (fun s q _ => s.endRequest q.txid { status := q.status, data := q.data }) s

/-- STXLT: the translation of a store is confirmed, or has failed (R236, R425). A confirmation without data ends its
request; a store that is answered when it is performed goes on. -/
def execStxlt (s : State) : Host.Outcome State Fault Refusal :=
  response 0x21 (fun _ _ => true)
    (fun s q r =>
      if q.status ≠ 0 || r.query.ask = .confirm then s.endRequest q.txid { status := q.status }
      else if r.late then s
      else
        let s := if r.expects && !r.translated then
            { s with answers := s.answers ++ [(r.owner, r.query, { status := 0 })] }
          else s
        { s with requests := Tab.put s.requests q.txid { r with translated := true } }) s

/-- STDONE: a store has been performed at its home (R252, R425). -/
def execStdone (s : State) : Host.Outcome State Fault Refusal :=
  response 0x22 (fun _ _ => true) (fun s q _ => s.endRequest q.txid { status := q.status }) s

/-- AMORSP: the old value of an atomic (R425). -/
def execAmorsp (s : State) : Host.Outcome State Fault Refusal :=
  response 0x23 (fun _ _ => true) (fun s q _ => s.endRequest q.txid { status := q.status, data := q.data }) s

/-- LOCKRSP: a lock is granted or released; without bit 8 the request was in error (R257, R425). -/
def execLockrsp (s : State) : Host.Outcome State Fault Refusal :=
  response 0x24 (fun _ _ => true)
    (fun s q r =>
      let s' := s.endRequest q.txid { status := q.status, data := if bit q.word1 8 then [1] else [] }
      if q.status = 0 && bit q.word1 8 && r.owner = .gone then s'.giveBack r.port r.query else s') s

/-- ERR: a request ends with an error (R425, R426). -/
def execErr (s : State) : Host.Outcome State Fault Refusal :=
  response 0x2F (fun _ _ => true) (fun s q _ => s.endRequest q.txid { status := q.status }) s

/-- REQUEST_TIMEOUT: request `n` has had no response within 2 ms (R427). -/
def execRequestTimeout (s : State) : Host.Outcome State Fault Refusal :=
  runEvent (do
    if (Tab.find s.requests s.input.n).isNone then notNow
    else set (s.endRequest s.input.n { status := 5 })) s

end Sys2Proof.Machine
end

