-- ==== Sys2Proof/Machine/Ethernet.lean ====
section
/-! DEFINITION. The network engines (R362 to R365, R398, R431, R440 to R445) and the messages tunnelled through them
(R333). -/

namespace Sys2Proof.Machine

/-! ## Work requests (R362 to R364) -/

/-- OP of a request's word 0. -/
def ueOp (w0 : Word) : Nat := field w0 3 0
/-- MODE of a request's word 0. -/
def ueMode (w0 : Word) : Nat := field w0 5 4
/-- PEER of a request's word 0. -/
def uePeer (w0 : Word) : Nat := field w0 19 8
/-- CNT of a request's word 0. -/
def ueCnt (w0 : Word) : Nat := field w0 31 24
/-- LEN of a request's word 0. -/
def ueLen (w0 : Word) : Nat := field w0 63 32

/-- Word 0 keeps R362. -/
def ueWordOk (w0 : Word) : Bool :=
  decide (1 ≤ ueLen w0 ∧ ueLen w0 ≤ 2 ^ 31) && zeroBits w0 23 20 && zeroBits w0 7 6 && decide (ueOp w0 ≤ 3) &&
  decide (ueMode w0 ≤ 1) && (ueOp w0 != 3 || ueMode w0 == 0)

/-- An image keeps R362. -/
def ueImageOk (ws : List Word) : Bool :=
  let w0 := ws.getD 0 0
  ueWordOk w0 && zeroBits (ws.getD 1 0) 63 56 && (ueOp w0 == 1 || ueOp w0 == 2 || ws.getD 2 0 == 0) &&
  (ws.drop 3).all (· == 0)

/-- A 64-byte aligned local tile address (R362). -/
def ueSpot (a : Word) : Bool := localTile a && a.toNat % 64 == 0

/-- Words stored one after the other. -/
def storeWords (a : Word) : List Word → M Unit
  | [] => pure ()
  | w :: ws => do
    storeBytes a (bytesOf 8 w.toNat)
    storeWords (a + 8) ws

/-- `uew.build` (R363). -/
def execUewBuild (rd ra rb : BitVec 6) (s : State) : Host.Outcome State Fault Refusal :=
  runM (do
    let v ← readS rd
    let a ← readS ra
    let w0 ← readS rb
    require (ueSpot a) a
    require (ueWordOk w0 && zeroBits v 63 56)
    storeWords a [w0, v, 0, 0, 0, 0, 0, 0]
    retire) s

/-- The state with an engine changed. -/
def State.modEngine (s : State) (d : Nat) (f : Engine → Engine) : State :=
  s.modDie d fun y => { y with engine := f y.engine }

/-- The numbers of a peer. -/
def Engine.peer (e : Engine) (p : Nat) : UePeer := Tab.get {} e.nums p

/-- The engine with a peer's numbers changed. -/
def Engine.modPeer (e : Engine) (p : Nat) (f : UePeer → UePeer) : Engine := { e with nums := Tab.put e.nums p (f (e.peer p)) }

/-- A message number of the peer has been assigned to a RECV (R441). Numbers count modulo 2^32: one up to 2^31 behind the
lowest free number is of the past, any other is still to come (log 109). -/
def UePeer.isAssigned (u : UePeer) (m : Nat) : Bool :=
  decide (2 ^ 31 ≤ (m + 2 ^ 32 - u.freeMsg) % 2 ^ 32) || u.assigned.contains m

/-- The lowest free number passes the numbers that have been assigned. -/
def UePeer.passAssigned (u : UePeer) : Nat → UePeer
  | 0 => u
  | n + 1 =>
    if u.assigned.contains u.freeMsg then
      ({ u with assigned := u.assigned.filter (· != u.freeMsg), freeMsg := (u.freeMsg + 1) % 2 ^ 32 } : UePeer).passAssigned n
    else u

/-- Message numbers have been assigned to RECVs (R441). -/
def UePeer.assign (u : UePeer) (ms : List Nat) : UePeer :=
  ({ u with assigned := ms ++ u.assigned } : UePeer).passAssigned (ms.length + u.assigned.length)

/-- A message number of a peer is assigned to the RECV (R441). -/
def Engine.assign (e : Engine) (p m num : Nat) : Engine :=
  let e := e.modPeer p fun u => u.assign [m]
  { e with recvQ := e.recvQ.map fun q => if q.num = num then { q with message := some (p, m) } else q }

/-- A request enters its queue (R364, R441, R445). -/
def Engine.enter (e : Engine) (ws : List Word) (asid : Nat) : Engine :=
  let w0 := ws.getD 0 0
  let w2 := ws.getD 2 0
  let p := uePeer w0
  let q := fun (num : Nat) (m : Option (Nat × Nat)) =>
    ({ num, w0, va := (ws.getD 1 0).toNat, key := field w2 63 48, offset := field w2 47 0, asid, message := m } : UeRequest)
  if ueOp w0 = 3 then
    let e := { e with recvQ := e.recvQ ++ [q e.recvNum none], recvNum := (e.recvNum + 1) % 2 ^ 32 }
    if p = 0xFFF then e else e.assign p (e.peer p).freeMsg ((e.recvNum + 2 ^ 32 - 1) % 2 ^ 32)
  else
    let m := if ueOp w0 = 0 then (e.peer p).txMsg else e.sendNum
    let e := { e with sendQ := e.sendQ ++ [q e.sendNum (some (p, m))], sendNum := (e.sendNum + 1) % 2 ^ 32 }
    if ueOp w0 = 0 then e.modPeer p fun u => { u with txMsg := (u.txMsg + 1) % 2 ^ 32 } else e

/-- `uew.post` (R364). -/
def execUewPost (rd ra : BitVec 6) (s : State) : Host.Outcome State Fault Refusal :=
  runM (do
    let old ← myCtx
    let (k, _) ← here
    let asid ← myAsid
    let a ← readS ra
    require (ueSpot a) a
    let bs ← readBytes 64 a
    let ws := wordsOf 8 bs
    require (ueImageOk ws) a
    let d := dieOf k
    let recv := ueOp (ws.getD 0 0) == 3
    waitUntil (.engine d recv)
    afterWrites old (do
      let s ← get
      let e := (s.die d).engine
      set (s.modEngine d fun e => e.enter ws asid)
      writeS rd (word (if recv then e.recvNum else e.sendNum))
      retire)) s

/-! ## Completion (R365, R398) -/

/-- A request is done: its counter rises by 1, and ERR too with an error completion; what is in flight of it goes no
further. -/
def Engine.finish (e : Engine) (recv error : Bool) (q : UeRequest) : Engine :=
  let v := (Tab.get 0 e.counters (ueCnt q.w0)).toNat
  let v := putField v 47 0 (v % 2 ^ 48 + 1)
  let v := if error then putField v 63 48 (min (v / 2 ^ 48 + 1) 0xFFFF) else v
  { e with
    counters := Tab.put e.counters (ueCnt q.w0) (word v)
    perf := if error then Tab.put e.perf 5 (Tab.get 0 e.perf 5 + 1) else e.perf
    recvQ := if recv then e.recvQ.filter fun r => r.num != q.num else e.recvQ
    sendQ := if recv then e.sendQ else e.sendQ.filter fun r => r.num != q.num
    flights := if recv then e.flights else e.flights.filter fun f =>
      !(f.request == q.num && f.packet.kind != .tunnel && f.packet.kind != .readData) }

/-- A performance counter of the engine rises (R415, group 4). -/
def Engine.bump (e : Engine) (i : Nat) : Engine := { e with perf := Tab.put e.perf i (Tab.get 0 e.perf i + 1) }

/-- The peer entry allows the request (R431). -/
def Engine.allows (e : Engine) (q : UeRequest) : Bool :=
  e.peerValid (uePeer q.w0) && field ((Tab.get [] e.peers (uePeer q.w0)).getD 6 0) 17 16 == ueMode q.w0

/-- What an engine transfers for: the data of a request it sends, a packet it places, a READ it answers. -/
inductive UeJob where
  | send (num : Nat)
  | place (peer psn : Nat)
  | answer (peer message : Nat)
  deriving DecidableEq, Repr

/-- The owner of the requests to other nodes that a job makes. -/
def UeJob.owner (j : UeJob) (d : Nat) : Owner :=
  match j with
  | .send num => .engine d (4 * num)
  | .place peer psn => .engine d (4 * (peer * 2 ^ 32 + psn) + 1)
  | .answer peer message => .engine d (4 * (peer * 2 ^ 32 + message) + 2)

/-- A job is done: what it asked of other nodes is forgotten. -/
def State.endJob (s : State) (d : Nat) (j : UeJob) : State := s.abandon (j.owner d)

/-- The data that an engine reads; none where a translation fails, here or on another node. -/
def engineRead (d : Nat) (j : UeJob) (asid va n : Nat) : M (Option (List Byte)) := do
  let s ← get
  match ← spanRead (dieMmu d asid) (j.owner d) asid s.hbmByte n va with
  | .ok (bs, _) => pure (some bs)
  | .error _ => pure none

/-- The request `q` hands a packet to the port; that a READ has asked counts as one byte sent. -/
def Engine.hand (e : Engine) (q : UeRequest) (p : UePacket) : Engine :=
  let psn := (e.peer (uePeer q.w0)).txPsn
  let e := e.emit (uePeer q.w0) q.num { p with ordered := ueMode q.w0 == 1 }
  { e with sendQ := e.sendQ.map fun r =>
      if r.num = q.num then { r with sent := r.sent + max 1 p.data.length, psns := r.psns ++ [psn] } else r }

/-- Earlier requests of the queue toward the same peer have handed over all their packets. -/
def Engine.turnOf (e : Engine) (q : UeRequest) : Bool :=
  (e.sendQ.takeWhile fun r => r.num != q.num).all fun r =>
    uePeer r.w0 != uePeer q.w0 || decide ((if ueOp r.w0 = 2 then 1 else ueLen r.w0) ≤ r.sent)

/-- An engine takes up entry `n` of its send queue, if it has the operation (R431). -/
def takeUp (op : Nat) (body : Nat → UeRequest → M Unit) (s : State) : Host.Outcome State Fault Refusal :=
  runEvent (do
    let d := s.input.die
    let e := (s.die d).engine
    match e.sendQ[s.input.n]? with
    | none => notNow
    | some q =>
      if ueOp q.w0 ≠ op || !s.ready.getLsbD (44 + d) || !e.turnOf q then notNow
      else if e.allows q then body d q
      else set (s.modEngine d fun e => e.finish false true q)) s

/-- The next data packet of a SEND or WRITE (R431): up to 4,096 bytes of the local buffer. -/
def sendData (kind : UeKind) (d : Nat) (q : UeRequest) : M Unit := do
  let n := min 4096 (ueLen q.w0 - q.sent)
  if n = 0 then notNow
  else
    match ← engineRead d (.send q.num) q.asid (q.va + q.sent) n with
    | none => modify fun s => (s.endJob d (.send q.num)).modEngine d fun e => e.finish false true q
    | some bs =>
      let p : UePacket :=
        { kind, message := (q.message.map (·.2)).getD 0, key := q.key
          offset := (if kind = .write then q.offset else 0) + q.sent, base := if kind = .write then q.offset else 0
          total := ueLen q.w0, data := bs }
      modify fun s => (s.endJob d (.send q.num)).modEngine d fun e => e.hand q p

/-- UE_SEND: the next packet of SEND `n` of a die's engine (R365, R431). -/
def execUeSend (s : State) : Host.Outcome State Fault Refusal := takeUp 0 (sendData .send) s

/-- UE_WRITE: the next packet of WRITE `n` (R365, R431). -/
def execUeWrite (s : State) : Host.Outcome State Fault Refusal := takeUp 1 (sendData .write) s

/-- The PSNs received above the cumulative value, as the bitmap of R440. -/
def UePeer.bitmap (u : UePeer) : BitVec 64 :=
  BitVec.ofNat 64 (((upFrom 0 64).filter fun i => u.rxAbove.contains ((u.rxPsn + 1 + i) % 2 ^ 32)).foldl
    (fun n i => n + 2 ^ i) 0)

/-- The engine acknowledges, and names the PSNs whose requests it has refused (R440, R431, log 38). -/
def Engine.acknowledge (e : Engine) (p : Nat) : Engine :=
  let u := e.peer p
  { e with acks := e.acks ++ [{ peer := p, cumulative := u.rxPsn, bitmap := u.bitmap, refused := u.refused }] }

/-- The request of a packet is refused (R431, R442). -/
def Engine.refuse (e : Engine) (p psn : Nat) : Engine := e.modPeer p fun u => { u with refused := u.refused ++ [psn] }

/-- A peer's READ is answered with its next data packet, in the delivery mode of its request; one whose data cannot be
reached is refused (R431). -/
def answerRead (d n : Nat) : M Unit := do
  let s ← get
  match (s.die d).engine.reads[n]? with
  | none => notNow
  | some r =>
    let k := min 4096 (r.total - r.sent)
    let j : UeJob := .answer r.peer r.message
    match ← engineRead d j r.asid (r.va + r.sent) k with
    | none => modify fun s => (s.endJob d j).modEngine d fun e =>
      (({ e with reads := dropNth e.reads n } : Engine).refuse r.peer r.psn).acknowledge r.peer
    | some bs => modify fun s => (s.endJob d j).modEngine d fun e =>
      let e := e.emit r.peer 0
        { kind := .readData, message := r.message, offset := r.sent, total := r.total, data := bs, ordered := r.ordered }
      let r := { r with sent := r.sent + k }
      { e with reads := if r.total ≤ r.sent then dropNth e.reads n else changeNth (fun _ => r) e.reads n }

/-- UE_READ: READ `n` asks its peer; with the flag, the engine answers READ `n` of a peer (R365, R431). -/
def execUeRead (s : State) : Host.Outcome State Fault Refusal :=
  if s.input.flag then runEvent (answerRead s.input.die s.input.n) s
  else takeUp 2 (fun d q =>
    let p : UePacket :=
      { kind := .readRequest, message := q.num, key := q.key, offset := q.offset, total := ueLen q.w0 }
    if 0 < q.sent then notNow else modify fun s => s.modEngine d fun e => e.hand q p) s

/-- UE_RECV: RECV `n` is complete, or names a peer that is not valid (R365, R431, R442). -/
def execUeRecv (s : State) : Host.Outcome State Fault Refusal :=
  runEvent (do
    let d := s.input.die
    let e := (s.die d).engine
    match e.recvQ[s.input.n]? with
    | none => notNow
    | some q =>
      let whole := match q.total with
        | some t => decide (t ≤ q.placed)
        | none => false
      if whole then set (s.modEngine d fun e => e.finish true false q)
      else if uePeer q.w0 != 0xFFF && !e.peerValid (uePeer q.w0) then
        set (s.modEngine d fun e => e.finish true true q)
      else notNow) s

/-! ## Data packets (R440 to R443) -/

/-- The valid peer entry that a packet comes from: the lowest with its address and endpoint (R431). -/
def Engine.sender (e : Engine) (p : UePacket) : Option Nat :=
  (e.peers.find? fun w => e.peerValid w.1 && (w.2.getD 3 0).setWidth 48 == p.mac &&
    w.2.getD 5 0 ++ w.2.getD 4 0 == p.ip && field (w.2.getD 6 0) 15 0 == p.endpoint).map (·.1)

/-- How far a PSN lies ahead of the cumulative value, modulo 2^32. -/
def UePeer.ahead (u : UePeer) (psn : Nat) : Nat := (psn + 2 ^ 32 - u.rxPsn) % 2 ^ 32

/-- The PSN has been accepted. -/
def UePeer.has (u : UePeer) (psn : Nat) : Bool := decide (2 ^ 31 ≤ u.ahead psn) || u.rxAbove.contains psn

/-- The cumulative value passes the PSNs received. -/
def UePeer.settle (u : UePeer) : Nat → UePeer
  | 0 => u
  | n + 1 =>
    if u.rxAbove.contains u.rxPsn then
      ({ u with rxAbove := u.rxAbove.filter (· != u.rxPsn), rxPsn := (u.rxPsn + 1) % 2 ^ 32 } : UePeer).settle n
    else u

/-- A PSN is accepted (R440). Refused PSNs that are no longer of the past 2^31 stand for packets to come, and are
forgotten (log 109). -/
def UePeer.take (u : UePeer) (psn : Nat) : UePeer :=
  let u := ({ u with rxAbove := psn :: u.rxAbove } : UePeer).settle (u.rxAbove.length + 1)
  { u with refused := u.refused.filter u.has }

/-- The key entry gives the ASID and address of a range that it allows: R in bit 17, W in bit 16 of word 3 (R431, log
38). -/
def Engine.keyRange (e : Engine) (key offset len : Nat) (write : Bool) : Option (Nat × Nat) :=
  let ws := Tab.get [] e.keys key
  let w3 := ws.getD 3 0
  if bit w3 63 && bit w3 (if write then 16 else 17) && decide (offset + len ≤ (ws.getD 5 0).toNat) then
    some (field w3 12 0, (ws.getD 4 0).toNat + offset)
  else none

/-- What became of an accepted packet: placed, refused, or dropped without an acknowledgement. -/
inductive Placing where
  | placed
  | refused
  | dropped
  deriving DecidableEq, Repr

/-- Bytes are written under an ASID; false where the translation fails, here or on another node, or a node has not
performed its part (R364, R365). -/
def engineWrite (d : Nat) (j : UeJob) (asid va : Nat) (bs : List Byte) : M Bool := do
  match ← spanWrite (dieMmu d asid) (j.owner d) asid va bs with
  | .ok status => pure (status == 0)
  | .error _ => pure false

/-- The RECV that a SEND's packet is matched to; an any-peer RECV is assigned where none has been (R441). -/
def Engine.matchRecv (e : Engine) (peer m : Nat) : Engine × Option UeRequest :=
  match e.recvQ.find? fun q => q.message == some (peer, m) with
  | some q => (e, some q)
  | none =>
    if (e.peer peer).isAssigned m then (e, none)
    else
      match e.recvQ.find? fun q => q.message.isNone with
      | none => (e, none)
      | some q => (e.assign peer m q.num, some q)

/-- A packet of a SEND (R442). One whose RECV has ended with an error places nothing. -/
def placeSend (d peer : Nat) (p : UePacket) : M Placing := do
  let s ← get
  match ((s.die d).engine).matchRecv peer p.message with
  | (e, none) => pure (if (e.peer peer).isAssigned p.message then .placed else .dropped)
  | (e, some q) => do
    set (s.modEngine d fun _ => e)
    if ueLen q.w0 < p.total then do
      modify fun s => s.modEngine d fun e => e.finish true true q
      pure .refused
    else if ← engineWrite d (.place peer p.psn) q.asid (q.va + p.offset) p.data then do
      modify fun s => s.modEngine d fun e => { e with recvQ := e.recvQ.map fun r =>
        if r.num = q.num then { r with placed := r.placed + p.data.length, total := some p.total } else r }
      pure .placed
    else do
      modify fun s => s.modEngine d fun e => e.finish true true q
      pure .placed

/-- A packet of a WRITE; the whole range of the WRITE must lie in the key (R431). -/
def placeWrite (d peer : Nat) (p : UePacket) : M Placing := do
  let s ← get
  match ((s.die d).engine).keyRange p.key p.base p.total true with
  | none => pure .refused
  | some (asid, va) => do
    let ok ← engineWrite d (.place peer p.psn) asid (va + (p.offset - p.base)) p.data
    pure (if ok then .placed else .refused)

/-- A READ of a peer (R431). -/
def takeRead (d peer : Nat) (p : UePacket) : M Placing := do
  let s ← get
  match ((s.die d).engine).keyRange p.key p.offset p.total false with
  | none => pure .refused
  | some (asid, va) => do
    modify fun s => s.modEngine d fun e =>
      { e with reads := e.reads ++
        [{ peer, message := p.message, psn := p.psn, ordered := p.ordered, asid, va, total := p.total }] }
    pure .placed

/-- Data of a READ (R365). -/
def placeRead (d peer : Nat) (p : UePacket) : M Placing := do
  let s ← get
  match ((s.die d).engine).sendQ.find? fun q => ueOp q.w0 == 2 && uePeer q.w0 == peer && q.num == p.message with
  | none => pure .placed
  | some q =>
    if ← engineWrite d (.place peer p.psn) q.asid (q.va + p.offset) p.data then do
      let q := { q with placed := q.placed + p.data.length }
      modify fun s => s.modEngine d fun e =>
        if ueLen q.w0 ≤ q.placed then e.finish false false q
        else { e with sendQ := e.sendQ.map fun r => if r.num = q.num then q else r }
      pure .placed
    else do
      modify fun s => s.modEngine d fun e => e.finish false true q
      pure .placed

/-- A tunnelled message is accepted on this package; its source is the node of the peer's number (R333, log 15). -/
def takeTunnel (d peer : Nat) (p : UePacket) : M Placing := do
  modify fun s => s.ingress (siteKey d 16 16) (4132 + d)
    { kind := 1, dst := s.node, src := peer, len := p.data.length, data := p.data } p.part
  pure .placed

/-- A packet that the transport cannot have formed: above 4,096 bytes, or outside its message. -/
def UePacket.wellFormed (p : UePacket) : Bool :=
  decide (p.data.length ≤ 4096) && decide (p.psn < 2 ^ 32) &&
  match p.kind with
  | .send => decide (p.offset + p.data.length ≤ p.total)
  | .write => decide (p.base ≤ p.offset ∧ p.offset + p.data.length ≤ p.base + p.total)
  | .tunnel => decide (16 ≤ p.data.length ∧ p.data.length ≤ 220)
  | _ => true

/-- UE_DATA_PACKET: a data packet comes to a die's engine (R440 to R443). An ordered packet out of its turn is dropped, and
as the first packet of its message it still assigns an any-peer RECV (R441). -/
def execUeDataPacket (s : State) : Host.Outcome State Fault Refusal :=
  runEvent (do
    let d := s.input.die
    let p := s.input.uePacket
    let e := (s.die d).engine
    if 4 ≤ d || !p.wellFormed then notNow
    else
      match e.sender p with
      | none => set (s.modEngine d fun e => e.bump 6)
      | some peer =>
        let u := e.peer peer
        let above := 0 < u.ahead p.psn && u.ahead p.psn < 2 ^ 31
        let e := if above then (e.bump 1).bump 3 else e.bump 1
        if u.has p.psn then set (s.modEngine d fun _ => (e.bump 4).acknowledge peer)
        else if p.ordered && above then
          set (s.modEngine d fun _ => if p.kind = .send then (e.matchRecv peer p.message).1 else e)
        else do
          set (s.modEngine d fun _ => e)
          let what ← match p.kind with
            | .send => placeSend d peer p
            | .write => placeWrite d peer p
            | .readRequest => takeRead d peer p
            | .readData => placeRead d peer p
            | .tunnel => takeTunnel d peer p
          modify fun s => s.endJob d (.place peer p.psn)
          if what = .dropped then pure ()
          else modify fun s => s.modEngine d fun e =>
            let e := if what = .refused then e.refuse peer p.psn else e
            (e.modPeer peer fun u => u.take p.psn).acknowledge peer) s

/-! ## Acknowledgements and retransmission (R431, R440) -/

/-- An acknowledgement covers a PSN. -/
def UeAck.covers (a : UeAck) (psn : Nat) : Bool :=
  let back := (a.cumulative + 2 ^ 32 - psn) % 2 ^ 32
  let i := (psn + 2 ^ 32 - a.cumulative) % 2 ^ 32
  decide (1 ≤ back ∧ back < 2 ^ 31) || (decide (1 ≤ i ∧ i ≤ 64) && a.bitmap.getLsbD (i - 1))

/-- The flights in the order of their transmission, without the acknowledged ones; each of the others counts those
behind it. -/
def ackFlights (peer : Nat) (a : UeAck) : List UeFlight → List UeFlight
  | [] => []
  | f :: fs =>
    if f.peer = peer && a.covers f.psn then ackFlights peer a fs
    else
      let n := if f.peer = peer then (fs.filter fun g => g.peer == peer && a.covers g.psn).length else 0
      { f with passed := f.passed + n } :: ackFlights peer a fs

/-- A packet is sent once more, with its PSN (R440). -/
def Engine.resend (e : Engine) (f : UeFlight) : Engine :=
  let e := (e.bump 0).bump 2
  { e with packets := e.packets ++ [f.packet]
           flights := (e.flights.filter fun g => !(g.peer == f.peer && g.psn == f.psn)) ++
             [{ f with tries := f.tries + 1, passed := 0 }] }

/-- The request of a flight. -/
def Engine.requestOf (e : Engine) (f : UeFlight) : Option UeRequest :=
  if f.packet.kind = .tunnel || f.packet.kind = .readData then none
  else e.sendQ.find? fun q => q.num == f.request

/-- The request of a flight ends with an error completion. -/
def Engine.fail (e : Engine) (f : UeFlight) : Engine :=
  match e.requestOf f with
  | some q => e.finish false true q
  | none => e

/-- Requests whose packets have all been acknowledged complete, but for READ (R365). -/
def Engine.settle (e : Engine) : Engine :=
  (e.sendQ.filter fun q => ueOp q.w0 != 2 && decide (ueLen q.w0 ≤ q.sent) && q.psns.isEmpty).foldl
    (fun e q => e.finish false false q) e

/-- The engine without what an acknowledgement covers; a packet that three later ones have passed is sent again. A READ
keeps its PSN, by which the peer may refuse it until its data are all here. -/
def Engine.take (e : Engine) (a : UeAck) : Engine :=
  let settled := fun (q : UeRequest) =>
    if uePeer q.w0 = a.peer && ueOp q.w0 != 2 then { q with psns := q.psns.filter fun psn => !a.covers psn } else q
  let e : Engine := { e with flights := ackFlights a.peer a e.flights, sendQ := e.sendQ.map settled }
  let late := e.flights.filter fun f => f.peer == a.peer && decide (3 ≤ f.passed ∧ f.tries < 8)
  late.foldl Engine.resend e.settle

/-- A request that a peer has refused ends with an error completion (R431, R442). -/
def Engine.refused (e : Engine) (peer psn : Nat) : Engine :=
  match e.sendQ.find? fun q => uePeer q.w0 == peer && q.psns.contains psn with
  | some q => e.finish false true q
  | none => e

/-- UE_ACKNOWLEDGEMENT: a control packet comes to a die's engine (R431, R440, R442). -/
def execUeAcknowledgement (s : State) : Host.Outcome State Fault Refusal :=
  runEvent (do
    let d := s.input.die
    let a := s.input.ueAck
    let e := (s.die d).engine
    if 4 ≤ d || !e.peerValid a.peer then notNow
    else
      set (s.modEngine d fun _ => (a.refused.foldl (fun e psn => e.refused a.peer psn) e).take a)) s

/-- The launch of a tunnelled message. -/
def UePacket.lid (p : UePacket) : Nat := field (wordOf ((p.data.drop 8).take 8)) 31 16

/-- UE_RETRANSMIT_TIMEOUT: the timeout of PSN `m` toward peer `n` runs out: the packet is sent again, or after the eighth
try its request ends; a tunnelled message is then lost (R431, R34). -/
def execUeRetransmitTimeout (s : State) : Host.Outcome State Fault Refusal :=
  runEvent (do
    let d := s.input.die
    let e := (s.die d).engine
    match e.flights.find? fun f => f.peer == s.input.n && f.psn == s.input.m with
    | none => notNow
    | some f =>
      if f.tries < 8 then set (s.modEngine d fun e => e.resend f)
      else
        let s := s.modEngine d fun e => ({ e with flights := e.flights.filter fun g => !(g.peer == f.peer && g.psn == f.psn) } : Engine).fail f
        set (if f.packet.kind = .tunnel then s.lose f.packet.lid else s)) s

/-! ## The tables (R421, R431) -/

/-- The words of an entry that UESET writes into the peer table: a valid entry starts its numbers anew (R440, R441). -/
def Engine.setPeer (e : Engine) (i : Nat) (ws : List Word) : Engine :=
  let held := e.recvQ.filterMap fun q =>
    match q.message with
    | some (p, m) => if p = i then some m else none
    | none => none
  let e := { e with peers := Tab.put e.peers i ws }
  if bit (ws.getD 7 0) 63 then { e with nums := Tab.put e.nums i (({} : UePeer).assign held) } else e

end Sys2Proof.Machine
end

