-- ==== Sys2Proof/Machine/Mailbox.lean ====
section
/-! DEFINITION. The host link (R416 to R422, R447): the mailbox window and registers, the commands, and the completion
records. -/

namespace Sys2Proof.Machine

/-! ## BAR0 (R417 to R419) -/

/-- The state with the mailbox changed. -/
def State.modMailbox (s : State) (f : Mailbox → Mailbox) : State := { s with mailbox := f s.mailbox }

/-- The mailbox can be reached: die 0 is not fenced (R43). -/
def State.mailboxLives (s : State) : Bool := !s.fenced.getLsbD 0

/-- MBCREDIT (R417): free entries, 0 while the mailbox is not ready. -/
def State.mbCredit (s : State) : Nat := if s.ready.getLsbD 52 then 256 - s.mailbox.commands.length else 0

/-- A read of BAR0 (R417, R419). -/
def State.bar0 (s : State) (offset : Nat) : Word :=
  let m := s.mailbox
  match offset with
  | 0x1000 => word s.mbCredit
  | 0x1008 => word (m.applied.toNat * 2 ^ 32 + (if m.malf then 2 else 0) + (if m.ovf then 1 else 0))
  | 0x1010 => m.cqBase
  | 0x1018 => word m.cqSize
  | 0x1020 => m.cqHead.setWidth 64
  | 0x1028 => s.ready.setWidth 64
  | _ => 0

/-! ## BAR2 (R416, log 88) -/

/-- The device ID (R416). -/
def deviceId : Nat := 0x4032

/-- The offset of the pending-bit array in BAR2 (log 88). -/
def pbaOffset : Nat := 0x2000

/-- A read of BAR2: two words an entry of the MSI-X table, and the pending bits (R416, log 88). -/
def State.bar2 (s : State) (offset : Nat) : Word :=
  let m := s.mailbox
  let e := Tab.get {} m.vectors (offset / 16)
  if offset = pbaOffset then m.pending
  else if 1024 ≤ offset then 0
  else
    match offset % 16 with
    | 0 => e.address
    | 8 => word (e.data.toNat + if e.masked then 2 ^ 32 else 0)
    | _ => 0

/-- A vector is signalled: its message goes to the host, or its pending bit is set while the entry is masked
(R422, log 88). -/
def Mailbox.signal (m : Mailbox) (v : Nat) : Mailbox :=
  let e := Tab.get {} m.vectors v
  if e.masked then { m with pending := m.pending ||| BitVec.ofNat 64 (2 ^ v) }
  else { m with pending := m.pending &&& ~~~(BitVec.ofNat 64 (2 ^ v)), posts := m.posts ++ [.msix v e.address e.data] }

/-- The host writes a word of BAR2; a vector that loses its mask while it is pending is signalled (R416, log 88). The
pending bits are read-only, and writes elsewhere are dropped. -/
def Mailbox.writeBar2 (m : Mailbox) (offset : Nat) (v : Word) : Mailbox :=
  let i := offset / 16
  let e := Tab.get {} m.vectors i
  if 1024 ≤ offset then m
  else
    match offset % 16 with
    | 0 => { m with vectors := Tab.put m.vectors i { e with address := v } }
    | 8 =>
      let m := { m with vectors := Tab.put m.vectors i { e with data := v.setWidth 32, masked := bit v 32 } }
      if m.pending.getLsbD i && !bit v 32 then m.signal i else m
    | _ => m

/-- COMMAND_WINDOW_WRITE: a write of the window, as one 64-byte TLP with the flag (R418). -/
def execCommandWindowWrite (s : State) : Host.Outcome State Fault Refusal :=
  runEvent (do
    if !s.mailboxLives then notNow
    else if !s.input.flag || s.input.words.length ≠ 8 then set (s.modMailbox fun m => { m with malf := true })
    else if s.mbCredit = 0 then set (s.modMailbox fun m => { m with ovf := true })
    else set (s.modMailbox fun m => { m with commands := m.commands ++ [s.input.words] })) s

/-- The ring size that a write of CQSIZE leaves (R417). Bits above 16 of the value are discarded before the value is looked
at (R6, log 99). -/
def ringSize (v : Word) : Nat :=
  let n := field v 16 0
  if (upFrom 6 11).any fun i => n == 2 ^ i then n else 64

/-- HOST_REGISTER_WRITE: the host writes the register at offset `n` of BAR0 (R417, R419), or with the flag of BAR2
(R416). -/
def execHostRegisterWrite (s : State) : Host.Outcome State Fault Refusal :=
  runEvent (do
    let v := s.input.word
    let ring := fun (f : Mailbox → Mailbox) => s.modMailbox fun m =>
      if m.commands.isEmpty then { f m with records := 0 } else { m with malf := true }
    if !s.mailboxLives then notNow
    else if s.input.flag then set (s.modMailbox fun m => m.writeBar2 s.input.n v)
    else
      match s.input.n with
      | 0x1008 => set (s.modMailbox fun m => { m with malf := m.malf && !bit v 1, ovf := m.ovf && !bit v 0 })
      | 0x1010 => set (ring fun m => { m with cqBase := word (v.toNat / 4096 * 4096) })
      | 0x1018 => set (ring fun m => { m with cqSize := ringSize v })
      | 0x1020 => set (s.modMailbox fun m => { m with cqHead := v.setWidth 32 })
      | _ => pure ()) s

/-! ## Commands (R420 to R422) -/

/-- OP of a command. -/
def cmdOp (ws : List Word) : Nat := field (ws.getD 0 0) 7 0

/-- The operations whose record cannot be left out (R420). -/
def alwaysRecorded (op : Nat) : Bool := [0x03, 0x04, 0x05, 0x06, 0x07, 0x08].contains op

/-- The completion of a command. -/
def completionOf (ws : List Word) (status : Nat) (result : Word) : Completion :=
  let w0 := ws.getD 0 0
  { op := cmdOp ws, seq := BitVec.ofNat 32 (field w0 63 32), status, result
    vector := if bit w0 9 then some (field w0 15 10) else none, record := bit w0 8 || alwaysRecorded (cmdOp ws) }

/-- The head command is applied, with a status and a result (R419, R422). -/
def State.applied (s : State) (ws : List Word) (status : Nat) (result : Word) : State :=
  let c := completionOf ws status result
  (s.forget .mailbox).modMailbox fun m => { m with
    commands := m.commands.drop 1, taken := false, latch := .none, applied := m.applied + 1
    done := if c.record || c.vector.isSome then m.done ++ [c] else m.done }

/-- The next record finds room in the ring (R422). -/
def Mailbox.ringRoom (m : Mailbox) : Bool := decide ((BitVec.ofNat 32 m.records - m.cqHead).toNat < m.cqSize)

/-- Words `a` to 7 of a command are zero. -/
def zeroFrom (ws : List Word) (a : Nat) : Bool := (ws.drop a).all (· == 0)

/-- Word 1 holds an ASID and nothing else. -/
def asidWord (ws : List Word) : Bool := zeroBits (ws.getD 1 0) 63 13

/-- ASID of a command. -/
def cmdAsid (ws : List Word) : Nat := field (ws.getD 1 0) 12 0

/-- The engine applies the head command, if it has the operation and `ok` (R420, R422). An operation that R421 does not
list ends as malformed with MAILBOX_NOP. -/
def command (op : Nat) (ok : List Word → Bool) (body : List Word → M Unit) (s : State) :
    Host.Outcome State Fault Refusal :=
  runEvent (do
    match s.mailbox.commands.head? with
    | none => notNow
    | some ws =>
      let listed := 1 ≤ cmdOp ws && cmdOp ws ≤ 0x0C
      if !s.mailboxLives || !s.mailbox.ringRoom || !s.mailbox.done.isEmpty then notNow
      else if op ≠ (if listed then cmdOp ws else 0x0C) then notNow
      else if !listed || !zeroBits (ws.getD 0 0) 31 16 || !ok ws then set (s.applied ws 1 0)
      else body ws) s

/-- The head command is done. -/
def finish (ws : List Word) (status : Nat) (result : Word) : M Unit := modify fun s => s.applied ws status result

/-- The mailbox engine writes device memory in ascending order, once every page has its translation (R421): the status
and the result of the command, when the last part is performed. -/
def mailboxWrite (ws : List Word) (data : List Byte) : M Unit := do
  let asid := cmdAsid ws
  match ← spanConfirm (dieMmu 0 asid) .mailbox asid (ws.getD 2 0).toNat data.length with
  | .error _ => finish ws 2 0
  | .ok refs => do
    needStacks refs
    let s ← get
    let lost := (refPas refs).any fun pa => s.failedStacks.contains (stackOf pa)
    match ← storeAscending .mailbox asid refs data 0 (nodeRuns refs) with
    | none => pure ()
    | some st => finish ws (if st ≠ 0 || lost then 4 else 0) (word data.length)

/-- WRITEI (R421). -/
def execWritei (s : State) : Host.Outcome State Fault Refusal :=
  command 0x01
    (fun ws =>
      let w1 := ws.getD 1 0
      let n := field w1 21 16
      let data := (ws.drop 3).flatMap fun w => bytesOf 8 w.toNat
      zeroBits w1 63 22 && zeroBits w1 15 13 && decide (1 ≤ n ∧ n ≤ 40) && !tileSpace (ws.getD 2 0) &&
      (data.drop n).all (· == 0))
    (fun ws => do
      let n := field (ws.getD 1 0) 21 16
      let data := (ws.drop 3).flatMap fun w => bytesOf 8 w.toNat
      mailboxWrite ws (data.take n)) s

/-- LEN, the ASID and the addresses of WRITED and READ keep R421. -/
def transferOk (ws : List Word) : Bool :=
  asidWord ws && !tileSpace (ws.getD 2 0) && decide (1 ≤ (ws.getD 4 0).toNat ∧ (ws.getD 4 0).toNat ≤ 2 ^ 31) && zeroFrom ws 5

/-- WRITED (R421): the host's bytes come with the flag, and its completion reports a failure without it. -/
def execWrited (s : State) : Host.Outcome State Fault Refusal :=
  command 0x02 transferOk
    (fun ws => do
      let n := (ws.getD 4 0).toNat
      if !s.input.flag then finish ws 3 0
      else if s.input.bytes.length ≠ n then notNow
      else mailboxWrite ws s.input.bytes) s

/-- READ (R421). -/
def execRead (s : State) : Host.Outcome State Fault Refusal :=
  command 0x03 transferOk
    (fun ws => do
      let n := (ws.getD 4 0).toNat
      let s ← get
      match ← spanRead (dieMmu 0 (cmdAsid ws)) .mailbox (cmdAsid ws) s.hbmByte n (ws.getD 2 0).toNat with
      | .error _ => finish ws 2 0
      | .ok (bs, bad) => do
        modify fun s => s.modMailbox fun m => { m with posts := m.posts ++ [.write (ws.getD 3 0).toNat bs] }
        finish ws (if bad then 4 else 0) (word n)) s

/-- The master Derrick is ready. -/
def State.masterFunction (s : State) : Bool := s.ready.getLsbD (48 + s.master.die)

/-- A command that the master answers: its request is made once, and the answer is its result. -/
def askedOfMaster (ws : List Word) (request : M (Except Nat MasterReq)) : M Unit := do
  let s ← get
  match s.mailbox.latch with
  | .answered w => finish ws 0 w
  | _ =>
    if s.mailbox.taken then notNow
    else if !s.masterFunction then finish ws 5 0
    else
      match ← request with
      | .error st => finish ws st 0
      | .ok q => modify fun s => { s with
          mailbox := { s.mailbox with taken := true, latch := .asked }
          master := { s.master with requests := s.master.requests ++ [q] } }

/-- The bytes of a descriptor or image, or the status of a failure. -/
def mailboxRead (asid va n : Nat) : M (Except Nat (List Byte)) := do
  let s ← get
  match ← spanRead (dieMmu 0 asid) .mailbox asid s.hbmByte n va with
  | .error _ => pure (.error 2)
  | .ok (bs, bad) => pure (if bad then .error 4 else .ok bs)

/-- MAILBOX_LAUNCH: LAUNCH (R421, R402). -/
def execMailboxLaunch (s : State) : Host.Outcome State Fault Refusal :=
  command 0x04
    (fun ws => asidWord ws && !tileSpace (ws.getD 2 0) && !tileSpace (ws.getD 3 0) &&
      (ws.getD 2 0).toNat % 64 == 0 && (ws.getD 3 0).toNat % 64 == 0 && zeroFrom ws 4)
    (fun ws => askedOfMaster ws (do
      let asid := cmdAsid ws
      match ← mailboxRead asid (ws.getD 2 0).toNat 128 with
      | .error st => pure (.error st)
      | .ok d =>
        let q : MasterReq := { core := 4096, ctx := 0, mailbox := true, asid, desc := wordsOf 16 d }
        if ws.getD 3 0 = 0 then pure (.ok q)
        else
          match ← mailboxRead asid (ws.getD 3 0).toNat 64 with
          | .error st => pure (.error st)
          | .ok im => pure (.ok { q with image := wordsOf 8 im }))) s

/-- MAILBOX_CANCEL: CANCEL (R421, R404). An item of another ASID reads as unknown to the host. -/
def execMailboxCancel (s : State) : Host.Outcome State Fault Refusal :=
  command 0x05
    (fun ws => asidWord ws && nameOk (ws.getD 2 0) true && decide (2 ≤ nameClass (ws.getD 2 0)) && zeroFrom ws 3)
    (fun ws => askedOfMaster ws (pure (.ok
      { core := 4096, ctx := 0, mailbox := true, asid := cmdAsid ws, cancel := some (ws.getD 2 0) }))) s

/-- QREADY (R421). -/
def execQready (s : State) : Host.Outcome State Fault Refusal :=
  command 0x06 (fun ws => zeroFrom ws 1) (fun ws => finish ws 0 (s.ready.setWidth 64)) s

/-- The 128 bytes of a measurement-log entry (R433). -/
def Measurement.bytes (m : Measurement) : List Byte :=
  bytesOf 2 m.component ++ [m.image.key, 0] ++ bytesOf 4 m.image.version.toNat ++ bytesOf 64 m.image.digest.toNat ++
    List.replicate 56 0

/-- A measurement's report: the entry and its signature over the nonce and the entry (R433, log 11). -/
def Measurement.report (m : Measurement) (nonce : List Byte) : List Byte :=
  m.bytes ++ bytesOf 64 (Config.signature (nonce ++ m.bytes)).toNat

/-- QMEAS (R421, R433, R447). -/
def execQmeas (s : State) : Host.Outcome State Fault Refusal :=
  command 0x07 (fun ws => zeroBits (ws.getD 1 0) 63 6 && zeroFrom ws 7)
    (fun ws =>
      match if s.ready.getLsbD 53 then s.log[field (ws.getD 1 0) 5 0]? else none with
      | none => finish ws 0 1
      | some m => do
        let nonce := ((ws.drop 2).take 4).flatMap fun w => bytesOf 8 w.toNat
        modify fun s => s.modMailbox fun b => { b with posts := b.posts ++ [.write (ws.getD 6 0).toNat (m.report nonce)] }
        finish ws 0 0) s

/-- QCNT (R421, R401, R447). -/
def execQcnt (s : State) : Host.Outcome State Fault Refusal :=
  command 0x08
    (fun ws => asidWord ws && nameOk (ws.getD 2 0) false && nameClass (ws.getD 2 0) != 0 && zeroFrom ws 3)
    (fun ws =>
      let name := ws.getD 2 0
      let ready := if nameClass name = 1 then s.ready.getLsbD (44 + field name 9 8) else s.masterFunction
      if ready then finish ws 0 (s.counterWord (cmdAsid ws) name) else finish ws 5 0) s

/-- Every die that is not fenced is ready (R447). -/
def State.diesReady (s : State) : Bool := s.liveDies.all fun d => s.ready.getLsbD d

/-- An ASID-table entry keeps R374. -/
def asidEntryOk (e : Word) : Bool := zeroBits e 62 42 && zeroBits e 39 39 && zeroBits e 11 0

/-- ASIDSET (R421, R374). -/
def execAsidset (s : State) : Host.Outcome State Fault Refusal :=
  command 0x09 (fun ws => asidWord ws && asidEntryOk (ws.getD 2 0) && zeroFrom ws 3)
    (fun ws => do
      if s.diesReady then do
        modify fun s => { s with asids := Tab.put s.asids (cmdAsid ws) (ws.getD 2 0) }
        finish ws 0 0
      else finish ws 5 0) s

/-- IMPORT (R421, R428). -/
def execImportEntry (s : State) : Host.Outcome State Fault Refusal :=
  command 0x0A
    (fun ws =>
      let e := ws.getD 2 0
      zeroBits (ws.getD 1 0) 63 8 && zeroBits e 62 48 && zeroBits e 31 22 && zeroFrom ws 3)
    (fun ws => do
      if s.diesReady then do
        modify fun s => { s with imports := Tab.put s.imports (field (ws.getD 1 0) 7 0) (ws.getD 2 0) }
        finish ws 0 0
      else finish ws 5 0) s

/-- A peer entry keeps R431. -/
def peerEntryOk (ws : List Word) : Bool :=
  zeroBits (ws.getD 3 0) 63 48 && zeroBits (ws.getD 6 0) 63 18 && zeroBits (ws.getD 7 0) 62 0

/-- A key entry keeps R431. -/
def keyEntryOk (ws : List Word) : Bool :=
  zeroBits (ws.getD 3 0) 62 18 && zeroBits (ws.getD 3 0) 15 13 && zeroFrom ws 6

/-- UESET (R421, R431). -/
def execUeset (s : State) : Host.Outcome State Fault Refusal :=
  command 0x0B
    (fun ws =>
      let w1 := ws.getD 1 0
      zeroBits w1 63 13 && zeroBits w1 11 10 && zeroBits w1 7 0 && zeroBits (ws.getD 2 0) 63 12 &&
      (if bit w1 12 then keyEntryOk ws else peerEntryOk ws))
    (fun ws => do
      let d := field (ws.getD 1 0) 9 8
      let i := field (ws.getD 2 0) 11 0
      if s.ready.getLsbD d then do
        modify fun s => s.modEngine d fun e =>
          if bit (ws.getD 1 0) 12 then { e with keys := Tab.put e.keys i ws } else e.setPeer i ws
        finish ws 0 0
      else finish ws 5 0) s

/-- MAILBOX_NOP: NOP, and the operations that R421 does not list (R420). -/
def execMailboxNop (s : State) : Host.Outcome State Fault Refusal :=
  command 0x0C (fun ws => zeroFrom ws 1) (fun ws => finish ws 0 0) s

/-- The 32 bytes of record `i` (R422). -/
def Completion.bytes (c : Completion) (i size : Nat) : List Byte :=
  bytesOf 8 ((if i / size % 2 = 0 then 2 ^ 63 else 0) + c.status * 256 + c.op) ++ bytesOf 8 c.seq.toNat ++
    bytesOf 8 c.result.toNat ++ bytesOf 8 0

/-- COMPLETION_RECORD: the oldest completion is posted, once its device writes are performed and the ring has room, and
its vector is signalled (R422). -/
def execCompletionRecord (s : State) : Host.Outcome State Fault Refusal :=
  runEvent (do
    match s.mailbox.done with
    | [] => notNow
    | c :: rest =>
      if !s.mailboxLives || !(s.writesOut 5 (· == .mailbox)).isEmpty || (c.record && !s.mailbox.ringRoom) then notNow
      else set (s.modMailbox fun m =>
        let i := m.records
        let record := if c.record then [HostPost.write (m.cqBase.toNat + 32 * (i % m.cqSize)) (c.bytes i m.cqSize)] else []
        let m := { m with done := rest, records := if c.record then i + 1 else i, posts := m.posts ++ record }
        (c.vector.map m.signal).getD m)) s

end Sys2Proof.Machine
end

