-- ==== Sys2Proof/Machine/Boot.lean ====
section
/-! DEFINITION. Bring-up and resets (R115, R432), the management controller (R366, R384, R393, R433, R434) and its SPDM
answers (R433). -/

namespace Sys2Proof.Machine

/-! ## Power-on, resets and readiness (R432) -/

/-- What a device reset leaves: the fuses, HBM, and the measurement log, whose entries are never rewritten (R384, R218;
log 39). The model's own fields stay. -/
def State.afterReset (s : State) : State :=
  { State.reset with hbm := s.hbm, poison := s.poison, fused := s.fused, log := s.log, drawn := s.drawn,
                     input := s.input, agenda := s.agenda }

/-- DEVICE_RESET (R115). -/
def execDeviceReset (s : State) : Host.Outcome State Fault Refusal := runEvent (set s.afterReset) s

/-- POWER_ON: the boot ROM verifies and measures the management firmware, and starts it (R432). -/
def execPowerOn (s : State) : Host.Outcome State Fault Refusal :=
  runEvent (
    let s := { s.afterReset with hbm := [], poison := [], log := [] }
    if s.input.firmware.verified then
      set { s with log := [{ component := 0, image := s.input.firmware }], ready := BitVec.ofNat 54 (2 ^ 53) }
    else set { s with reports := [.firmwareFailed] }) s

/-- The enabled sites of a die in ascending order: its core map as it loads it (R380). -/
def State.loadMap (s : State) (d : Nat) : List (Option Nat) :=
  ((upFrom 0 1024).filter fun i => s.enabled (1024 * d + i)).map some

/-- A component of the firmware has been measured (R433). -/
def State.measured (s : State) (component : Nat) : Bool := s.log.any fun m => m.component == component

/-- The function may become ready now (R432, R433). Of a network engine the flag says that its Ethernet port has
linked. -/
def State.mayBeReady (s : State) (n : Nat) : Bool :=
  if n < 12 then true
  else if n < 44 then s.measured 3
  else if n < 48 then s.measured 2 && s.input.flag
  else if n < 52 then s.measured 1
  else if n = 52 then s.ready.getLsbD 0 && s.ready.getLsbD 48 && s.ready.getLsbD 53
  else n == 53 && s.measured 0

/-- The record of launch ID 0, as the boot sequence writes it (R383, R367): the descriptor's words, then the binding
entries. -/
def bootLaunch (asid : Nat) (ws : List Word) : Launch :=
  ({ asid, desc := ws.take 16, bindings := ((ws.drop 16).take 256).zipIdx.map fun p => (p.2, p.1), state := .running } :
    Launch).discard

/-- What a function brings with it: a die its core map, a port its credits, the master's Derrick the record of launch
ID 0. -/
def State.bringUp (s : State) (n : Nat) : State :=
  let ws := s.input.words
  if n < 4 then s.modDie n fun d => { d with coreMap := s.loadMap n }
  else if n < 12 then s
  else if n < 44 then s.modPort (n - 12) fun p => { p with
    up := true, broken := false, credits := ws.zipIdx.map fun c => (c.2, c.1.toNat) }
  else if n = 48 + s.master.die && !ws.isEmpty then
    { s with master := { s.master with launches := Tab.put s.master.launches 0 (bootLaunch s.input.m ws) } }
  else s

/-- FUNCTION_READY: function `n` has passed its checks and sets its READY bit; a stack that fails them, with the flag,
never does (R173, R432). -/
def execFunctionReady (s : State) : Host.Outcome State Fault Refusal :=
  runEvent (do
    let n := s.input.n
    if 54 ≤ n || !s.mayBeReady n || (s.ready.getLsbD n && (n < 12 || 44 ≤ n)) || (n < 12 && s.failedStacks.contains (n - 4) && 4 ≤ n)
    then notNow
    else if s.input.flag && 4 ≤ n && n < 12 then set { s with failedStacks := s.failedStacks ++ [n - 4] }
    else
      let s := s.bringUp n
      set { s with ready := s.ready ||| BitVec.ofNat 54 (2 ^ n) }) s

/-! ## Management (R366, R393, R434) -/

/-- A route entry keeps R381. -/
def routeOk (e : Word) : Bool :=
  zeroBits e 55 42 && zeroBits e 39 38 && (upFrom 0 4).all fun d => zeroBits e (8 * d + 7) (8 * d + 5)

/-- COREADDR.NODE is set, and with it the own node's entry (R172, R381). -/
def State.setNode (s : State) (n : Nat) : State :=
  let s := { s with routes := Tab.put s.routes s.node (word (putField (Tab.get 0 s.routes s.node).toNat 63 62 0)) }
  { s with node := n, routes := Tab.put s.routes n (word (putField (Tab.get 0 s.routes n).toNat 63 62 3)) }

/-- A write by management; none where the tables' rules forbid it. -/
def State.manage (s : State) (w : MgmtWrite) : Option State :=
  match w with
  | .nothing => none
  | .region i ws =>
    if 4096 ≤ i || ws.length ≠ 4 || !(regionOk ws || !regionValid ws) then none else some (s.changeRegion i ws 4096 0)
  | .publish d n ws =>
    if 4 ≤ d || 1024 ≤ n || ws.length ≠ 4 || !(publishOk ws || !bit (ws.getD 0 0) 63) then none
    else some (s.setPublish d n ws)
  | .asid i e => if 8192 ≤ i || !asidEntryOk e then none else some { s with asids := Tab.put s.asids i e }
  | .route n e => if 64 ≤ n || !routeOk e then none else some { s with routes := Tab.put s.routes n e }
  | .node n => if 64 ≤ n then none else some (s.setNode n)
  | .jobStart asid => if 8192 ≤ asid then none else some (s.openItem { cls := 6, asid, num := 0 })
  | .coreAsid k asid => if !s.enabled k then none else some (s.modCore k fun x => { x with asid := BitVec.ofNat 13 asid })
  | .measured c image =>
    if c = 0 || 3 < c || 64 ≤ s.log.length || !s.ready.getLsbD 53 then none
    else if image.verified then some { s with log := s.log ++ [{ component := c, image }] }
    else some { s with reports := s.reports ++ [.firmwareFailed] }
  | .jobSwitch k asid prio =>
    if !s.enabled k || 8192 ≤ asid || 4 ≤ prio then none
    else some (s.enqueue k { cause := 0x13, ctx := none, pc := 0, addr := 0, info := word (asid + prio * 2 ^ 16) })
  | .stepClock mhz => some { s with clock := mhz }

/-- MANAGEMENT_TABLE_WRITE (R366, R172, R193). -/
def execManagementTableWrite (s : State) : Host.Outcome State Fault Refusal :=
  runEvent (do
    match s.manage s.input.mgmt with
    | none => notNow
    | some s => set s) s

/-- THERMAL_STEP_DOWN: the core clock steps down by 100 MHz (R434). -/
def execThermalStepDown (s : State) : Host.Outcome State Fault Refusal :=
  runEvent (set { s with clock := s.clock - 100 }) s

/-- THERMAL_TRIP: the package stops, and management reports it (R434). -/
def execThermalTrip (s : State) : Host.Outcome State Fault Refusal :=
  runEvent (set { s with tripped := true, reports := s.reports ++ [Report.thermalTrip] }) s

/-! ## SPDM (R433) -/

/-- Management answers, once its firmware runs; `agreed` requests need NEGOTIATE_ALGORITHMS first (log 11). -/
def spdm (agreed : Bool) (answer : M (List Byte)) (s : State) : Host.Outcome State Fault Refusal :=
  runEvent (do
    if !s.ready.getLsbD 53 || (agreed && !s.spdmReady) then notNow
    else
      let data ← answer
      modify fun s => { s with reports := s.reports ++ [.spdm data] }) s

/-- GET_VERSION: 1.2 and 1.3 (R433). -/
def execGetVersion (s : State) : Host.Outcome State Fault Refusal := spdm false (pure [0x12, 0x13]) s

/-- GET_CAPABILITIES: the spec does not state the flags, so they are free (R433, log 11). -/
def execGetCapabilities (s : State) : Host.Outcome State Fault Refusal := spdm false (drawBytes 4) s

/-- NEGOTIATE_ALGORITHMS: EdDSA Ed25519 and SHA-512 only, offered with the two flags (R433). -/
def execNegotiateAlgorithms (s : State) : Host.Outcome State Fault Refusal :=
  spdm false (do
    let ok := s.input.flag && s.input.flag2
    modify fun s => { s with spdmReady := ok }
    pure [if ok then 1 else 0]) s

/-- GET_DIGESTS: the digest of the certificate chain (R433). -/
def execGetDigests (s : State) : Host.Outcome State Fault Refusal :=
  spdm true (pure (bytesOf 64 (Config.sha512 (Config.certificates ())).toNat)) s

/-- GET_CERTIFICATE (R433). -/
def execGetCertificate (s : State) : Host.Outcome State Fault Refusal := spdm true (pure (Config.certificates ())) s

/-- CHALLENGE: the nonce and the certificate digest, signed with the identity key (R433, log 11). -/
def execChallenge (s : State) : Host.Outcome State Fault Refusal :=
  spdm true (pure (bytesOf 64 (Config.signature
    (bytesOf 32 s.input.nonce.toNat ++ bytesOf 64 (Config.sha512 (Config.certificates ())).toNat)).toNat)) s

/-- GET_MEASUREMENTS: entry `n` of the log with its signature; nothing for an empty entry (R433). -/
def execGetMeasurements (s : State) : Host.Outcome State Fault Refusal :=
  spdm true (pure (match s.log[s.input.n]? with
    | some m => m.report (bytesOf 32 s.input.nonce.toNat)
    | none => [])) s

end Sys2Proof.Machine
end

