-- ==== Sys2Proof/Machine/Cycle.lean ====
section
/-! DEFINITION. What comes about in a core's cycle before its issue slot (R188, R204, R207), the physical events that no
unit causes (R223, R231, R434), and what a stopped package still does (R434). -/

namespace Sys2Proof.Machine

/-- A core's next cycle begins: the ticks of the cycle before have come (R204, R207), and the forced saves that are due
begin (R188). In a stopped package no cycle passes (R434). -/
def State.beginCycle (s : State) (k : Nat) : State :=
  if s.tripped then s
  else
    let s := (s.tickDue k).modCore k fun x =>
      ({ x with cycle := x.cycle + 1, bench := { x.bench with ticked := false } } : Core).bump 0 0 1
    s.forceDue k

/-- A 32-bit soft-error counter of a die rises by one and saturates (R415). -/
def Die.bumpSoft (d : Die) (index : Nat) : Die :=
  { d with soft := Tab.put d.soft index (min (Tab.get 0 d.soft index + 1) 0xFFFFFFFF) }

/-- What a physical event changes: a tile symbol reads wrong (R223), the on-die ECC of HBM corrects a symbol or finds
a line that it cannot correct (R231), a memory-side cache corrects a symbol (R415), or management reports what it
measures or counts (R434). -/
def State.upset (s : State) (u : Upset) : State :=
  match u with
  | .tileSymbol k b =>
    if s.enabled k && decide (b.stripe < 8192) && decide (b.position < 8) && decide (b.bank < 18) &&
        !(s.core k).bad.contains b then
      s.modCore k fun x => { x with bad := x.bad ++ [b] }
    else s
  | .hbmSymbol pa => if pa < 2 ^ 39 then s.modDie (homeDie pa) fun d => d.bumpSoft (4 + stackOf pa % 2) else s
  | .hbmLine pa => if pa < 2 ^ 39 && !s.poison.contains (pa / 64) then { s with poison := s.poison ++ [pa / 64] } else s
  | .cacheSymbol d => if d < 4 then s.modDie d fun d => d.bumpSoft 3 else s
  | .readings t v p => { s with reports := s.reports ++ [.readings t v p] }
  | .counterRead k name =>
    match s.perfWord k name with
    | some w => { s with reports := s.reports ++ [.counter k name w] }
    | none => s

/-- The steps of the management controller and of the module's supply: they go on while the package is stopped
(R434). -/
def managementSteps : List Instr :=
  [.powerOn, .deviceReset, .coreReset, .presenceLoss, .thermalStepDown, .thermalTrip, .managementTableWrite,
   .counterClear, .bankFailureMark, .getVersion, .getCapabilities, .negotiateAlgorithms, .getDigests, .getCertificate,
   .challenge, .getMeasurements]

/-- The step of a unit may come: the package runs, or the step is management's (R434). -/
def State.admits (s : State) (i : Instr) : Bool := !s.tripped || managementSteps.contains i

end Sys2Proof.Machine
end

