-- ==== Sys2Proof/Machine/Scalar.lean ====
section
/-! DEFINITION. Integer arithmetic, immediates, shifts, addresses and jumps of the scalar file (R123 to R133). -/

namespace Sys2Proof.Machine

/-! ## The computations (R123 to R125) -/

/-- The high 64 bits of the signed product (R123). -/
def mulHigh (a b : Word) : Word := intWord (a.toInt * b.toInt / 2 ^ 64)

/-- The high 64 bits of the unsigned product (R123). -/
def mulHighU (a b : Word) : Word := word (a.toNat * b.toNat / 2 ^ 64)

/-- Signed quotient, truncated toward zero; −1 for a zero divisor (R124). -/
def quotient (a b : Word) : Word := if b = 0 then -1 else intWord (a.toInt.tdiv b.toInt)

/-- Unsigned quotient; all ones for a zero divisor (R124). -/
def quotientU (a b : Word) : Word := if b = 0 then -1 else word (a.toNat / b.toNat)

/-- Signed remainder, with the sign of `a`; `a` for a zero divisor (R124). -/
def remainder (a b : Word) : Word := intWord (a.toInt.tmod b.toInt)

/-- Unsigned remainder; `a` for a zero divisor (R124). -/
def remainderU (a b : Word) : Word := word (a.toNat % b.toNat)

/-- A shift amount: b[5:0] (R123). -/
def shiftBy (b : Word) : Nat := b.toNat % 64

/-- Zeros above the highest one among the low `n` bits (R123). -/
def leadingZeros (a : Word) : Nat → Nat
  | 0 => 0
  | n + 1 => if bit a n then 0 else 1 + leadingZeros a n

/-- Ones among the low `n` bits (R123). -/
def onesIn (a : Word) : Nat → Nat
  | 0 => 0
  | n + 1 => onesIn a n + (if bit a n then 1 else 0)

/-- Length of a field descriptor (R125). -/
def fieldLen (b : Word) : Nat := min (field b 14 8) 64

/-- The `len` lowest bits. -/
def lowMask (len : Nat) : Word := word (2 ^ len - 1)

/-- `bext` (R125). -/
def extractField (a b : Word) : Word := (a >>> shiftBy b) &&& lowMask (fieldLen b)

/-- `bins` (R125). -/
def insertField (old a b : Word) : Word :=
  let m := lowMask (fieldLen b) <<< shiftBy b
  (old &&& ~~~m) ||| ((a <<< shiftBy b) &&& m)

/-- `lea` (R127). -/
def leaOf (a : Word) (k : BitVec 8) : Word :=
  let off := field a 19 0
  if k = 0#8 then tileAddr off else word (0xF100000000000000 + (k.toNat % 32) * 2 ^ 48 + off)

/-! ## Operand forms -/

/-- rd := f(s[ra], s[rb]) (R123). -/
def scalar2 (f : Word → Word → Word) (rd ra rb : BitVec 6) : M Unit := do
  let a ← readS ra
  let b ← readS rb
  writeS rd (f a b)
  retire

/-- rd := f(s[ra]) (R123, R126, R128). -/
def scalar1 (f : Word → Word) (rd ra : BitVec 6) : M Unit := do
  let a ← readS ra
  writeS rd (f a)
  retire

/-- rd := f(s[rd], s[ra], s[rb]), with rd read as it stood (R123, R125). -/
def scalar3 (f : Word → Word → Word → Word) (rd ra rb : BitVec 6) : M Unit := do
  let old ← readS rd
  let a ← readS ra
  let b ← readS rb
  writeS rd (f old a b)
  retire

/-! ## Major 0x00 -/

/-- `add` (R123). -/
def execAdd (rd ra rb : BitVec 6) (s : State) : Host.Outcome State Fault Refusal :=
  runM (scalar2 (fun a b => a + b) rd ra rb) s

/-- `sub` (R123). -/
def execSub (rd ra rb : BitVec 6) (s : State) : Host.Outcome State Fault Refusal :=
  runM (scalar2 (fun a b => a - b) rd ra rb) s

/-- `mul` (R123). -/
def execMul (rd ra rb : BitVec 6) (s : State) : Host.Outcome State Fault Refusal :=
  runM (scalar2 (fun a b => a * b) rd ra rb) s

/-- `mulh` (R123). -/
def execMulh (rd ra rb : BitVec 6) (s : State) : Host.Outcome State Fault Refusal :=
  runM (scalar2 (fun a b => mulHigh a b) rd ra rb) s

/-- `mulhu` (R123). -/
def execMulhu (rd ra rb : BitVec 6) (s : State) : Host.Outcome State Fault Refusal :=
  runM (scalar2 (fun a b => mulHighU a b) rd ra rb) s

/-- `div` (R124). -/
def execDiv (rd ra rb : BitVec 6) (s : State) : Host.Outcome State Fault Refusal :=
  runM (scalar2 (fun a b => quotient a b) rd ra rb) s

/-- `divu` (R124). -/
def execDivu (rd ra rb : BitVec 6) (s : State) : Host.Outcome State Fault Refusal :=
  runM (scalar2 (fun a b => quotientU a b) rd ra rb) s

/-- `rem` (R124). -/
def execRem (rd ra rb : BitVec 6) (s : State) : Host.Outcome State Fault Refusal :=
  runM (scalar2 (fun a b => remainder a b) rd ra rb) s

/-- `remu` (R124). -/
def execRemu (rd ra rb : BitVec 6) (s : State) : Host.Outcome State Fault Refusal :=
  runM (scalar2 (fun a b => remainderU a b) rd ra rb) s

/-- `and` (R123). -/
def execAnd (rd ra rb : BitVec 6) (s : State) : Host.Outcome State Fault Refusal :=
  runM (scalar2 (fun a b => a &&& b) rd ra rb) s

/-- `or` (R123). -/
def execOr (rd ra rb : BitVec 6) (s : State) : Host.Outcome State Fault Refusal :=
  runM (scalar2 (fun a b => a ||| b) rd ra rb) s

/-- `xor` (R123). -/
def execXor (rd ra rb : BitVec 6) (s : State) : Host.Outcome State Fault Refusal :=
  runM (scalar2 (fun a b => a ^^^ b) rd ra rb) s

/-- `andn` (R123). -/
def execAndn (rd ra rb : BitVec 6) (s : State) : Host.Outcome State Fault Refusal :=
  runM (scalar2 (fun a b => a &&& ~~~b) rd ra rb) s

/-- `shl` (R123). -/
def execShl (rd ra rb : BitVec 6) (s : State) : Host.Outcome State Fault Refusal :=
  runM (scalar2 (fun a b => a <<< shiftBy b) rd ra rb) s

/-- `shr` (R123). -/
def execShr (rd ra rb : BitVec 6) (s : State) : Host.Outcome State Fault Refusal :=
  runM (scalar2 (fun a b => a >>> shiftBy b) rd ra rb) s

/-- `sar` (R123). -/
def execSar (rd ra rb : BitVec 6) (s : State) : Host.Outcome State Fault Refusal :=
  runM (scalar2 (fun a b => a.sshiftRight (shiftBy b)) rd ra rb) s

/-- `rol` (R123). -/
def execRol (rd ra rb : BitVec 6) (s : State) : Host.Outcome State Fault Refusal :=
  runM (scalar2 (fun a b => a.rotateLeft (shiftBy b)) rd ra rb) s

/-- `min` (R123). -/
def execMin (rd ra rb : BitVec 6) (s : State) : Host.Outcome State Fault Refusal :=
  runM (scalar2 (fun a b => if a.slt b then a else b) rd ra rb) s

/-- `max` (R123). -/
def execMax (rd ra rb : BitVec 6) (s : State) : Host.Outcome State Fault Refusal :=
  runM (scalar2 (fun a b => if a.slt b then b else a) rd ra rb) s

/-- `minu` (R123). -/
def execMinu (rd ra rb : BitVec 6) (s : State) : Host.Outcome State Fault Refusal :=
  runM (scalar2 (fun a b => if a.ult b then a else b) rd ra rb) s

/-- `maxu` (R123). -/
def execMaxu (rd ra rb : BitVec 6) (s : State) : Host.Outcome State Fault Refusal :=
  runM (scalar2 (fun a b => if a.ult b then b else a) rd ra rb) s

/-- `slt` (R123). -/
def execSlt (rd ra rb : BitVec 6) (s : State) : Host.Outcome State Fault Refusal :=
  runM (scalar2 (fun a b => flagWord (a.slt b)) rd ra rb) s

/-- `sltu` (R123). -/
def execSltu (rd ra rb : BitVec 6) (s : State) : Host.Outcome State Fault Refusal :=
  runM (scalar2 (fun a b => flagWord (a.ult b)) rd ra rb) s

/-- `seq` (R123). -/
def execSeq (rd ra rb : BitVec 6) (s : State) : Host.Outcome State Fault Refusal :=
  runM (scalar2 (fun a b => flagWord (a == b)) rd ra rb) s

/-- `sel` (R123). -/
def execSel (rd ra rb : BitVec 6) (s : State) : Host.Outcome State Fault Refusal :=
  runM (scalar3 (fun old a b => if old = 0 then b else a) rd ra rb) s

/-- `clz` (R123). -/
def execClz (rd ra : BitVec 6) (s : State) : Host.Outcome State Fault Refusal :=
  runM (scalar1 (fun a => word (leadingZeros a 64)) rd ra) s

/-- `ctz` (R123). -/
def execCtz (rd ra : BitVec 6) (s : State) : Host.Outcome State Fault Refusal :=
  runM (scalar1 (fun a => word (lowestBit a 0 64)) rd ra) s

/-- `popc` (R123). -/
def execPopc (rd ra : BitVec 6) (s : State) : Host.Outcome State Fault Refusal :=
  runM (scalar1 (fun a => word (onesIn a 64)) rd ra) s

/-- `bext` (R125). -/
def execBext (rd ra rb : BitVec 6) (s : State) : Host.Outcome State Fault Refusal :=
  runM (scalar2 extractField rd ra rb) s

/-- `bins` (R125). -/
def execBins (rd ra rb : BitVec 6) (s : State) : Host.Outcome State Fault Refusal :=
  runM (scalar3 insertField rd ra rb) s

/-! ## Majors 0x01 to 0x07 -/

/-- `shli` (R126). -/
def execShli (rd ra : BitVec 6) (k : BitVec 8) (s : State) : Host.Outcome State Fault Refusal :=
  runM (scalar1 (fun a => a <<< k.toNat) rd ra) s

/-- `shri` (R126). -/
def execShri (rd ra : BitVec 6) (k : BitVec 8) (s : State) : Host.Outcome State Fault Refusal :=
  runM (scalar1 (fun a => a >>> k.toNat) rd ra) s

/-- `sari` (R126). -/
def execSari (rd ra : BitVec 6) (k : BitVec 8) (s : State) : Host.Outcome State Fault Refusal :=
  runM (scalar1 (fun a => a.sshiftRight k.toNat) rd ra) s

/-- `lea` (R127). -/
def execLea (rd ra : BitVec 6) (k : BitVec 8) (s : State) : Host.Outcome State Fault Refusal :=
  runM (scalar1 (fun a => leaOf a k) rd ra) s

/-- `addi` (R128). -/
def execAddi (rd ra : BitVec 6) (imm : BitVec 13) (s : State) : Host.Outcome State Fault Refusal :=
  runM (scalar1 (fun a => a + imm.signExtend 64) rd ra) s

/-- `andi` (R128). -/
def execAndi (rd ra : BitVec 6) (imm : BitVec 13) (s : State) : Host.Outcome State Fault Refusal :=
  runM (scalar1 (fun a => a &&& imm.signExtend 64) rd ra) s

/-- `ori` (R128). -/
def execOri (rd ra : BitVec 6) (imm : BitVec 13) (s : State) : Host.Outcome State Fault Refusal :=
  runM (scalar1 (fun a => a ||| imm.setWidth 64) rd ra) s

/-- `xori` (R128). -/
def execXori (rd ra : BitVec 6) (imm : BitVec 13) (s : State) : Host.Outcome State Fault Refusal :=
  runM (scalar1 (fun a => a ^^^ imm.setWidth 64) rd ra) s

/-- `slti` (R128). -/
def execSlti (rd ra : BitVec 6) (imm : BitVec 13) (s : State) : Host.Outcome State Fault Refusal :=
  runM (scalar1 (fun a => flagWord (a.slt (imm.signExtend 64))) rd ra) s

/-- `lui` (R98, R128). -/
def execLui (rd : BitVec 6) (imm : BitVec 19) (s : State) : Host.Outcome State Fault Refusal :=
  runM (do
    writeS rd (imm.signExtend 64 <<< 13)
    retire) s

/-! ## Majors 0x08 to 0x0B -/

/-- A halfword displacement from the branch's own address (R99). -/
def target (pc : Word) {n : Nat} (disp : BitVec n) : Word := pc + disp.signExtend 64 <<< 1

/-- A branch: a follower of a gang takes its leader's path, and its own register is not consulted (R130, R133). -/
def branch (taken : Word → Bool) (ra : BitVec 6) (disp : BitVec 16) : M Unit := do
  let s ← get
  if s.iss.forwarded then retire
  else
    let a ← readS ra
    if taken a then retireTo (target s.iss.pc disp) else retire

/-- `b.eq` (R99, R130). -/
def execBEq (ra : BitVec 6) (disp : BitVec 16) (s : State) : Host.Outcome State Fault Refusal :=
  runM (branch (fun a => a == 0) ra disp) s

/-- `b.ne` (R99, R130). -/
def execBNe (ra : BitVec 6) (disp : BitVec 16) (s : State) : Host.Outcome State Fault Refusal :=
  runM (branch (fun a => a != 0) ra disp) s

/-- `b.lt` (R99, R130). -/
def execBLt (ra : BitVec 6) (disp : BitVec 16) (s : State) : Host.Outcome State Fault Refusal :=
  runM (branch (fun a => a.slt 0) ra disp) s

/-- `b.ge` (R99, R130). -/
def execBGe (ra : BitVec 6) (disp : BitVec 16) (s : State) : Host.Outcome State Fault Refusal :=
  runM (branch (fun a => !a.slt 0) ra disp) s

/-- `b.ltu` (R99, R130). -/
def execBLtu (ra : BitVec 6) (disp : BitVec 16) (s : State) : Host.Outcome State Fault Refusal :=
  runM (branch (fun a => a.ult 0) ra disp) s

/-- `b.geu` (R99, R130). -/
def execBGeu (ra : BitVec 6) (disp : BitVec 16) (s : State) : Host.Outcome State Fault Refusal :=
  runM (branch (fun a => !a.ult 0) ra disp) s

/-- `j` (R131). -/
def execJ (disp : BitVec 25) (s : State) : Host.Outcome State Fault Refusal :=
  runM (retireTo (target s.iss.pc disp)) s

/-- `jal`: lk is s62 (R131). -/
def execJal (disp : BitVec 25) (s : State) : Host.Outcome State Fault Refusal :=
  runM (do
    writeS 62 (s.iss.pc + 4)
    retireTo (target s.iss.pc disp)) s

/-- `jalr` (R132); a follower does not consult its own target register (R133). -/
def execJalr (rd ra : BitVec 6) (imm : BitVec 13) (s : State) : Host.Outcome State Fault Refusal :=
  runM (do
    let a ← if s.iss.forwarded then pure 0 else readS ra
    writeS rd (s.iss.pc + 4)
    retireTo ((a + imm.signExtend 64) &&& ~~~1#64)) s

end Sys2Proof.Machine
end

