-- ==== Sys2Proof/Machine/Dispatch.lean ====
section
/-! DEFINITION. Every step's meaning, one arm a constructor. -/

namespace Sys2Proof.Machine

def exec (i : Instr) (s : State) : Host.Outcome State Fault Refusal :=
  match i with
  | .add rd ra rb => Sys2Proof.Machine.execAdd rd ra rb s
  | .sub rd ra rb => Sys2Proof.Machine.execSub rd ra rb s
  | .mul rd ra rb => Sys2Proof.Machine.execMul rd ra rb s
  | .mulh rd ra rb => Sys2Proof.Machine.execMulh rd ra rb s
  | .mulhu rd ra rb => Sys2Proof.Machine.execMulhu rd ra rb s
  | .div rd ra rb => Sys2Proof.Machine.execDiv rd ra rb s
  | .divu rd ra rb => Sys2Proof.Machine.execDivu rd ra rb s
  | .rem rd ra rb => Sys2Proof.Machine.execRem rd ra rb s
  | .remu rd ra rb => Sys2Proof.Machine.execRemu rd ra rb s
  | .and rd ra rb => Sys2Proof.Machine.execAnd rd ra rb s
  | .or rd ra rb => Sys2Proof.Machine.execOr rd ra rb s
  | .xor rd ra rb => Sys2Proof.Machine.execXor rd ra rb s
  | .andn rd ra rb => Sys2Proof.Machine.execAndn rd ra rb s
  | .shl rd ra rb => Sys2Proof.Machine.execShl rd ra rb s
  | .shr rd ra rb => Sys2Proof.Machine.execShr rd ra rb s
  | .sar rd ra rb => Sys2Proof.Machine.execSar rd ra rb s
  | .rol rd ra rb => Sys2Proof.Machine.execRol rd ra rb s
  | .min rd ra rb => Sys2Proof.Machine.execMin rd ra rb s
  | .max rd ra rb => Sys2Proof.Machine.execMax rd ra rb s
  | .minu rd ra rb => Sys2Proof.Machine.execMinu rd ra rb s
  | .maxu rd ra rb => Sys2Proof.Machine.execMaxu rd ra rb s
  | .slt rd ra rb => Sys2Proof.Machine.execSlt rd ra rb s
  | .sltu rd ra rb => Sys2Proof.Machine.execSltu rd ra rb s
  | .seq rd ra rb => Sys2Proof.Machine.execSeq rd ra rb s
  | .sel rd ra rb => Sys2Proof.Machine.execSel rd ra rb s
  | .clz rd ra => Sys2Proof.Machine.execClz rd ra s
  | .ctz rd ra => Sys2Proof.Machine.execCtz rd ra s
  | .popc rd ra => Sys2Proof.Machine.execPopc rd ra s
  | .bext rd ra rb => Sys2Proof.Machine.execBext rd ra rb s
  | .bins rd ra rb => Sys2Proof.Machine.execBins rd ra rb s
  | .shli rd ra k => Sys2Proof.Machine.execShli rd ra k s
  | .shri rd ra k => Sys2Proof.Machine.execShri rd ra k s
  | .sari rd ra k => Sys2Proof.Machine.execSari rd ra k s
  | .lea rd ra k => Sys2Proof.Machine.execLea rd ra k s
  | .addi rd ra imm => Sys2Proof.Machine.execAddi rd ra imm s
  | .andi rd ra imm => Sys2Proof.Machine.execAndi rd ra imm s
  | .ori rd ra imm => Sys2Proof.Machine.execOri rd ra imm s
  | .xori rd ra imm => Sys2Proof.Machine.execXori rd ra imm s
  | .slti rd ra imm => Sys2Proof.Machine.execSlti rd ra imm s
  | .lui rd imm => Sys2Proof.Machine.execLui rd imm s
  | .bEq ra disp => Sys2Proof.Machine.execBEq ra disp s
  | .bNe ra disp => Sys2Proof.Machine.execBNe ra disp s
  | .bLt ra disp => Sys2Proof.Machine.execBLt ra disp s
  | .bGe ra disp => Sys2Proof.Machine.execBGe ra disp s
  | .bLtu ra disp => Sys2Proof.Machine.execBLtu ra disp s
  | .bGeu ra disp => Sys2Proof.Machine.execBGeu ra disp s
  | .j disp => Sys2Proof.Machine.execJ disp s
  | .jal disp => Sys2Proof.Machine.execJal disp s
  | .jalr rd ra imm => Sys2Proof.Machine.execJalr rd ra imm s
  | .ldk rd k => Sys2Proof.Machine.execLdk rd k s
  | .addk rd ra k => Sys2Proof.Machine.execAddk rd ra k s
  | .fadd fd fa fb => Sys2Proof.Machine.execFadd fd fa fb s
  | .fsub fd fa fb => Sys2Proof.Machine.execFsub fd fa fb s
  | .fmul fd fa fb => Sys2Proof.Machine.execFmul fd fa fb s
  | .fdiv fd fa fb => Sys2Proof.Machine.execFdiv fd fa fb s
  | .ffma fd fa fb => Sys2Proof.Machine.execFfma fd fa fb s
  | .fnma fd fa fb => Sys2Proof.Machine.execFnma fd fa fb s
  | .fmin fd fa fb => Sys2Proof.Machine.execFmin fd fa fb s
  | .fmax fd fa fb => Sys2Proof.Machine.execFmax fd fa fb s
  | .fsqrt fd fa => Sys2Proof.Machine.execFsqrt fd fa s
  | .fneg fd fa => Sys2Proof.Machine.execFneg fd fa s
  | .fabs fd fa => Sys2Proof.Machine.execFabs fd fa s
  | .fclass rd fa => Sys2Proof.Machine.execFclass rd fa s
  | .fround fd fa => Sys2Proof.Machine.execFround fd fa s
  | .fmvX rd fa j => Sys2Proof.Machine.execFmvX rd fa j s
  | .fmvF fd ra j => Sys2Proof.Machine.execFmvF fd ra j s
  | .fcmpEq rd fa fb => Sys2Proof.Machine.execFcmpEq rd fa fb s
  | .fcmpLt rd fa fb => Sys2Proof.Machine.execFcmpLt rd fa fb s
  | .fcmpLe rd fa fb => Sys2Proof.Machine.execFcmpLe rd fa fb s
  | .fcmpUn rd fa fb => Sys2Proof.Machine.execFcmpUn rd fa fb s
  | .fcvtFS fd ra => Sys2Proof.Machine.execFcvtFS fd ra s
  | .fcvtFU fd ra => Sys2Proof.Machine.execFcvtFU fd ra s
  | .fcvtSF rd fa => Sys2Proof.Machine.execFcvtSF rd fa s
  | .fcvtUF rd fa => Sys2Proof.Machine.execFcvtUF rd fa s
  | .fcvtFH fd ra => Sys2Proof.Machine.execFcvtFH fd ra s
  | .fcvtHF rd fa => Sys2Proof.Machine.execFcvtHF rd fa s
  | .fcvtFBf fd ra => Sys2Proof.Machine.execFcvtFBf fd ra s
  | .fcvtBfF rd fa => Sys2Proof.Machine.execFcvtBfF rd fa s
  | .fcvtFW fd ra => Sys2Proof.Machine.execFcvtFW fd ra s
  | .fcvtWF rd fa => Sys2Proof.Machine.execFcvtWF rd fa s
  | .fcvtFD fd ra => Sys2Proof.Machine.execFcvtFD fd ra s
  | .fcvtDF rd fa => Sys2Proof.Machine.execFcvtDF rd fa s
  | .fld fd ra imm => Sys2Proof.Machine.execFld fd ra imm s
  | .fst fd ra imm => Sys2Proof.Machine.execFst fd ra imm s
  | .fldr fd ra k => Sys2Proof.Machine.execFldr fd ra k s
  | .fstr fd ra k => Sys2Proof.Machine.execFstr fd ra k s
  | .setprecKeep rd ra k => Sys2Proof.Machine.execSetprecKeep rd ra k s
  | .setprecClear rd ra k => Sys2Proof.Machine.execSetprecClear rd ra k s
  | .getprec rd => Sys2Proof.Machine.execGetprec rd s
  | .hld hd rs la => Sys2Proof.Machine.execHld hd rs la s
  | .hst hd rs la => Sys2Proof.Machine.execHst hd rs la s
  | .hadv hd ha rs la => Sys2Proof.Machine.execHadv hd ha rs la s
  | .hdim hd ha rs la => Sys2Proof.Machine.execHdim hd ha rs la s
  | .hset hd ra k => Sys2Proof.Machine.execHset hd ra k s
  | .hget rd ha k => Sys2Proof.Machine.execHget rd ha k s
  | .vadd16 hd ha => Sys2Proof.Machine.execVadd16 hd ha s
  | .vaddR hd ha => Sys2Proof.Machine.execVaddR hd ha s
  | .vaddB hd ha => Sys2Proof.Machine.execVaddB hd ha s
  | .vsub16 hd ha => Sys2Proof.Machine.execVsub16 hd ha s
  | .vsubR hd ha => Sys2Proof.Machine.execVsubR hd ha s
  | .vsubB hd ha => Sys2Proof.Machine.execVsubB hd ha s
  | .vmul16 hd ha => Sys2Proof.Machine.execVmul16 hd ha s
  | .vmulR hd ha => Sys2Proof.Machine.execVmulR hd ha s
  | .vmulB hd ha => Sys2Proof.Machine.execVmulB hd ha s
  | .vfma16 hd ha => Sys2Proof.Machine.execVfma16 hd ha s
  | .vmin16 hd ha => Sys2Proof.Machine.execVmin16 hd ha s
  | .vminR hd ha => Sys2Proof.Machine.execVminR hd ha s
  | .vminB hd ha => Sys2Proof.Machine.execVminB hd ha s
  | .vmax16 hd ha => Sys2Proof.Machine.execVmax16 hd ha s
  | .vmaxR hd ha => Sys2Proof.Machine.execVmaxR hd ha s
  | .vmaxB hd ha => Sys2Proof.Machine.execVmaxB hd ha s
  | .vabs16 hd ha => Sys2Proof.Machine.execVabs16 hd ha s
  | .vneg16 hd ha => Sys2Proof.Machine.execVneg16 hd ha s
  | .vcvt16 hd ha => Sys2Proof.Machine.execVcvt16 hd ha s
  | .vscale16 hd ha => Sys2Proof.Machine.execVscale16 hd ha s
  | .vscaleR hd ha => Sys2Proof.Machine.execVscaleR hd ha s
  | .vscaleB hd ha => Sys2Proof.Machine.execVscaleB hd ha s
  | .vexp16 hd ha => Sys2Proof.Machine.execVexp16 hd ha s
  | .vrcp16 hd ha => Sys2Proof.Machine.execVrcp16 hd ha s
  | .vcopy16 hd ha => Sys2Proof.Machine.execVcopy16 hd ha s
  | .vbcast16 hd ha => Sys2Proof.Machine.execVbcast16 hd ha s
  | .vredSum16 hd ha => Sys2Proof.Machine.execVredSum16 hd ha s
  | .vredSumD1 hd ha => Sys2Proof.Machine.execVredSumD1 hd ha s
  | .vredSumD2 hd ha => Sys2Proof.Machine.execVredSumD2 hd ha s
  | .vredMax16 hd ha => Sys2Proof.Machine.execVredMax16 hd ha s
  | .vredMaxD1 hd ha => Sys2Proof.Machine.execVredMaxD1 hd ha s
  | .vredMaxD2 hd ha => Sys2Proof.Machine.execVredMaxD2 hd ha s
  | .vadd hd ha hb la => Sys2Proof.Machine.execVadd hd ha hb la s
  | .vsub hd ha hb la => Sys2Proof.Machine.execVsub hd ha hb la s
  | .vmul hd ha hb la => Sys2Proof.Machine.execVmul hd ha hb la s
  | .vfma hd ha hb la => Sys2Proof.Machine.execVfma hd ha hb la s
  | .vmin hd ha hb la => Sys2Proof.Machine.execVmin hd ha hb la s
  | .vmax hd ha hb la => Sys2Proof.Machine.execVmax hd ha hb la s
  | .vabs hd ha la => Sys2Proof.Machine.execVabs hd ha la s
  | .vneg hd ha la => Sys2Proof.Machine.execVneg hd ha la s
  | .vcvt hd ha la => Sys2Proof.Machine.execVcvt hd ha la s
  | .vscale hd ha hb la => Sys2Proof.Machine.execVscale hd ha hb la s
  | .vexp hd ha la => Sys2Proof.Machine.execVexp hd ha la s
  | .vrcp hd ha la => Sys2Proof.Machine.execVrcp hd ha la s
  | .vcopy hd ha la => Sys2Proof.Machine.execVcopy hd ha la s
  | .vbcast hd ha la => Sys2Proof.Machine.execVbcast hd ha la s
  | .vredSum hd ha rs la => Sys2Proof.Machine.execVredSum hd ha rs la s
  | .vredMax hd ha rs la => Sys2Proof.Machine.execVredMax hd ha rs la s
  | .vand hd ha hb la => Sys2Proof.Machine.execVand hd ha hb la s
  | .vor hd ha hb la => Sys2Proof.Machine.execVor hd ha hb la s
  | .vxor hd ha hb la => Sys2Proof.Machine.execVxor hd ha hb la s
  | .vshl hd ha hb la => Sys2Proof.Machine.execVshl hd ha hb la s
  | .vshr hd ha hb la => Sys2Proof.Machine.execVshr hd ha hb la s
  | .vrsqrt hd ha la => Sys2Proof.Machine.execVrsqrt hd ha la s
  | .vtanh hd ha la => Sys2Proof.Machine.execVtanh hd ha la s
  | .vcmp hd ha hb rs la => Sys2Proof.Machine.execVcmp hd ha hb rs la s
  | .vsel hd ha hb rs la => Sys2Proof.Machine.execVsel hd ha hb rs la s
  | .vcompress hd ha rs la => Sys2Proof.Machine.execVcompress hd ha rs la s
  | .vexpand hd ha rs la => Sys2Proof.Machine.execVexpand hd ha rs la s
  | .vsp24 hd ha hb la => Sys2Proof.Machine.execVsp24 hd ha hb la s
  | .vsmx hd ha la => Sys2Proof.Machine.execVsmx hd ha la s
  | .vtopk hd ha rs la => Sys2Proof.Machine.execVtopk hd ha rs la s
  | .vgather hd ha hb rs la => Sys2Proof.Machine.execVgather hd ha hb rs la s
  | .vscatter hd ha hb rs la => Sys2Proof.Machine.execVscatter hd ha hb rs la s
  | .viota hd rs la => Sys2Proof.Machine.execViota hd rs la s
  | .vcvtKeep hd ha rs la => Sys2Proof.Machine.execVcvtKeep hd ha rs la s
  | .mldW ha la => Sys2Proof.Machine.execMldW ha la s
  | .mma ha rs la => Sys2Proof.Machine.execMma ha rs la s
  | .mst hd rs la => Sys2Proof.Machine.execMst hd rs la s
  | .mstat rs la => Sys2Proof.Machine.execMstat rs la s
  | .mldR ha rs la => Sys2Proof.Machine.execMldR ha rs la s
  | .ldB rd ra rb la => Sys2Proof.Machine.execLdB rd ra rb la s
  | .ldBu rd ra rb la => Sys2Proof.Machine.execLdBu rd ra rb la s
  | .ldH rd ra rb la => Sys2Proof.Machine.execLdH rd ra rb la s
  | .ldHu rd ra rb la => Sys2Proof.Machine.execLdHu rd ra rb la s
  | .ldW rd ra rb la => Sys2Proof.Machine.execLdW rd ra rb la s
  | .ldWu rd ra rb la => Sys2Proof.Machine.execLdWu rd ra rb la s
  | .ldD rd ra rb la => Sys2Proof.Machine.execLdD rd ra rb la s
  | .ldNt rd ra rb la => Sys2Proof.Machine.execLdNt rd ra rb la s
  | .stB rd ra rb => Sys2Proof.Machine.execStB rd ra rb s
  | .stH rd ra rb => Sys2Proof.Machine.execStH rd ra rb s
  | .stW rd ra rb => Sys2Proof.Machine.execStW rd ra rb s
  | .stD rd ra rb => Sys2Proof.Machine.execStD rd ra rb s
  | .stNt rd ra rb => Sys2Proof.Machine.execStNt rd ra rb s
  | .pf ra rb => Sys2Proof.Machine.execPf ra rb s
  | .amoAdd rd ra rb la => Sys2Proof.Machine.execAmoAdd rd ra rb la s
  | .amoAnd rd ra rb la => Sys2Proof.Machine.execAmoAnd rd ra rb la s
  | .amoOr rd ra rb la => Sys2Proof.Machine.execAmoOr rd ra rb la s
  | .amoXor rd ra rb la => Sys2Proof.Machine.execAmoXor rd ra rb la s
  | .amoMin rd ra rb la => Sys2Proof.Machine.execAmoMin rd ra rb la s
  | .amoMax rd ra rb la => Sys2Proof.Machine.execAmoMax rd ra rb la s
  | .amoMinu rd ra rb la => Sys2Proof.Machine.execAmoMinu rd ra rb la s
  | .amoMaxu rd ra rb la => Sys2Proof.Machine.execAmoMaxu rd ra rb la s
  | .amoSwap rd ra rb la => Sys2Proof.Machine.execAmoSwap rd ra rb la s
  | .amoCas rd ra rb la => Sys2Proof.Machine.execAmoCas rd ra rb la s
  | .amoFadd rd ra rb la => Sys2Proof.Machine.execAmoFadd rd ra rb la s
  | .copy hd ha rs la => Sys2Proof.Machine.execCopy hd ha rs la s
  | .copyH hd ha rs la => Sys2Proof.Machine.execCopyH hd ha rs la s
  | .copyR hd ha rs la => Sys2Proof.Machine.execCopyR hd ha rs la s
  | .acq ra k => Sys2Proof.Machine.execAcq ra k s
  | .rel ra k => Sys2Proof.Machine.execRel ra k s
  | .send rd ra rb => Sys2Proof.Machine.execSend rd ra rb s
  | .sendHi rd ra rb => Sys2Proof.Machine.execSendHi rd ra rb s
  | .sendMc rd ra rb => Sys2Proof.Machine.execSendMc rd ra rb s
  | .sendComb rd ra rb => Sys2Proof.Machine.execSendComb rd ra rb s
  | .sendHold rd ra rb => Sys2Proof.Machine.execSendHold rd ra rb s
  | .dep rd ra rb => Sys2Proof.Machine.execDep rd ra rb s
  | .reply rd ra rb => Sys2Proof.Machine.execReply rd ra rb s
  | .msgld rd ra => Sys2Proof.Machine.execMsgld rd ra s
  | .commit rd => Sys2Proof.Machine.execCommit rd s
  | .abort rd => Sys2Proof.Machine.execAbort rd s
  | .uewBuild rd ra rb => Sys2Proof.Machine.execUewBuild rd ra rb s
  | .uewPost rd ra => Sys2Proof.Machine.execUewPost rd ra s
  | .cntInc ra rb => Sys2Proof.Machine.execCntInc ra rb s
  | .cntRd rd ra => Sys2Proof.Machine.execCntRd rd ra s
  | .cntWait rd ra rb => Sys2Proof.Machine.execCntWait rd ra rb s
  | .launch rd ra rb => Sys2Proof.Machine.execLaunch rd ra rb s
  | .cancel rd ra => Sys2Proof.Machine.execCancel rd ra s
  | .barSet ra => Sys2Proof.Machine.execBarSet ra s
  | .barArrive rd => Sys2Proof.Machine.execBarArrive rd s
  | .barWait ra => Sys2Proof.Machine.execBarWait ra s
  | .wtagAny rd ra => Sys2Proof.Machine.execWtagAny rd ra s
  | .wtagAll rd ra => Sys2Proof.Machine.execWtagAll rd ra s
  | .ffr rd ra => Sys2Proof.Machine.execFfr rd ra s
  | .tagClr ra => Sys2Proof.Machine.execTagClr ra s
  | .iclk rd ra rb => Sys2Proof.Machine.execIclk rd ra rb s
  | .perfRd rd ra => Sys2Proof.Machine.execPerfRd rd ra s
  | .iset ra rb => Sys2Proof.Machine.execIset ra rb s
  | .iget rd ra => Sys2Proof.Machine.execIget rd ra s
  | .isave ra => Sys2Proof.Machine.execIsave ra s
  | .irest ra => Sys2Proof.Machine.execIrest ra s
  | .istep rd ra rb => Sys2Proof.Machine.execIstep rd ra rb s
  | .isnap ra rb => Sys2Proof.Machine.execIsnap ra rb s
  | .ibind ra rb => Sys2Proof.Machine.execIbind ra rb s
  | .iin ra rb => Sys2Proof.Machine.execIin ra rb s
  | .mfc rd csr => Sys2Proof.Machine.execMfc rd csr s
  | .mtc ra csr => Sys2Proof.Machine.execMtc ra csr s
  | .bindh rd ra k => Sys2Proof.Machine.execBindh rd ra k s
  | .unbindh rd k => Sys2Proof.Machine.execUnbindh rd k s
  | .bind rd ra => Sys2Proof.Machine.execBind rd ra s
  | .unbind rd ra => Sys2Proof.Machine.execUnbind rd ra s
  | .publish rd => Sys2Proof.Machine.execPublish rd s
  | .publishDefine rd ra => Sys2Proof.Machine.execPublishDefine rd ra s
  | .publishRemove rd => Sys2Proof.Machine.execPublishRemove rd s
  | .ipatch rd ra k => Sys2Proof.Machine.execIpatch rd ra k s
  | .tlbinv ra k => Sys2Proof.Machine.execTlbinv ra k s
  | .tlbpin rd ra k => Sys2Proof.Machine.execTlbpin rd ra k s
  | .cmapRd rd ra k => Sys2Proof.Machine.execCmapRd rd ra k s
  | .laneExecute => Sys2Proof.Machine.execLaneExecute s
  | .laneComplete => Sys2Proof.Machine.execLaneComplete s
  | .mswap => Sys2Proof.Machine.execMswap s
  | .mzero => Sys2Proof.Machine.execMzero s
  | .matrixEntryExecute => Sys2Proof.Machine.execMatrixEntryExecute s
  | .loadDataArrival => Sys2Proof.Machine.execLoadDataArrival s
  | .ntLineWriteOut => Sys2Proof.Machine.execNtLineWriteOut s
  | .clusterAtomic => Sys2Proof.Machine.execClusterAtomic s
  | .copyDone => Sys2Proof.Machine.execCopyDone s
  | .fence => Sys2Proof.Machine.execFence s
  | .drain => Sys2Proof.Machine.execDrain s
  | .lockRequest => Sys2Proof.Machine.execLockRequest s
  | .lockRelease => Sys2Proof.Machine.execLockRelease s
  | .lockRetry => Sys2Proof.Machine.execLockRetry s
  | .outboxInject => Sys2Proof.Machine.execOutboxInject s
  | .dispatchMessageArrival => Sys2Proof.Machine.execDispatchMessageArrival s
  | .tipRefill => Sys2Proof.Machine.execTipRefill s
  | .dispatch => Sys2Proof.Machine.execDispatch s
  | .deposit => Sys2Proof.Machine.execDeposit s
  | .channelDeposit => Sys2Proof.Machine.execChannelDeposit s
  | .benchDeposit => Sys2Proof.Machine.execBenchDeposit s
  | .atomicDeposit => Sys2Proof.Machine.execAtomicDeposit s
  | .counterMessage => Sys2Proof.Machine.execCounterMessage s
  | .copyCompletion => Sys2Proof.Machine.execCopyCompletion s
  | .statusCompletion => Sys2Proof.Machine.execStatusCompletion s
  | .combiningMessage => Sys2Proof.Machine.execCombiningMessage s
  | .combineRouterArrival => Sys2Proof.Machine.execCombineRouterArrival s
  | .combineHoldExpiry => Sys2Proof.Machine.execCombineHoldExpiry s
  | .matrixInvoke => Sys2Proof.Machine.execMatrixInvoke s
  | .matrixInvokeRun => Sys2Proof.Machine.execMatrixInvokeRun s
  | .matrixInvokeReply => Sys2Proof.Machine.execMatrixInvokeReply s
  | .ueSend => Sys2Proof.Machine.execUeSend s
  | .ueWrite => Sys2Proof.Machine.execUeWrite s
  | .ueRead => Sys2Proof.Machine.execUeRead s
  | .ueRecv => Sys2Proof.Machine.execUeRecv s
  | .ueDataPacket => Sys2Proof.Machine.execUeDataPacket s
  | .ueAcknowledgement => Sys2Proof.Machine.execUeAcknowledgement s
  | .ueRetransmitTimeout => Sys2Proof.Machine.execUeRetransmitTimeout s
  | .masterLaunchRequest => Sys2Proof.Machine.execMasterLaunchRequest s
  | .masterCancelRequest => Sys2Proof.Machine.execMasterCancelRequest s
  | .cancelFilterInstall => Sys2Proof.Machine.execCancelFilterInstall s
  | .barrierRowToken => Sys2Proof.Machine.execBarrierRowToken s
  | .barrierColumnToken => Sys2Proof.Machine.execBarrierColumnToken s
  | .barrierRelease => Sys2Proof.Machine.execBarrierRelease s
  | .stepClockTick => Sys2Proof.Machine.execStepClockTick s
  | .triggerQueueTransfer => Sys2Proof.Machine.execTriggerQueueTransfer s
  | .gangLead => Sys2Proof.Machine.execGangLead s
  | .gangJoin => Sys2Proof.Machine.execGangJoin s
  | .gangLeave => Sys2Proof.Machine.execGangLeave s
  | .preqWrite => Sys2Proof.Machine.execPreqWrite s
  | .restoreStart => Sys2Proof.Machine.execRestoreStart s
  | .jobswSave => Sys2Proof.Machine.execJobswSave s
  | .jobswRestore => Sys2Proof.Machine.execJobswRestore s
  | .ctxcmdFree => Sys2Proof.Machine.execCtxcmdFree s
  | .ctxcmdFreeFaulted => Sys2Proof.Machine.execCtxcmdFreeFaulted s
  | .trap => Sys2Proof.Machine.execTrap s
  | .eret => Sys2Proof.Machine.execEret s
  | .brk => Sys2Proof.Machine.execBrk s
  | .nopW => Sys2Proof.Machine.execNopW s
  | .nopShort => Sys2Proof.Machine.execNopShort s
  | .endShort => Sys2Proof.Machine.execEndShort s
  | .endW => Sys2Proof.Machine.execEndW s
  | .rep => Sys2Proof.Machine.execRep s
  | .safe => Sys2Proof.Machine.execSafe s
  | .forcedSave => Sys2Proof.Machine.execForcedSave s
  | .saveComplete => Sys2Proof.Machine.execSaveComplete s
  | .supervisorActivation => Sys2Proof.Machine.execSupervisorActivation s
  | .publishExchange => Sys2Proof.Machine.execPublishExchange s
  | .pageWalk => Sys2Proof.Machine.execPageWalk s
  | .bindingChangeApply => Sys2Proof.Machine.execBindingChangeApply s
  | .bindingTableFetch => Sys2Proof.Machine.execBindingTableFetch s
  | .regionBindingApply => Sys2Proof.Machine.execRegionBindingApply s
  | .derrickDispatch => Sys2Proof.Machine.execDerrickDispatch s
  | .chunkDeal => Sys2Proof.Machine.execChunkDeal s
  | .constantFill => Sys2Proof.Machine.execConstantFill s
  | .launchPromotion => Sys2Proof.Machine.execLaunchPromotion s
  | .deltaFlush => Sys2Proof.Machine.execDeltaFlush s
  | .sweepStart => Sys2Proof.Machine.execSweepStart s
  | .sweepAcknowledge => Sys2Proof.Machine.execSweepAcknowledge s
  | .sweepComplete => Sys2Proof.Machine.execSweepComplete s
  | .completionEvent => Sys2Proof.Machine.execCompletionEvent s
  | .dieFence => Sys2Proof.Machine.execDieFence s
  | .masterElection => Sys2Proof.Machine.execMasterElection s
  | .coreMapReplace => Sys2Proof.Machine.execCoreMapReplace s
  | .bankFailureMark => Sys2Proof.Machine.execBankFailureMark s
  | .scrubStripe => Sys2Proof.Machine.execScrubStripe s
  | .registerSoftError => Sys2Proof.Machine.execRegisterSoftError s
  | .flitReceive => Sys2Proof.Machine.execFlitReceive s
  | .retrain => Sys2Proof.Machine.execRetrain s
  | .linkDown => Sys2Proof.Machine.execLinkDown s
  | .lostNodeFlit => Sys2Proof.Machine.execLostNodeFlit s
  | .msg => Sys2Proof.Machine.execMsg s
  | .ldreq => Sys2Proof.Machine.execLdreq s
  | .streq => Sys2Proof.Machine.execStreq s
  | .amoreq => Sys2Proof.Machine.execAmoreq s
  | .lockreq => Sys2Proof.Machine.execLockreq s
  | .ldrsp => Sys2Proof.Machine.execLdrsp s
  | .stxlt => Sys2Proof.Machine.execStxlt s
  | .stdone => Sys2Proof.Machine.execStdone s
  | .amorsp => Sys2Proof.Machine.execAmorsp s
  | .lockrsp => Sys2Proof.Machine.execLockrsp s
  | .err => Sys2Proof.Machine.execErr s
  | .requestTimeout => Sys2Proof.Machine.execRequestTimeout s
  | .writei => Sys2Proof.Machine.execWritei s
  | .writed => Sys2Proof.Machine.execWrited s
  | .read => Sys2Proof.Machine.execRead s
  | .mailboxLaunch => Sys2Proof.Machine.execMailboxLaunch s
  | .mailboxCancel => Sys2Proof.Machine.execMailboxCancel s
  | .qready => Sys2Proof.Machine.execQready s
  | .qmeas => Sys2Proof.Machine.execQmeas s
  | .qcnt => Sys2Proof.Machine.execQcnt s
  | .asidset => Sys2Proof.Machine.execAsidset s
  | .importEntry => Sys2Proof.Machine.execImportEntry s
  | .ueset => Sys2Proof.Machine.execUeset s
  | .mailboxNop => Sys2Proof.Machine.execMailboxNop s
  | .completionRecord => Sys2Proof.Machine.execCompletionRecord s
  | .hostRegisterWrite => Sys2Proof.Machine.execHostRegisterWrite s
  | .getVersion => Sys2Proof.Machine.execGetVersion s
  | .getCapabilities => Sys2Proof.Machine.execGetCapabilities s
  | .negotiateAlgorithms => Sys2Proof.Machine.execNegotiateAlgorithms s
  | .getDigests => Sys2Proof.Machine.execGetDigests s
  | .getCertificate => Sys2Proof.Machine.execGetCertificate s
  | .challenge => Sys2Proof.Machine.execChallenge s
  | .getMeasurements => Sys2Proof.Machine.execGetMeasurements s
  | .powerOn => Sys2Proof.Machine.execPowerOn s
  | .functionReady => Sys2Proof.Machine.execFunctionReady s
  | .deviceReset => Sys2Proof.Machine.execDeviceReset s
  | .coreReset => Sys2Proof.Machine.execCoreReset s
  | .presenceLoss => Sys2Proof.Machine.execPresenceLoss s
  | .thermalStepDown => Sys2Proof.Machine.execThermalStepDown s
  | .thermalTrip => Sys2Proof.Machine.execThermalTrip s
  | .illegalInstruction => Sys2Proof.Machine.execIllegalInstruction s
  | .matrixFetchReply => Sys2Proof.Machine.execMatrixFetchReply s
  | .homeCacheWrite => Sys2Proof.Machine.execHomeCacheWrite s
  | .commandWindowWrite => Sys2Proof.Machine.execCommandWindowWrite s
  | .launchIdRelease => Sys2Proof.Machine.execLaunchIdRelease s
  | .linkResume => Sys2Proof.Machine.execLinkResume s
  | .managementTableWrite => Sys2Proof.Machine.execManagementTableWrite s
  | .counterClear => Sys2Proof.Machine.execCounterClear s

end Sys2Proof.Machine
end

