-- ==== Sys2Proof/Machine/Step.lean ====
section
/-! DEFINITION. One step of the module: the unit whose turn it is moves once (log 4). -/

namespace Sys2Proof.Machine

/-- The instruction in the slot is executed, and what follows its retiring (R28). -/
def State.execute (s : State) (i : Instr) : Host.Outcome State Fault Refusal := settled s i (exec i s)

/-- A prefix takes no slot (R93): when it has begun a repetition, the repeated instruction issues in the same slot. -/
def State.afterPrefix (o : Host.Outcome State Fault Refusal) : Host.Outcome State Fault Refusal :=
  match o with
  | .next s =>
    if s.prefixed then
      match s.fetched with
      | .idle s => .next s
      | .run i s => s.execute i
    else .next s
  | .fault f => .fault f
  | .refused r => .refused r

/-- A cycle of a core with its issue slot. -/
def State.issue (s : State) (k : Nat) : Host.Outcome State Fault Refusal :=
  if s.enabled k then
    match (s.beginCycle k).slot k with
    | .idle s => .next s
    | .run i s => if i = .rep then State.afterPrefix (exec i s) else s.execute i
  else .fault .absentCore

/-- A turn: an issue slot, the step of a unit with its input, or a physical event. -/
def State.turn (s : State) (t : Turn) : Host.Outcome State Fault Refusal :=
  match t with
  | .slot k => s.issue k
  | .event i input => if isUnitStep i && s.admits i then exec i { s with input := input } else .next s
  | .upset u => .next (s.upset u)

/-- One step. -/
def step (s : State) : Host.Outcome State Fault Refusal :=
  match s.agenda with
  | t :: rest => ({ s with agenda := rest } : State).turn t
  | [] => s.turn s.defaultTurn

/-- The instruction's bytes stand where the next step fetches: context 0 of core 0 is READY at a page of code that the
core's micro-TLB maps, every HBM stack is ready, and the next turn is core 0's issue slot (log 4). -/
def State.withFetchWord (s : State) (nbits w : Nat) : State := s.placeCode (natBytes 4 (w % 2 ^ nbits))

end Sys2Proof.Machine
end

