-- ==== Sys2Proof/Safety.lean ====
section
/-! DEFINITION. What counts as a safe run: one that neither stops with a fault nor meets a refusal. The faults of R180
are next states, since the supervisor takes them. -/

namespace Sys2Proof

/-- The step goes on. -/
def Safety.goesOn (s : Machine.State) : Prop := ∃ t, Machine.step s = .next t

end Sys2Proof
end

