-- ==== Sys2Proof/Certificates/Slice0/Obligations.lean ====
section
/-! DEFINITION. The statements for the provers, and the words they are written in. A statement's docstring names the
rules of spec/ that it formalises.

Most statements about an instruction have one form. Its operands are read, by operations that have statements of their
own (`ScalarRegisterFile` and the ones after it); the premises are that each of them gives a value, which depends on
the state and the operands alone; and the conclusion is the whole next state, or what it holds. -/

namespace Sys2Proof.Claims

open Sys2Proof.Machine

/-- Running `m` in `s` gives `v` and leaves `t`. -/
abbrev Gives {α : Type} (m : M α) (s : State) (v : α) (t : State) : Prop := m.run s = .ok (v, t)

/-- Running `m` in `s` stops with `e`. -/
abbrev Stops {α : Type} (m : M α) (s : State) (e : Stop) : Prop := m.run s = .error e

/-- The context that holds the issue slot. -/
def self (s : State) : Ctx := s.ctx s.iss.core s.iss.ctx

/-- The core that holds the issue slot. -/
def selfCore (s : State) : Core := s.core s.iss.core

/-- The instruction has done its work in `s` and retires; the one after it follows. -/
def retires (s : State) : State := s.retiredTo s.iss.next

/-- An integer modulo 2^64. -/
def wrap (i : Int) : Word := BitVec.ofInt 64 i

/-- 1 if the condition holds, else 0. -/
def oneIf (p : Prop) [Decidable p] : Word := if p then 1#64 else 0#64

/-- No byte of memory differs: HBM as its homes read it, and every core's tile. -/
def SameMemory (s t : State) : Prop :=
  (∀ a, t.hbmByte a = s.hbmByte a) ∧ ∀ k a, Memory.read (t.core k).tile a = Memory.read (s.core k).tile a

/-- The two contexts agree in everything but scalar registers, PC and what issuing moves: the windows' counts, the
latch, the wait and the position in a repetition. -/
def SameButScalars (t u : Ctx) : Prop :=
  u.pool = t.pool ∧ u.prec = t.prec ∧ u.rmode = t.rmode ∧ u.satf = t.satf ∧ u.oob = t.oob ∧ u.hdr0 = t.hdr0 ∧
  u.hdr1 = t.hdr1 ∧ u.launchId = t.launchId ∧ u.barRect = t.barRect ∧ u.barPh = t.barPh ∧ u.h = t.h ∧ u.acc = t.acc ∧
  u.staging = t.staging ∧ u.replay = t.replay ∧ u.checks = t.checks ∧ u.pending = t.pending ∧ u.unit = t.unit ∧
  u.gang = t.gang ∧ u.hi = t.hi

/-- The control registers and the fault registers of a core. -/
def SameCoreRegisters (x y : Core) : Prop :=
  y.tags = x.tags ∧ y.tvec = x.tvec ∧ y.flt = x.flt ∧ y.fltpc = x.fltpc ∧ y.fltaddr = x.fltaddr ∧
  y.fltinfo = x.fltinfo ∧ y.ctxsel = x.ctxsel ∧ y.preq = x.preq ∧ y.saveBase = x.saveBase ∧ y.saveMap = x.saveMap ∧
  y.restoreStat = x.restoreStat ∧ y.restoreCtx = x.restoreCtx ∧ y.jobsw = x.jobsw ∧ y.asid = x.asid ∧
  y.activations = x.activations ∧ y.acc16 = x.acc16 ∧ y.active = x.active ∧ y.shadow = x.shadow ∧ y.bench = x.bench

end Sys2Proof.Claims

open Sys2Proof Sys2Proof.Machine Sys2Proof.Claims


/-! ## Instruction words and the step (R87 to R96, R25, R28, R100, R107) -/

namespace Sys2Proof.Claims

/-- Format RRR (R96): sub, fn, rb, ra, rd, major, and the length bit. -/
def wordRRR (sub : BitVec 3) (fn : BitVec 4) (rb ra rd major : BitVec 6) : Code :=
  .long (sub ++ fn ++ rb ++ ra ++ rd ++ major ++ 1#1)

/-- Format RRI (R96). -/
def wordRRI (imm : BitVec 13) (ra rd major : BitVec 6) : Code := .long (imm ++ ra ++ rd ++ major ++ 1#1)

/-- Format RRK (R96). -/
def wordRRK (fn5 : BitVec 5) (k8 : BitVec 8) (ra rd major : BitVec 6) : Code :=
  .long (fn5 ++ k8 ++ ra ++ rd ++ major ++ 1#1)

/-- Format LX (R96). -/
def wordLX (la4 : BitVec 4) (fn3 : BitVec 3) (rb ra rd major : BitVec 6) : Code :=
  .long (la4 ++ fn3 ++ rb ++ ra ++ rd ++ major ++ 1#1)

/-- Format M (R96). -/
def wordM (la4 : BitVec 4) (fn3 : BitVec 3) (s : BitVec 6) (hb ha hd : BitVec 4) (major : BitVec 6) : Code :=
  .long (la4 ++ fn3 ++ s ++ hb ++ ha ++ hd ++ major ++ 1#1)

/-- The rows of the opcode table that are fetched but have no fields there: their literals stand in the word (log 1). -/
def literalRows : List Instr :=
  [.rep, .safe, .trap, .brk, .fence, .drain, .gangLead, .gangJoin, .mswap, .mzero]

/-- The turn that the next step takes. -/
def nextTurn (s : State) : Turn := s.agenda.headD s.defaultTurn

/-- R182: the class of a cause; a lower one is taken first. -/
def causeClass (cause : Nat) : Nat :=
  match cause with
  | 0x10 => 1
  | 0x11 => 3
  | 0x12 => 4
  | 0x13 => 5
  | _ => 2

/-- R175: FLT, from the cause and the context; with none, NOCTX = 1 and CTX = 15. -/
def fltOf (cause : Nat) (ctx : Option Nat) : Word :=
  match ctx with
  | some c => wrap (c * 2 ^ 12 + cause : Nat)
  | none => wrap (15 * 2 ^ 12 + 2 ^ 8 + cause : Nat)

/-- The memories keep their canonical form: addresses rise, and no listed byte is 0. -/
abbrev MemoriesCanonical (s : State) : Prop := s.hbm.wf = true ∧ ∀ p ∈ s.cores, p.2.tile.wf = true

end Sys2Proof.Claims

/-- R87, R88, R90 to R92, R96, R104: the halfwords that are permanently illegal, and words written out from the formats,
one of each kind of form. -/
def Obligations.DecodeWords : Prop :=
  (decode (.short 0x0000#16) = .error .permanentlyIllegal ∧
   ∀ high : BitVec 16, decode (.long (high ++ 0xFFFF#16)) = .error .permanentlyIllegal) ∧
  decode (.short 0x0A60#16) = .ok (.vadd16 3 5) ∧
  decode (.short 0x0E44#16) = .ok (.vmul16 2 7) ∧
  decode (.short 0b1000000000000000#16) = .ok .nopShort ∧
  decode (.short 0b1000000000000010#16) = .ok .endShort ∧
  decode (.short 0b1001100001100100#16) = .ok .rep ∧
  decode (.long 0xFFF83091#32) = .ok (.bNe 12 (-8)) ∧
  decode (wordRRR 0b000 0b0001 0b000011 0b000010 0b000001 0b000000) = .ok (.sub 1 2 3) ∧
  decode (wordRRI 0b1111111111111 0b111111 0b000101 0b000010) = .ok (.addi 5 63 (-1)) ∧
  decode (wordRRK 0b00000 0b00000111 0b000000 0b000100 0b001100) = .ok (.ldk 4 7) ∧
  decode (wordLX 0b0101 0b110 0b000011 0b000010 0b111100 0b101000) = .ok (.ldD 60 2 3 5) ∧
  decode (wordM 0b0000 0b000 0b000000 0b0011 0b0010 0b0001 0b011100) = .ok (.vadd 1 2 3 0)

/-- R87 to R97, R104, R105: what the encoder writes for a well-formed instruction decodes to that instruction, with every
operand. -/
def Obligations.EncodeThenDecode : Prop :=
  ∀ (i : Instr) (c : Code), i.wf = true → encode i = some c → decode c = .ok i

/-- R87 to R97, R107: whatever decodes is well-formed, and is encoded by the code it was decoded from, so that two codes
never stand for one instruction; but for the rows whose literals the opcode table leaves out (log 1). -/
def Obligations.DecodeThenEncode : Prop :=
  ∀ (c : Code) (i : Instr), decode c = .ok i → i.wf = true ∧ (encode i = some c ∨ i ∈ literalRows)

/-- R25, R28, R87, R100: a step whose turn is an issue slot of a core begins the core's next cycle, and runs the
instruction that stands at the PC of the context the slot falls to: with the code that is fetched there and decoded in the
issue latch, step is exec of it, followed by forwarding to a gang. Where no Bench tick and no forced save is due, the
cycle begins with nothing but its count (R188, R204). The code is the bytes of the instruction cache's line, least
significant first. -/
def Obligations.StepRunsDecoded : Prop :=
  (∀ (s s0 s1 s2 s3 : State) (rest : List Turn) (k c : Nat) (code : Code) (i : Instr), s.agenda = .slot k :: rest →
    s.enabled k = true → s0 = ({ s with agenda := rest } : State).beginCycle k → s1 = (s0.wake k).takeChecks k →
    s0.halted k = false → s1.halted k = false → s1.chosen k = some c → (s1.grant k c).closeAt k c = some s2 →
    (s2.ctx k c).overfull = false → (∀ x p b, (s2.ctx k c).gang ≠ .following x p b) →
    (s2.ctx k c).repeating = none → Gives (fetchCode (s2.ctx k c).pc) s2 code s3 → decode code = .ok i → i ≠ .rep →
    ∃ s4, s4 = { s3 with iss := { s3.iss with code := code, pc := (s2.ctx k c).pc,
                                              next := (s2.ctx k c).pc + wrap (Code.bytes code) } } ∧
      Machine.step s = settled s4 i (Machine.exec i s4)) ∧
  (∀ (s t : State) (k : Nat), s.tripped = false → (∀ d, d < 4 → ((s.core k).bench.domain d).dueAt (s.core k).cycle = false) →
    t = (s.modCore k fun x =>
      ({ x with cycle := x.cycle + 1, bench := { x.bench with ticked := false } } : Core).bump 0 0 1) →
    (∀ c, c < 15 → t.forcedDue k c = false) → s.beginCycle k = t) ∧
  (∀ (s : State) (a : Word) (l : CodeLine) (code : Code) (tail : List Byte), a.toNat < 2 ^ 56 → a.toNat % 64 ≤ 60 →
    (selfCore s).icache.find? (fun l => l.asid == (selfCore s).asid.toNat && l.va == a.toNat / 64 * 64) = some l →
    l.bytes.length = 64 → codeOfBytes (l.bytes.drop (a.toNat % 64)) = .ok (code, tail) → Gives (fetchCode a) s code s)

/-- R4, log 2: every step keeps the memories in canonical form, from any state that has it. -/
def Obligations.MemoryStaysCanonical : Prop :=
  ∀ s t : State, MemoriesCanonical s → Machine.step s = .next t → MemoriesCanonical t

/-- R1, R2, R180: every instruction, and every unit's step, has a next state: what stops an instruction is a fault that the
supervisor takes, or a wait. The one step that stops is an issue slot of a core that the package does not have. -/
def Obligations.StepsAreTotal : Prop :=
  (∀ (i : Instr) (s : State), ∃ t, Machine.exec i s = .next t) ∧
  (∀ s : State, Machine.step s = .fault .absentCore ↔ ∃ k, nextTurn s = .slot k ∧ s.enabled k = false) ∧
  (∀ (s : State) (r : Refusal), Machine.step s ≠ .refused r)

/-- R115, R144, R169, R173, R198, R222, R300, R373, R393, R417: right after reset every context is FREE with its
registers at the Reset column, no function is ready, the memories are canonical, and the units hold their reset
values. That a fused-off site list is empty and that the fuses' data are absent is the model's choice (log 3). -/
def Obligations.ResetState : Prop :=
  MemoriesCanonical State.reset ∧ State.reset.ready = 0#54 ∧ State.reset.fenced = 0#4 ∧
  (∀ k c, (State.reset.ctx k c).state = .free ∧ (State.reset.ctx k c).pc = 0 ∧ (State.reset.ctx k c).prec = 2 ∧
    (State.reset.ctx k c).rmode = 0 ∧ (State.reset.ctx k c).satf = 0 ∧ (State.reset.ctx k c).oob = 0 ∧
    (State.reset.ctx k c).hdr0 = 0 ∧ (State.reset.ctx k c).hdr1 = 0 ∧ (State.reset.ctx k c).launchId = 0 ∧
    (State.reset.ctx k c).barRect = 0 ∧ (State.reset.ctx k c).barPh = 0 ∧ (State.reset.ctx k c).pool = 0 ∧
    (State.reset.ctx k c).ldq = [] ∧ (State.reset.ctx k c).stq = [] ∧ (State.reset.ctx k c).windows = [] ∧
    (∀ r, (State.reset.ctx k c).scalar r = 0) ∧ ∀ r, (State.reset.ctx k c).handle r = 0) ∧
  (∀ k, (State.reset.core k).tags = 0 ∧ (State.reset.core k).tvec = 0 ∧ (State.reset.core k).flt = 0 ∧
    (State.reset.core k).fltpc = 0 ∧ (State.reset.core k).fltaddr = 0 ∧ (State.reset.core k).fltinfo = 0 ∧
    (State.reset.core k).ctxsel = 0 ∧ (State.reset.core k).preq = 0 ∧ (State.reset.core k).saveBase = 0 ∧
    (State.reset.core k).saveMap = 0 ∧ (State.reset.core k).asid = 0 ∧ (State.reset.core k).active.fmt = 0x3F ∧
    (State.reset.core k).shadow.fmt = 0x3F ∧
    ∀ n, ((State.reset.core k).bench.cell n).scale = 8 ∧ ((State.reset.core k).bench.cell n).patch = 0x1FF7FDFF) ∧
  (∀ k d, ((State.reset.core k).bench.domain d).dstate = 0 ∧ ((State.reset.core k).bench.domain d).divider = 65536) ∧
  (∀ a, State.reset.bar0 a = if a = 0x1018 then 64 else 0)

/-- R136, R175, R181, R182, R184, R185: taking an exception makes the context TRAPPED at the fault's PC, leaves its
registers, queues and windows, and enqueues an activation; in context 15 it stops the core and is reported, and enqueues
none. Context 15, when FREE, takes the oldest activation of the first class: the fault registers are written and it is
READY at TVEC with the registers it had. `eret` ends the activation and makes the context that FLT names READY if it is
TRAPPED; elsewhere it is the privilege fault. -/
def Obligations.TrapsAndReturn : Prop :=
  (∀ (s u : State) (t : Trap), u = s.takeTrap t → s.iss.ctx ≠ 15 →
    (u.ctx s.iss.core s.iss.ctx).state = .trapped ∧ (u.ctx s.iss.core s.iss.ctx).pc = t.pc.getD s.iss.pc ∧
    (u.ctx s.iss.core s.iss.ctx).s = (self s).s ∧ (u.ctx s.iss.core s.iss.ctx).pool = (self s).pool ∧
    (u.ctx s.iss.core s.iss.ctx).h = (self s).h ∧ (u.ctx s.iss.core s.iss.ctx).ldq = (self s).ldq ∧
    (u.ctx s.iss.core s.iss.ctx).stq = (self s).stq ∧ (u.ctx s.iss.core s.iss.ctx).windows = (self s).windows ∧
    (u.ctx s.iss.core s.iss.ctx).satf = (self s).satf ∧ u.iss.retired = s.iss.retired ∧ SameMemory s u ∧
    (selfCore u).activations = (selfCore s).activations ++
      [⟨t.cause, some s.iss.ctx, t.pc.getD s.iss.pc, t.addr, t.info⟩]) ∧
  (∀ (s u : State) (t : Trap), u = s.takeTrap t → s.iss.ctx = 15 →
    (selfCore u).stopped = true ∧ u.reports = s.reports ++ [.machineCheck s.iss.core t.cause t.info] ∧
    (selfCore u).activations = (selfCore s).activations ∧ SameMemory s u ∧
    (∀ c, u.ctx s.iss.core c = s.ctx s.iss.core c) ∧
    ∀ v, u.agenda = [.slot s.iss.core] → Machine.step u = .next v → ∀ c, v.ctx s.iss.core c = s.ctx s.iss.core c) ∧
  (∀ (s : State) (x : Core) (a : Activation) (pre post : List Activation), x = s.core s.input.core →
    x.stopped = false → s.tripped = false → (x.ctx 15).state = .free → x.activations = pre ++ a :: post →
    (∀ b ∈ pre, causeClass a.cause < causeClass b.cause) → (∀ b ∈ post, causeClass a.cause ≤ causeClass b.cause) →
    ∃ t, Machine.exec .supervisorActivation s = .next t ∧ (t.core s.input.core).activations = pre ++ post ∧
      (t.core s.input.core).flt = fltOf a.cause a.ctx ∧ (t.core s.input.core).fltpc = a.pc ∧
      (t.core s.input.core).fltaddr = a.addr ∧ (t.core s.input.core).fltinfo = a.info ∧
      (t.ctx s.input.core 15).state = .ready ∧ (t.ctx s.input.core 15).pc = x.tvec ∧
      (t.ctx s.input.core 15).s = (x.ctx 15).s ∧ (t.ctx s.input.core 15).pool = (x.ctx 15).pool ∧
      (t.ctx s.input.core 15).h = (x.ctx 15).h ∧
      ∀ c, c ≠ 15 → t.ctx s.input.core c = s.ctx s.input.core c) ∧
  (∀ (s : State) (c : Nat), s.iss.ctx = 15 → s.waitOver s.iss.core 15 .allResults = true → c < 15 →
    c = (selfCore s).flt.toNat / 2 ^ 12 % 16 →
    ∃ t, Machine.exec .eret s = .next t ∧ t.iss.retired = true ∧ (t.ctx s.iss.core 15).state = .free ∧
      (t.ctx s.iss.core 15).s = (self s).s ∧ (t.ctx s.iss.core c).pc = (s.ctx s.iss.core c).pc ∧
      (t.ctx s.iss.core c).s = (s.ctx s.iss.core c).s ∧
      (t.ctx s.iss.core c).state = (if (selfCore s).flt.getLsbD 8 = false ∧ (s.ctx s.iss.core c).state = .trapped
        then .ready else (s.ctx s.iss.core c).state)) ∧
  (∀ s : State, s.iss.ctx ≠ 15 →
    Machine.exec .eret s = .next (s.takeTrap { cause := 0x04, info := 6#64 }))
/-! ## Scalar registers and arithmetic (R97, R115 to R136) -/

namespace Sys2Proof.Claims

/-- R123 and R124: the two-source instructions and their results. -/
def scalarTable : List ((BitVec 6 → BitVec 6 → BitVec 6 → Instr) × (Word → Word → Word)) := [
  (.add, fun a b => wrap (a.toNat + b.toNat)),
  (.sub, fun a b => wrap (a.toNat - b.toNat)),
  (.mul, fun a b => wrap (a.toNat * b.toNat)),
  (.mulh, fun a b => wrap (a.toInt * b.toInt / 2 ^ 64)),
  (.mulhu, fun a b => wrap (a.toNat * b.toNat / 2 ^ 64)),
  (.div, fun a b => if b = 0 then wrap (-1) else wrap (a.toInt.tdiv b.toInt)),
  (.divu, fun a b => if b = 0 then wrap (-1) else wrap (a.toNat / b.toNat)),
  (.rem, fun a b => if b = 0 then a else wrap (a.toInt.tmod b.toInt)),
  (.remu, fun a b => if b = 0 then a else wrap (a.toNat % b.toNat)),
  (.and, fun a b => a &&& b),
  (.or, fun a b => a ||| b),
  (.xor, fun a b => a ^^^ b),
  (.andn, fun a b => a &&& ~~~b),
  (.shl, fun a b => wrap (a.toNat * 2 ^ (b.toNat % 64))),
  (.shr, fun a b => wrap (a.toNat / 2 ^ (b.toNat % 64))),
  (.sar, fun a b => wrap (a.toInt / 2 ^ (b.toNat % 64))),
  (.rol, fun a b => (a <<< (b.toNat % 64)) ||| (a >>> (64 - b.toNat % 64))),
  (.min, fun a b => if a.toInt ≤ b.toInt then a else b),
  (.max, fun a b => if a.toInt ≤ b.toInt then b else a),
  (.minu, fun a b => if a.toNat ≤ b.toNat then a else b),
  (.maxu, fun a b => if a.toNat ≤ b.toNat then b else a),
  (.slt, fun a b => oneIf (a.toInt < b.toInt)),
  (.sltu, fun a b => oneIf (a.toNat < b.toNat)),
  (.seq, fun a b => oneIf (a = b))]

/-- R126 to R128: the instructions of one source and a literal, with every literal they may hold, and their results. -/
def ScalarLiteral (rd ra : BitVec 6) (a : Word) (i : Instr) (v : Word) : Prop :=
  (∃ k : BitVec 8, k.toNat ≤ 63 ∧ i = .shli rd ra k ∧ v = wrap (a.toNat * 2 ^ k.toNat)) ∨
  (∃ k : BitVec 8, k.toNat ≤ 63 ∧ i = .shri rd ra k ∧ v = wrap (a.toNat / 2 ^ k.toNat)) ∨
  (∃ k : BitVec 8, k.toNat ≤ 63 ∧ i = .sari rd ra k ∧ v = wrap (a.toInt / 2 ^ k.toNat)) ∨
  (i = .lea rd ra 0 ∧ v = wrap (0xF000000000000000 + a.toNat % 2 ^ 20)) ∨
  (∃ cc : Nat, cc ≤ 31 ∧ i = .lea rd ra (BitVec.ofNat 8 (0x80 + cc)) ∧
    v = wrap (0xF100000000000000 + cc * 2 ^ 48 + a.toNat % 2 ^ 20)) ∨
  (∃ imm : BitVec 13, i = .addi rd ra imm ∧ v = wrap (a.toInt + imm.toInt)) ∨
  (∃ imm : BitVec 13, i = .andi rd ra imm ∧ v = a &&& wrap imm.toInt) ∨
  (∃ imm : BitVec 13, i = .ori rd ra imm ∧ v = a ||| wrap imm.toNat) ∨
  (∃ imm : BitVec 13, i = .xori rd ra imm ∧ v = a ^^^ wrap imm.toNat) ∨
  (∃ imm : BitVec 13, i = .slti rd ra imm ∧ v = oneIf (a.toInt < imm.toInt))

/-- R123: how many of the bits that `p` names are 1. -/
def bitsSet (a : Word) : Nat := ((List.range 64).filter fun i => a.getLsbD i).length

/-- R123: the counts of `clz`, `ctz` and `popc`. -/
def ScalarCount (rd ra : BitVec 6) (a : Word) (i : Instr) (n : Nat) : Prop :=
  (i = .clz rd ra ∧ n ≤ 64 ∧ (∀ j, j < n → a.getLsbD (63 - j) = false) ∧ (n < 64 → a.getLsbD (63 - n) = true)) ∨
  (i = .ctz rd ra ∧ n ≤ 64 ∧ (∀ j, j < n → a.getLsbD j = false) ∧ (n < 64 → a.getLsbD n = true)) ∨
  (i = .popc rd ra ∧ n = bitsSet a)

/-- R125: position and length of a field descriptor. -/
def fieldPos (b : Word) : Nat := b.toNat % 64
/-- R125: the length of a field descriptor. -/
def fieldLength (b : Word) : Nat := min (b.toNat / 2 ^ 8 % 128) 64

/-- R130: the branches and their conditions; no unsigned value is below 0. -/
def branchTable : List ((BitVec 6 → BitVec 16 → Instr) × (Word → Bool)) := [
  (.bEq, fun a => decide (a.toNat = 0)),
  (.bNe, fun a => decide (a.toNat ≠ 0)),
  (.bLt, fun a => decide (a.toInt < 0)),
  (.bGe, fun a => decide (0 ≤ a.toInt)),
  (.bLtu, fun _ => false),
  (.bGeu, fun _ => true)]

end Sys2Proof.Claims

/-- R123, R124: each two-source instruction writes the result of its table row to rd and retires; `sel` reads rd as it
stood. Division by zero and the one overflow give the table's values and never fault. -/
def Obligations.ScalarResults : Prop :=
  (∀ p ∈ scalarTable, ∀ (rd ra rb : BitVec 6) (s s1 s2 s3 : State) (a b : Word),
    Gives (readS ra) s a s1 → Gives (readS rb) s1 b s2 → Gives (writeS rd (p.2 a b)) s2 () s3 →
    Machine.exec (p.1 rd ra rb) s = .next (retires s3)) ∧
  (∀ (rd ra rb : BitVec 6) (s s0 s1 s2 s3 : State) (old a b : Word),
    Gives (readS rd) s old s0 → Gives (readS ra) s0 a s1 → Gives (readS rb) s1 b s2 →
    Gives (writeS rd (if old ≠ 0 then a else b)) s2 () s3 → Machine.exec (.sel rd ra rb) s = .next (retires s3))

/-- R123, R126 to R128: the one-source instructions, the shifts, addresses and immediates, and `lui`. R125: `bext`
and `bins`, bit by bit: a field that runs past bit 63 is cut there. -/
def Obligations.ScalarLiteralResults : Prop :=
  ((∀ (rd ra : BitVec 6) (s s1 s2 : State) (a v : Word) (i : Instr), ScalarLiteral rd ra a i v →
     Gives (readS ra) s a s1 → Gives (writeS rd v) s1 () s2 → Machine.exec i s = .next (retires s2)) ∧
   (∀ (rd : BitVec 6) (imm : BitVec 19) (s s1 : State), Gives (writeS rd (wrap (imm.toInt * 2 ^ 13))) s () s1 →
     Machine.exec (.lui rd imm) s = .next (retires s1)) ∧
   (∀ (rd ra : BitVec 6) (s s1 s2 : State) (a : Word) (n : Nat) (i : Instr), ScalarCount rd ra a i n →
     Gives (readS ra) s a s1 → Gives (writeS rd (BitVec.ofNat 64 n)) s1 () s2 → Machine.exec i s = .next (retires s2))) ∧
  ((∀ (rd ra rb : BitVec 6) (s s1 s2 s3 : State) (a b v : Word),
     Gives (readS ra) s a s1 → Gives (readS rb) s1 b s2 →
     (∀ i, i < 64 → v.getLsbD i = (decide (i < fieldLength b ∧ fieldPos b + i ≤ 63) && a.getLsbD (fieldPos b + i))) →
     Gives (writeS rd v) s2 () s3 → Machine.exec (.bext rd ra rb) s = .next (retires s3)) ∧
   (∀ (rd ra rb : BitVec 6) (s s0 s1 s2 s3 : State) (old a b v : Word),
     Gives (readS rd) s old s0 → Gives (readS ra) s0 a s1 → Gives (readS rb) s1 b s2 →
     (∀ i, i < 64 → v.getLsbD i =
       if fieldPos b ≤ i ∧ i < fieldPos b + fieldLength b then a.getLsbD (i - fieldPos b) else old.getLsbD i) →
     Gives (writeS rd v) s2 () s3 → Machine.exec (.bins rd ra rb) s = .next (retires s3)))

/-- R99, R130 to R132: a branch whose condition holds goes to its own address plus twice the displacement, any other
to the next instruction; `j`, `jal` (which also writes s62) and `jalr` (whose target is even and taken from s[ra] as it
stood) go to their targets. A follower of a gang takes its leader's path without reading a register (R133). -/
def Obligations.BranchesAndJumps : Prop :=
  (∀ p ∈ branchTable, ∀ (ra : BitVec 6) (disp : BitVec 16) (s s1 : State) (a : Word), s.iss.forwarded = false →
    Gives (readS ra) s a s1 →
    Machine.exec (p.1 ra disp) s =
      .next (if p.2 a then s1.retiredTo (s.iss.pc + wrap (2 * disp.toInt)) else retires s1)) ∧
  (∀ p ∈ branchTable, ∀ (ra : BitVec 6) (disp : BitVec 16) (s : State), s.iss.forwarded = true →
    Machine.exec (p.1 ra disp) s = .next (retires s)) ∧
  (∀ (disp : BitVec 25) (s : State), Machine.exec (.j disp) s = .next (s.retiredTo (s.iss.pc + wrap (2 * disp.toInt)))) ∧
  (∀ (disp : BitVec 25) (s s1 : State), Gives (writeS 62#6 (s.iss.pc + 4#64)) s () s1 →
    Machine.exec (.jal disp) s = .next (s1.retiredTo (s.iss.pc + wrap (2 * disp.toInt)))) ∧
  (∀ (rd ra : BitVec 6) (imm : BitVec 13) (s s1 s2 : State) (a : Word), s.iss.forwarded = false →
    Gives (readS ra) s a s1 → Gives (writeS rd (s.iss.pc + 4#64)) s1 () s2 →
    Machine.exec (.jalr rd ra imm) s = .next (s2.retiredTo ((a + wrap imm.toInt) &&& ~~~1#64))) ∧
  (∀ (rd ra : BitVec 6) (imm : BitVec 13) (s s1 : State), s.iss.forwarded = true →
    Gives (writeS rd (s.iss.pc + 4#64)) s () s1 →
    ∃ t, Machine.exec (.jalr rd ra imm) s = .next t ∧ t.iss.retired = true ∧ (self t).pc = (self s1).pc)

/-- R123 to R133: what an instruction of majors 0x00 to 0x0B that retires leaves unchanged: every other core and every
other context of its core, memory, the core's registers, and of its own context everything but the registers its fields
name (s62 for `jal`), the two queues and the PC. -/
def Obligations.ScalarFrame : Prop :=
  ∀ (i : Instr) (rd : Nat) (s t : State),
    ((∃ p ∈ scalarTable, ∃ ra rb r : BitVec 6, i = p.1 r ra rb ∧ rd = r.toNat) ∨
     (∃ ra rb r : BitVec 6, (i = .sel r ra rb ∨ i = .bext r ra rb ∨ i = .bins r ra rb) ∧ rd = r.toNat) ∨
     (∃ (ra r : BitVec 6) (a v : Word), ScalarLiteral r ra a i v ∧ rd = r.toNat) ∨
     (∃ (r : BitVec 6) (imm : BitVec 19), i = .lui r imm ∧ rd = r.toNat) ∨
     (∃ ra r : BitVec 6, (i = .clz r ra ∨ i = .ctz r ra ∨ i = .popc r ra) ∧ rd = r.toNat) ∨
     (∃ p ∈ branchTable, ∃ (ra : BitVec 6) (d : BitVec 16), i = p.1 ra d ∧ rd = 0) ∨
     (∃ d : BitVec 25, (i = .j d ∧ rd = 0) ∨ (i = .jal d ∧ rd = 62)) ∨
     (∃ (ra r : BitVec 6) (imm : BitVec 13), i = .jalr r ra imm ∧ rd = r.toNat)) →
    Machine.exec i s = .next t → t.iss.retired = true → s.iss.retired = false →
    SameMemory s t ∧ t.dies = s.dies ∧ t.master = s.master ∧
    (∀ k, k ≠ s.iss.core → t.core k = s.core k) ∧
    (∀ c, c ≠ s.iss.ctx → t.ctx s.iss.core c = s.ctx s.iss.core c) ∧
    SameCoreRegisters (selfCore s) (t.core s.iss.core) ∧
    SameButScalars (self s) (t.ctx s.iss.core s.iss.ctx) ∧
    (∀ r, r ≠ rd → (t.ctx s.iss.core s.iss.ctx).scalar r = (self s).scalar r)

/-- R115, R116, R119: a read of s0 gives 0; of any other register but s60 its value, and nothing changes; a read of
s60 takes the head of the load-data queue; with no entry it is the illegal-operand fault with subcode 1; with a
head that is reserved and not filled the instruction waits. R116, R120: a write of s0 is discarded; of any other
register but s61 it replaces that register alone; a write of s61 pushes onto the store-data queue; with 16
entries there it is the illegal-operand fault with subcode 3. R119, R120, R180: an instruction of the two-source
table that reads s60 with an empty load-data queue, or writes s61 with a full store-data queue, takes the
illegal-operand fault with subcode 1 or 3 and changes nothing else. -/
def Obligations.ScalarRegisterFile : Prop :=
  (((∀ s : State, Gives (readS 0#6) s 0#64 s) ∧
    (∀ (s : State) (r : BitVec 6), r ≠ 0#6 → r ≠ 60#6 → Gives (readS r) s (Tab.get 0 (self s).s r.toNat) s) ∧
    (∀ (s : State) (e : LoadEntry) (rest : List LoadEntry) (v : Word), (self s).ldq = e :: rest → e.value = some v →
      Gives (readS 60#6) s v (s.modCtx s.iss.core s.iss.ctx fun t => { t with ldq := rest })) ∧
    (∀ s : State, (self s).ldq = [] → Stops (readS 60#6) s (.trap { cause := 0x04, info := 1#64 })) ∧
    (∀ (s : State) (e : LoadEntry) (rest : List LoadEntry), (self s).ldq = e :: rest → e.value = none →
      Stops (readS 60#6) s (.wait .ldqHead))) ∧
   ((∀ (s : State) (v : Word), ∃ t, Gives (writeS 0#6 v) s () t ∧ ∀ r, (self t).scalar r = (self s).scalar r) ∧
    (∀ (s : State) (r : BitVec 6) (v : Word), r ≠ 0#6 → r ≠ 61#6 → ∃ t, Gives (writeS r v) s () t ∧
      (self t).scalar r.toNat = v ∧ ∀ q, q ≠ r.toNat → (self t).scalar q = (self s).scalar q) ∧
    (∀ (s : State) (v : Word), (self s).pushed < 16 →
      Gives (writeS 61#6 v) s () (s.modCtx s.iss.core s.iss.ctx fun t => { t with stq := t.stq ++ [v] })) ∧
    (∀ (s : State) (v : Word), 16 ≤ (self s).pushed → Stops (writeS 61#6 v) s (.trap { cause := 0x04, info := 3#64 })))) ∧
  (∀ p ∈ scalarTable, ∀ (rd ra rb : BitVec 6) (s : State),
     ((ra = 60#6 ∨ rb = 60#6) → (self s).ldq = [] →
       Machine.exec (p.1 rd ra rb) s = .next (s.takeTrap { cause := 0x04, info := 1#64 })) ∧
     (ra ≠ 60#6 → rb ≠ 60#6 → rd = 61#6 → 16 ≤ (self s).pushed →
       Machine.exec (p.1 rd ra rb) s = .next (s.takeTrap { cause := 0x04, info := 3#64 })))

/-! ## The float window (R57 to R69, R143 to R156) -/

namespace Sys2Proof.Claims

/-- R177: the context whose floats an instruction works on: context 15 with FV = 1 works on the selected one. -/
def floatSelf (s : State) : Nat :=
  if s.iss.ctx = 15 ∧ (selfCore s).ctxsel.getLsbD 8 = true then (selfCore s).ctxsel.toNat % 16 else s.iss.ctx

/-- LEN of PREC (R144). -/
def lenOf (t : Ctx) : Nat := t.prec.toNat % 16

/-- W at the current length (R68). -/
def bitsOf (t : Ctx) : Nat := 16 + 8 * lenOf t

/-- fN exists at the current length (R145). -/
abbrev FloatExists (t : Ctx) (r : BitVec 5) : Prop := (r.toNat + 1) * bitsOf t ≤ 1024

/-- A float instruction that names the registers can work on context `c`, whose state is `t` (R146, R177), and no result
of them is in progress (R147). -/
abbrev FloatReady (s : State) (regs : List (BitVec 5)) (c : Nat) (t : Ctx) : Prop :=
  c = floatSelf s ∧ t = s.ctx s.iss.core c ∧ (∀ r ∈ regs, FloatExists t r) ∧
  (c = s.iss.ctx ∨ c = 15 ∨ t.state = .trapped ∨ t.state = .free) ∧ t.floatsPending (regs.map BitVec.toNat) = false

/-- No float result of the context is in progress (R147). -/
abbrev FloatsWritten (t : Ctx) : Prop := t.floatsPending (List.range 32) = false

/-- The new length of a `setprec` in `s`: k8, or s[ra] from 1 to 14; `s1` is the state once it is read (R149). -/
abbrev NewLength (ra : BitVec 6) (k : BitVec 8) (s s1 : State) (n : Nat) : Prop :=
  ((ra = 0 ∧ n = k.toNat ∧ s1 = s) ∨ (ra ≠ 0 ∧ Gives (readS ra) s (wrap n) s1)) ∧ 1 ≤ n ∧ n ≤ 14

/-- fN exists at the current length and at the new one (R150). -/
abbrev Survives (t : Ctx) (n : Nat) (r : BitVec 5) : Prop := FloatExists t r ∧ (r.toNat + 1) * (16 + 8 * n) ≤ 1024

/-- PREC of `t` with another LEN; LM stays (R149). -/
def precWith (t : Ctx) (n : Nat) : Word := wrap (t.prec.toNat / 2 ^ 4 * 2 ^ 4 + n : Nat)

/-- The rounding mode (R61, R170). -/
def modeOf (t : Ctx) : Nat := t.rmode.toNat % 8

/-- The VLF format of the current length: 15 exponent bits and 8·LEN fraction bits (R68). -/
def formatOf (t : Ctx) : Fmt := ⟨15, 8 * lenOf t⟩

/-- The pattern of fN: bits (N + 1)·W − 1 to N·W of the pool (R145). -/
def patternOf (t : Ctx) (r : BitVec 5) : Nat := t.pool.toNat / 2 ^ (r.toNat * bitsOf t) % 2 ^ bitsOf t

/-- The value of fN. -/
def valueOf (t : Ctx) (r : BitVec 5) : Machine.Num := (formatOf t).decode (patternOf t r)

/-- The flags that arose and are enabled in RMODE bits 12:8 (R65). -/
def enabledFlags (t : Ctx) (fl : Flag) : Flag := fl &&& BitVec.ofNat 7 (t.rmode.toNat / 2 ^ 8 % 32)

/-- Flags ORed into SATF of context `c` (R64). -/
def withFlags (s : State) (c : Nat) (fl : Flag) : State :=
  s.modCtx s.iss.core c fun t => { t with satf := t.satf ||| fl.setWidth 64 }

/-- fN of context `c` holds the pattern (R145). -/
def withFloat (s : State) (c : Nat) (r : BitVec 5) (v : Nat) : State :=
  s.modCtx s.iss.core c fun t => { t with pool := poolSet t.pool (lenOf t) r.toNat v }

/-- R151, R152: the three-register instructions: mode and format, the values of fa and fb and the old value of fd, and
the exact result with the flags of the operation itself, before rounding. -/
def floatTable : List ((BitVec 5 → BitVec 5 → BitVec 5 → Instr) × (Nat → Fmt → Machine.Num → Machine.Num → Machine.Num → Exact × Flag)) := [
  (.fadd, fun mode _ a b _ => addNum mode a b),
  (.fsub, fun mode _ a b _ => addNum mode a b.negate),
  (.fmul, fun _ _ a b _ => mulNum a b),
  (.fdiv, fun _ f a b _ => divNum f.frac a b),
  (.ffma, fun mode _ a b d => fmaNum mode a b d),
  (.fnma, fun mode _ a b d => fmaNum mode a.negate b d),
  (.fmin, fun _ _ a b _ => extremum false a b),
  (.fmax, fun _ _ a b _ => extremum true a b)]

/-- R153: the comparisons: when the relation holds of two numbers (by the sign of their difference), the answer for a
NaN, and whether a quiet NaN sets NV too. -/
def compareTable : List ((BitVec 6 → BitVec 5 → BitVec 5 → Instr) × (Int → Bool) × Bool × Bool) := [
  (.fcmpEq, fun d => decide (d = 0), false, false),
  (.fcmpLt, fun d => decide (d < 0), false, true),
  (.fcmpLe, fun d => decide (d ≤ 0), false, true),
  (.fcmpUn, fun _ => false, true, false)]

/-- R154: the class bit of a pattern of a VLF format with `n` fraction bits, from its sign, exponent and fraction. -/
def classBit (n v : Nat) : Nat :=
  let neg := v / 2 ^ (15 + n) % 2 = 1
  let e := v / 2 ^ n % 2 ^ 15
  let m := v % 2 ^ n
  if e = 2 ^ 15 - 1 then
    if m = 0 then (if neg then 0 else 7) else if m < 2 ^ (n - 1) then 8 else 9
  else if e = 0 then
    if m = 0 then (if neg then 3 else 4) else (if neg then 2 else 5)
  else if neg then 1 else 6

/-- R156: the conversions from a scalar: the value that s[ra] stands for. -/
def fromScalarTable : List ((BitVec 5 → BitVec 6 → Instr) × (Word → Machine.Num)) := [
  (.fcvtFS, fun a => Num.ofInt a.toInt),
  (.fcvtFU, fun a => Num.ofInt a.toNat),
  (.fcvtFH, fun a => (⟨5, 10⟩ : Fmt).decode (a.toNat % 2 ^ 16)),
  (.fcvtFBf, fun a => (⟨8, 7⟩ : Fmt).decode (a.toNat % 2 ^ 16)),
  (.fcvtFW, fun a => (⟨8, 23⟩ : Fmt).decode (a.toNat % 2 ^ 32)),
  (.fcvtFD, fun a => (⟨11, 52⟩ : Fmt).decode a.toNat)]

/-- R67, R156: the conversions to a scalar: the word and the flags that a value under a mode gives. -/
def toScalarTable : List ((BitVec 6 → BitVec 5 → Instr) × (Nat → Machine.Num → Word × Flag)) := [
  (.fcvtSF, fun mode a => (wrap (toInteger mode (-2 ^ 63) (2 ^ 63 - 1) a).1, (toInteger mode (-2 ^ 63) (2 ^ 63 - 1) a).2)),
  (.fcvtUF, fun mode a => (wrap (toInteger mode 0 (2 ^ 64 - 1) a).1, (toInteger mode 0 (2 ^ 64 - 1) a).2)),
  (.fcvtHF, fun mode a => (wrap ((⟨5, 10⟩ : Fmt).convert mode a).1, ((⟨5, 10⟩ : Fmt).convert mode a).2)),
  (.fcvtBfF, fun mode a => (wrap ((⟨8, 7⟩ : Fmt).convert mode a).1, ((⟨8, 7⟩ : Fmt).convert mode a).2)),
  (.fcvtWF, fun mode a => (wrap ((⟨8, 23⟩ : Fmt).convert mode a).1, ((⟨8, 23⟩ : Fmt).convert mode a).2)),
  (.fcvtDF, fun mode a => (wrap ((⟨11, 52⟩ : Fmt).convert mode a).1, ((⟨11, 52⟩ : Fmt).convert mode a).2))]

/-- The rational value of a finite number. -/
def ratOf (neg : Bool) (m : Nat) (e : Int) : ℚ := (if neg then -1 else 1) * (m : ℚ) * (2 : ℚ) ^ e

/-- What `setprec.keep` makes of fN at a new length: pattern and flags (R150). -/
def keptFloat (t : Ctx) (n : Nat) (r : BitVec 5) : Nat × Flag := (⟨15, 8 * n⟩ : Fmt).convert (modeOf t) (valueOf t r)

end Sys2Proof.Claims

/-- R60, R66, R67, R152, R154 to R156: `fneg` and `fabs` change the sign bit alone; `fround`, the conversions into
VLF and those from it write their value and OR their flags into SATF; `fclass` and `fmv.x` write s[rd]; `fmv.f`
replaces the named word of fd. R153: a comparison writes 1 to rd if its relation holds of the values, 0
otherwise; NaNs compare as the table says, and NV is set for a signalling NaN, and for any NaN in `lt` and `le`. -/
def Obligations.FloatMovesAndComparisons : Prop :=
  ((∀ (fd fa : BitVec 5) (s : State) (c : Nat) (t : Ctx), FloatReady s [fd, fa] c t →
     Machine.exec (.fneg fd fa) s =
       .next (retires (withFloat s c fd (patternOf t fa ^^^ 2 ^ (bitsOf t - 1))))) ∧
   (∀ (fd fa : BitVec 5) (s : State) (c : Nat) (t : Ctx), FloatReady s [fd, fa] c t →
     Machine.exec (.fabs fd fa) s = .next (retires (withFloat s c fd (patternOf t fa % 2 ^ (bitsOf t - 1))))) ∧
   (∀ (fd fa : BitVec 5) (s : State) (c : Nat) (t : Ctx) (r : Nat × Flag), FloatReady s [fd, fa] c t →
     r = roundIntegral (formatOf t) (modeOf t) (patternOf t fa) → enabledFlags t r.2 = 0#7 →
     Machine.exec (.fround fd fa) s = .next (retires (withFloat (withFlags s c r.2) c fd r.1))) ∧
   (∀ p ∈ fromScalarTable, ∀ (fd : BitVec 5) (ra : BitVec 6) (s s1 : State) (c : Nat) (t : Ctx) (a : Word)
       (r : Nat × Flag), FloatReady s [fd] c t → Gives (readS ra) s a s1 →
     r = (formatOf t).convert (modeOf t) (p.2 a) → enabledFlags t r.2 = 0#7 →
     Machine.exec (p.1 fd ra) s = .next (retires (withFloat (withFlags s1 c r.2) c fd r.1))) ∧
   (∀ p ∈ toScalarTable, ∀ (rd : BitVec 6) (fa : BitVec 5) (s s1 : State) (c : Nat) (t : Ctx), FloatReady s [fa] c t →
     Gives (writeS rd (p.2 (modeOf t) (valueOf t fa)).1) s () s1 →
     enabledFlags t (p.2 (modeOf t) (valueOf t fa)).2 = 0#7 →
     Machine.exec (p.1 rd fa) s = .next (retires (withFlags s1 c (p.2 (modeOf t) (valueOf t fa)).2))) ∧
   (∀ (rd : BitVec 6) (fa : BitVec 5) (s s1 : State) (c : Nat) (t : Ctx), FloatReady s [fa] c t →
     Gives (writeS rd (wrap (2 ^ classBit (8 * lenOf t) (patternOf t fa)))) s () s1 →
     Machine.exec (.fclass rd fa) s = .next (retires s1)) ∧
   (∀ (rd j : BitVec 6) (fa : BitVec 5) (s s1 : State) (c : Nat) (t : Ctx), FloatReady s [fa] c t → j.toNat ≤ 1 →
     Gives (writeS rd (wrap (patternOf t fa / 2 ^ (64 * j.toNat) : Nat))) s () s1 →
     Machine.exec (.fmvX rd fa j) s = .next (retires s1)) ∧
   (∀ (ra j : BitVec 6) (fd : BitVec 5) (s s1 : State) (c : Nat) (t : Ctx) (a : Word), FloatReady s [fd] c t →
     j.toNat ≤ 1 → Gives (readS ra) s a s1 →
     Machine.exec (.fmvF fd ra j) s = .next (retires (withFloat s1 c fd
       ((if j = 0 then patternOf t fd / 2 ^ 64 * 2 ^ 64 + a.toNat else patternOf t fd % 2 ^ 64 + a.toNat * 2 ^ 64)
         % 2 ^ bitsOf t))))) ∧
  (∀ p ∈ compareTable, ∀ (rd : BitVec 6) (fa fb : BitVec 5) (s s1 : State) (c : Nat) (t : Ctx) (nan : Bool) (fl : Flag),
     FloatReady s [fa, fb] c t → nan = ((valueOf t fa).isNan || (valueOf t fb).isNan) →
     fl = (if (if p.2.2.2 then nan else (valueOf t fa).isSignalling || (valueOf t fb).isSignalling) then 1#7 else 0#7) →
     enabledFlags t fl = 0#7 →
     Gives (writeS rd (oneIf ((if nan then p.2.2.1 else p.2.1 ((valueOf t fa).compare (valueOf t fb))) = true))) s () s1 →
     Machine.exec (p.1 rd fa fb) s = .next (retires (withFlags s1 c fl)))

/-- R149, R150, R65: `getprec` writes PREC to rd. `setprec.clear` does so, sets LEN to the new code, k8 or s[ra], and zeroes
the pool; LM and SATF stay. `setprec.keep` writes the old PREC to rd, sets LEN, gives every register that exists at both
lengths its conversion and the others of the new length zero, and ORs the flags of all of them into SATF; where an enabled
flag arises it takes the VLF arithmetic trap instead, with the lowest register that it arose for, and changes nothing
else; that FLTINFO names every flag that arose for that register is the model's choice (log 14; R65 says 'the flag'). s[ra] outside 1 to 14 is the illegal-operand fault with the value subcode. -/
def Obligations.SettingPrecision : Prop :=
  (∀ (rd : BitVec 6) (s s1 : State) (c : Nat) (t : Ctx), FloatReady s [] c t → FloatsWritten t →
    Gives (writeS rd t.prec) s () s1 → Machine.exec (.getprec rd) s = .next (retires s1)) ∧
  (∀ (rd ra : BitVec 6) (k : BitVec 8) (s s1 s2 : State) (c n : Nat) (t : Ctx), FloatReady s [] c t → FloatsWritten t →
    NewLength ra k s s1 n → Gives (writeS rd t.prec) s1 () s2 →
    Machine.exec (.setprecClear rd ra k) s = .next (retires (s2.modCtx s.iss.core c fun u =>
      { u with prec := precWith u n, pool := 0#1024 }))) ∧
  (∀ (rd ra : BitVec 6) (k : BitVec 8) (s s1 s2 : State) (c n : Nat) (t : Ctx), FloatReady s [] c t → FloatsWritten t →
    NewLength ra k s s1 n → Gives (writeS rd t.prec) s1 () s2 →
    (∀ r, Survives t n r → enabledFlags t (keptFloat t n r).2 = 0#7) →
    ∃ (pool : BitVec 1024) (fl : Flag),
      Machine.exec (.setprecKeep rd ra k) s = .next (retires (s2.modCtx s.iss.core c fun u =>
        { u with prec := precWith u n, pool := pool, satf := u.satf ||| fl.setWidth 64 })) ∧
      (∀ r : BitVec 5, (r.toNat + 1) * (16 + 8 * n) ≤ 1024 →
        pool.toNat / 2 ^ (r.toNat * (16 + 8 * n)) % 2 ^ (16 + 8 * n) = if FloatExists t r then (keptFloat t n r).1 else 0) ∧
      (∀ i : Nat, (∀ r : BitVec 5, (r.toNat + 1) * (16 + 8 * n) ≤ 1024 → (r.toNat + 1) * (16 + 8 * n) ≤ i) →
        pool.getLsbD i = false) ∧
      ∀ j : Nat, fl.getLsbD j = true ↔ ∃ r, Survives t n r ∧ (keptFloat t n r).2.getLsbD j = true) ∧
  (∀ (rd ra : BitVec 6) (k : BitVec 8) (s s1 s2 : State) (c n : Nat) (t : Ctx) (r : BitVec 5), FloatReady s [] c t →
    FloatsWritten t → NewLength ra k s s1 n → Gives (writeS rd t.prec) s1 () s2 → Survives t n r →
    enabledFlags t (keptFloat t n r).2 ≠ 0#7 →
    (∀ q : BitVec 5, q.toNat < r.toNat → Survives t n q → enabledFlags t (keptFloat t n q).2 = 0#7) →
    Machine.exec (.setprecKeep rd ra k) s =
      .next (s.takeTrap { cause := 0x07, info := wrap ((keptFloat t n r).2.toNat % 32 + 256 * r.toNat : Nat) })) ∧
  (∀ (rd ra : BitVec 6) (k : BitVec 8) (s s1 : State) (c : Nat) (t : Ctx) (a : Word), FloatReady s [] c t → ra ≠ 0 →
    Gives (readS ra) s a s1 → (a.toNat < 1 ∨ 14 < a.toNat) →
    Machine.exec (.setprecClear rd ra k) s = .next (s.takeTrap { cause := 0x04, info := 4#64 }) ∧
    Machine.exec (.setprecKeep rd ra k) s = .next (s.takeTrap { cause := 0x04, info := 4#64 }))

/-- R145, R151, R152: an instruction of the table whose registers exist and whose flags are not enabled to trap
writes its exact result, rounded once to the current length, to fd, ORs its flags into SATF and retires; so does
`fsqrt`. R65, R146, R180: a three-register float instruction that names a register that does not exist at LEN
takes the precision-exhausted trap, with the number and LEN in FLTINFO (the lowest such number, a choice of log
14); one whose flags are enabled takes the VLF arithmetic trap, with the flags in FLTINFO 4:0 and fd in 12:8.
Neither writes anything else. -/
def Obligations.FloatArithmetic : Prop :=
  ((∀ p ∈ floatTable, ∀ (fd fa fb : BitVec 5) (s : State) (c : Nat) (t : Ctx) (r : Nat × Flag),
     FloatReady s [fd, fa, fb] c t →
     r = (formatOf t).finish (modeOf t) (p.2 (modeOf t) (formatOf t) (valueOf t fa) (valueOf t fb) (valueOf t fd)) →
     enabledFlags t r.2 = 0#7 →
     Machine.exec (p.1 fd fa fb) s = .next (retires (withFloat (withFlags s c r.2) c fd r.1))) ∧
   (∀ (fd fa : BitVec 5) (s : State) (c : Nat) (t : Ctx) (r : Nat × Flag), FloatReady s [fd, fa] c t →
     r = (formatOf t).finish (modeOf t) (sqrtNum (8 * lenOf t) (valueOf t fa)) → enabledFlags t r.2 = 0#7 →
     Machine.exec (.fsqrt fd fa) s = .next (retires (withFloat (withFlags s c r.2) c fd r.1)))) ∧
  (∀ p ∈ floatTable, ∀ (fd fa fb : BitVec 5) (s : State) (t : Ctx), t = s.ctx s.iss.core (floatSelf s) →
     (∀ r ∈ [fd, fa, fb], ¬FloatExists t r → (∀ q ∈ [fd, fa, fb], ¬FloatExists t q → r.toNat ≤ q.toNat) →
       Machine.exec (p.1 fd fa fb) s = .next (s.takeTrap { cause := 0x03, info := wrap (r.toNat + 256 * lenOf t) })) ∧
     (∀ fl : Flag, FloatReady s [fd, fa, fb] (floatSelf s) t →
       fl = ((formatOf t).finish (modeOf t)
         (p.2 (modeOf t) (formatOf t) (valueOf t fa) (valueOf t fb) (valueOf t fd))).2 →
       enabledFlags t fl ≠ 0#7 →
       Machine.exec (p.1 fd fa fb) s =
         .next (s.takeTrap { cause := 0x07, info := wrap (fl.toNat % 32 + 256 * fd.toNat) })))

/-- R61, R63: a finite magnitude m · 2^e rounded into a format, where the result is finite: mode 1 does not go away
from zero, mode 2 not down, mode 3 not up; no value of the format lies strictly between the number and its
result; under modes 0 and 4 no value of the format is nearer; and NX is set exactly when the result differs from
the number. R63: the sum, the product and the fused product and sum of finite numbers are exact before they are
rounded, and set no flag. -/
def Obligations.RoundingIsCorrect : Prop :=
  (∀ (f : Fmt) (mode : Nat) (neg : Bool) (m : Nat) (e : Int) (n : Nat) (d : Int) (sgn : Bool), 2 ≤ f.exp → 1 ≤ f.frac →
     mode ≤ 4 → f.decode (f.roundMag mode neg m e false).1 = .fin sgn n d →
     sgn = neg ∧
     (mode = 1 → |ratOf neg n d| ≤ |ratOf neg m e|) ∧
     (mode = 2 → ratOf neg m e ≤ ratOf neg n d) ∧
     (mode = 3 → ratOf neg n d ≤ ratOf neg m e) ∧
     (∀ (v : Nat) (sg : Bool) (k : Nat) (x : Int), f.decode v = .fin sg k x →
       ¬(ratOf neg m e < ratOf sg k x ∧ ratOf sg k x < ratOf neg n d) ∧
       ¬(ratOf neg n d < ratOf sg k x ∧ ratOf sg k x < ratOf neg m e) ∧
       ((mode = 0 ∨ mode = 4) → |ratOf neg n d - ratOf neg m e| ≤ |ratOf sg k x - ratOf neg m e|)) ∧
     ((f.roundMag mode neg m e false).2.getLsbD 4 = true ↔ ratOf neg n d ≠ ratOf neg m e)) ∧
  (∀ (mode : Nat) (x y z : Bool) (a b c : Nat) (d e g : Int),
     (∃ (sg : Bool) (n : Nat) (k : Int), addNum mode (.fin x a d) (.fin y b e) = (.fin sg n k false, 0#7) ∧
       ratOf sg n k = ratOf x a d + ratOf y b e) ∧
     (∃ (sg : Bool) (n : Nat) (k : Int), mulNum (.fin x a d) (.fin y b e) = (.fin sg n k false, 0#7) ∧
       ratOf sg n k = ratOf x a d * ratOf y b e) ∧
     (∃ (sg : Bool) (n : Nat) (k : Int), fmaNum mode (.fin x a d) (.fin y b e) (.fin z c g) = (.fin sg n k false, 0#7) ∧
       ratOf sg n k = ratOf x a d * ratOf y b e + ratOf z c g))

/-! ## Memory and handles (R103, R129, R157 to R167, R219 to R239) -/

namespace Sys2Proof.Claims

/-- A little-endian number (R4). -/
def little (bs : List Byte) : Nat := bs.foldr (fun b n => b.toNat + 256 * n) 0

/-- The low `n` bytes of a number, least significant first (R4). -/
def lowBytes (n v : Nat) : List Byte := (List.range n).map fun i => BitVec.ofNat 8 (v / 256 ^ i)

/-- Effective address of an offset in the core's own tile (R127, R219). -/
def ownTile (off : Nat) : Word := wrap (0xF000000000000000 + off)

/-- The bytes of a core's tile from an offset on, identity words included (R222, R228). -/
def tileRun (s : State) (k off n : Nat) : List Byte := (List.range n).map fun i => s.tileByte k (off + i)

/-- Offsets `off` to `off + n − 1`. -/
def offsets (off n : Nat) : List Nat := (List.range n).map fun i => off + i

/-- No queued lane instruction of the context and no queued `mst` that a read of the offsets has to wait for (R277,
R313). -/
abbrev ReadClear (s : State) (off n : Nat) : Prop :=
  s.waitOver s.iss.core s.iss.ctx (.laneReads (offsets off n)) = true ∧ (selfCore s).bad = []

/-- The same for a store. -/
abbrev WriteClear (s : State) (off n : Nat) : Prop :=
  s.waitOver s.iss.core s.iss.ctx (.laneBytes (offsets off n)) = true

/-- R233: the loads, whether they extend the sign, and their length. -/
def loadTable : List ((BitVec 6 → BitVec 6 → BitVec 6 → BitVec 4 → Instr) × LoadForm × Nat × Bool) := [
  (.ldB, .signed, 1, false), (.ldBu, .unsigned, 1, false), (.ldH, .signed, 2, false), (.ldHu, .unsigned, 2, false),
  (.ldW, .signed, 4, false), (.ldWu, .unsigned, 4, false), (.ldD, .unsigned, 8, false), (.ldNt, .unsigned, 8, true)]

/-- R233: the register value of loaded bytes. -/
def loadedWord (f : LoadForm) (bs : List Byte) : Word :=
  if f = .signed ∧ 2 ^ (8 * bs.length) ≤ 2 * little bs then wrap ((little bs : Int) - 2 ^ (8 * bs.length))
  else wrap (little bs)

/-- R234: the stores and their length. -/
def storeTable : List ((BitVec 6 → BitVec 6 → BitVec 6 → Instr) × Nat) := [
  (.stB, 1), (.stH, 2), (.stW, 4), (.stD, 8), (.stNt, 8)]

/-- The instruction of `s` has retired in `t`, and its result `v`, known or not, is on its way to s[rd]: for s0 there is
none (R116), for s60 the last load-data entry holds it (R119), else the newest window does (R100). -/
def ScalarResult (s t : State) (rd : BitVec 6) (la : BitVec 4) (v : Option Word) : Prop :=
  t.iss.retired = true ∧
  (rd = 0#6 → (self t).windows = (self s).windows.map fun w => { w with count := w.count - 1 }) ∧
  (rd = 60#6 → ∃ id, (self t).ldq = (self s).ldq ++ [{ id, value := v }]) ∧
  (rd ≠ 0#6 → rd ≠ 60#6 → ∃ id, (self t).windows = ((self s).windows.map fun w => { w with count := w.count - 1 }) ++
    [{ file := .scalar, reg := rd.toNat, count := la.toNat, result := v.map (·.setWidth 256), id }])

/-- The same for a handle register. -/
def HandleResult (s t : State) (hd la : BitVec 4) (v : Option HandleBits) : Prop :=
  t.iss.retired = true ∧
  ∃ id, (self t).windows = ((self s).windows.map fun w => { w with count := w.count - 1 }) ++
    [{ file := .handle, reg := hd.toNat, count := la.toNat, result := v, id }]

/-- R146, R147, R159: the data of a float load of length code `l` may arrive after it has retired: no trap can follow from
them. That context 15 waits for its data is the model's choice (log 95). -/
abbrev FloatDeferred (s : State) (t : Ctx) (l : Nat) : Prop :=
  s.iss.ctx ≠ 15 ∧ (l ≤ lenOf t ∨ t.prec.getLsbD 4 = false) ∧ (l = lenOf t ∨ enabledFlags t 0x7F#7 = 0#7)

/-- R66, R157: a raw value of length code `l` brought to the length of the context. -/
def broughtFloat (t : Ctx) (mode l raw : Nat) : Nat × Flag :=
  if l = lenOf t then (raw, 0#7) else (formatOf t).convert mode ((⟨15, 8 * l⟩ : Fmt).decode raw)

/-- The float load of the length code `l` from `va` has issued in `s`, and its data are awaited: its access stands among
the pending ones of `t` (R147, R159). -/
def FloatAwaited (s t : State) (u : Ctx) (fd : BitVec 5) (l : Nat) (srcs : List Source) : Prop :=
  t.iss.retired = true ∧ ∃ q, (self t).pending = (self s).pending ++ [q] ∧ q.bytes = srcs ∧ q.ready = true ∧
    q.float = some { reg := fd.toNat, code := l, mode := modeOf u }

/-- The destination of a load. -/
def scalarDest (rd : BitVec 6) (la : BitVec 4) : Dest := { file := .scalar, reg := rd.toNat, la := la.toNat }

/-- Where a storing form of R157, R165 and R234 stores: `a` is its address and `n` its length, with its operands read in
the order the instruction reads them. -/
def StoresAt (i : Instr) (s : State) (a : Word) (n : Nat) : Prop :=
  (∃ p ∈ storeTable, ∃ (rd ra rb : BitVec 6) (d x y : Word) (s0 s1 s2 : State), i = p.1 rd ra rb ∧
    Gives (storeData rd) s d s0 ∧ Gives (readS ra) s0 x s1 ∧ Gives (readS rb) s1 y s2 ∧ a = x + y ∧ n = p.2) ∨
  (∃ (hd la : BitVec 4) (rs : BitVec 6) (s1 : State), i = .hst hd rs la ∧ Gives (readS rs) s a s1 ∧ n = 32) ∨
  (∃ (fd : BitVec 5) (ra : BitVec 6) (imm : BitVec 13) (x : Word) (s1 : State), i = .fst fd ra imm ∧
    Gives (readS ra) s x s1 ∧ a = x + wrap imm.toInt ∧ n = 3 + lenOf (s.ctx s.iss.core (floatSelf s)))

/-- R70, R157: the memory image of a VLF value: a header of LEN and class, then its pattern. -/
def vlfImage (k v : Nat) : List Byte :=
  let e := v / 2 ^ (8 * k) % 2 ^ 15
  let m := v % 2 ^ (8 * k)
  let cls := if e = 2 ^ 15 - 1 then (if m = 0 then 2 else 3) else if e = 0 ∧ m = 0 then 1 else 0
  lowBytes 1 (16 * k + cls) ++ lowBytes (2 + k) v

/-- R167: the bits that a selector names, the lowest and their number, and whether `hget` extends the sign. -/
def handleField (sel : Nat) : Option (Nat × Nat × Bool) :=
  match sel with
  | 0 => some (0, 48, false)
  | 1 => some (48, 6, false)
  | 2 => some (54, 2, false)
  | 3 => some (56, 4, false)
  | 4 => some (60, 3, false)
  | 5 => some (63, 1, false)
  | 8 => some (64, 16, false)
  | 9 => some (80, 16, false)
  | 10 => some (96, 16, false)
  | 11 => some (112, 16, false)
  | 12 => some (128, 24, true)
  | 13 => some (152, 24, true)
  | 14 => some (192, 24, true)
  | 15 => some (216, 24, true)
  | 16 => some (0, 64, false)
  | 17 => some (64, 64, false)
  | 18 => some (128, 64, false)
  | 19 => some (192, 64, false)
  | _ => none

/-- A field of a handle: the lowest bit and the number of bits (R161). -/
def part (h : HandleBits) (lo n : Nat) : Nat := h.toNat / 2 ^ lo % 2 ^ n

/-- R166: the base that a handle's base moves to; none where the move is a fault. -/
def movedBase (h : HandleBits) (delta : Int) : Option Nat :=
  let base := part h 0 48
  if part h 63 1 = 1 then none
  else if part h 44 4 = 15 then some (base / 2 ^ 20 * 2 ^ 20 + (((base % 2 ^ 20 : Nat) + delta) % 2 ^ 20).toNat)
  else if base + delta < 0 ∨ 0xEFFFFFFFFFFF < base + delta then none
  else some (base + delta).toNat

/-- R166: what `hdim` makes of a handle: its dimension `d` narrowed to `n` elements from `st` on. -/
def narrowed (h : HandleBits) (a : Word) : Option HandleBits :=
  let d := a.toNat % 4
  let ext := part h (64 + 16 * d) 16
  let lo := if d < 2 then 128 + 24 * d else 144 + 24 * d
  let stride : Int := if part h lo 24 < 2 ^ 23 then part h lo 24 else part h lo 24 - 2 ^ 24
  let st := min (a.toNat / 2 ^ 16 % 2 ^ 16) ext
  let n := min (a.toNat / 2 ^ 32 % 2 ^ 16) (ext - st)
  if part h 54 2 < d then none
  else (movedBase h (st * stride)).map fun b =>
    BitVec.ofNat 256 (h.toNat / 2 ^ (80 + 16 * d) * 2 ^ (80 + 16 * d) + n * 2 ^ (64 + 16 * d) +
      (h.toNat % 2 ^ (64 + 16 * d) / 2 ^ 48 * 2 ^ 48) + b)

end Sys2Proof.Claims

/-- R100, R101: immediately before an instruction issues, every window that holds no further instruction is closed and
no other one; none of them is closed while one of their results is awaited. -/
def Obligations.WindowsCloseBeforeIssue : Prop :=
  ∀ t : Ctx,
    (∀ u, t.beforeIssue = some u → u.windows = t.windows.filter (fun w => w.count != 0) ∧
      u.pc = t.pc ∧ u.ldq = t.ldq ∧ u.satf = t.satf ∧ u.state = t.state) ∧
    (t.beforeIssue = none ↔ ∃ w ∈ t.windows, w.count = 0 ∧ w.result = none) ∧
    (∀ (w : Window) (v : BitVec 256), t.windows = [w] → w.count = 0 → w.result = some v → w.file = .scalar →
      w.reg ≠ 0 → w.reg ≠ 61 → ∃ u, t.beforeIssue = some u ∧ u.scalar w.reg = v.setWidth 64)

/-- R233, R236: a load from the core's own tile completes at once, with the little-endian value of its bytes, extended as
the instruction says. -/
def Obligations.TileLoads : Prop :=
  ∀ p ∈ loadTable, ∀ (rd ra rb : BitVec 6) (la : BitVec 4) (s s0 s1 s2 : State) (a b : Word) (off : Nat),
    Gives (makeRoomFor (scalarDest rd la)) s () s0 → Gives (readS ra) s0 a s1 → Gives (readS rb) s1 b s2 →
    a + b = ownTile off → off + p.2.2.1 ≤ 2 ^ 20 → ReadClear s2 off p.2.2.1 →
    (rd = 60#6 → (self s2).ldq.length < 16) →
    ∃ t, Machine.exec (p.1 rd ra rb la) s = .next t ∧
      ScalarResult s2 t rd la (some (loadedWord p.2.1 (tileRun s2 s.iss.core off p.2.2.1)))

/-- R119, R165, R233, R235, R240: a load whose bytes translate, and do not all come at once, retires; its result is
awaited, and the access stands among the context's pending ones with the bytes it will read. -/
def Obligations.GlobalLoads : Prop :=
  (∀ p ∈ loadTable, ∀ (rd ra rb : BitVec 6) (la : BitVec 4) (s s0 s1 s2 s3 s4 : State) (a b : Word)
      (refs : List ByteRef) (srcs : List Source),
    Gives (makeRoomFor (scalarDest rd la)) s () s0 → Gives (readS ra) s0 a s1 → Gives (readS rb) s1 b s2 →
    Gives (accessRefs .read p.2.2.1 (a + b) false) s2 refs s3 → (rd = 60#6 → (self s3).ldq.length < 16) →
    Gives (readRefs (a + b) refs) s3 srcs s4 → atHand s.iss.core srcs = false →
    ∃ t q, Machine.exec (p.1 rd ra rb la) s = .next t ∧ ScalarResult s4 t rd la none ∧
      (self t).pending = (self s4).pending ++ [q] ∧ q.bytes = srcs ∧ q.form = p.2.1 ∧ q.nt = p.2.2.2 ∧ q.ready = true) ∧
  (∀ (hd la : BitVec 4) (rs : BitVec 6) (s s0 s1 s3 s4 : State) (a : Word) (refs : List ByteRef) (srcs : List Source),
    Gives (makeRoomFor { file := .handle, reg := hd.toNat, la := la.toNat }) s () s0 → Gives (readS rs) s0 a s1 →
    Gives (accessRefs .read 32 a false) s1 refs s3 → Gives (readRefs a refs) s3 srcs s4 →
    atHand s.iss.core srcs = false →
    ∃ t q, Machine.exec (.hld hd rs la) s = .next t ∧ HandleResult s4 t hd la none ∧
      (self t).pending = (self s4).pending ++ [q] ∧ q.bytes = srcs ∧ q.form = .handle)

/-- R228, R234, R236: a store to the core's own tile writes the low bytes of its data, least significant first, at
once; a byte of the identity words is dropped; every other byte of the tile is as before. R120, R234: the data
of a store: s61 claims the head of the store-data queue, and with none there it is the illegal-operand fault
with subcode 2; any other field is read as a register. -/
def Obligations.TileStores : Prop :=
  (∀ p ∈ storeTable, ∀ (rd ra rb : BitVec 6) (s s0 s1 s2 : State) (d a b : Word) (off : Nat),
     Gives (storeData rd) s d s0 → Gives (readS ra) s0 a s1 → Gives (readS rb) s1 b s2 →
     a + b = ownTile off → off + p.2 ≤ 2 ^ 20 → WriteClear s2 off p.2 → (selfCore s).tile.wf = true →
     ∃ t, Machine.exec (p.1 rd ra rb) s = .next t ∧ t.iss.retired = true ∧
       ∀ o, Memory.read (selfCore t).tile o =
         if off ≤ o ∧ o < off + p.2 ∧ ¬(0x7C0 ≤ o ∧ o < 0x800) then BitVec.ofNat 8 (d.toNat / 256 ^ (o - off))
         else Memory.read (selfCore s).tile o) ∧
  ((∀ (s : State) (v : Word) (rest : List Word), (self s).stq = v :: rest →
     Gives (storeData 61#6) s v (s.modCtx s.iss.core s.iss.ctx fun t => { t with stq := rest })) ∧
   (∀ s : State, (self s).stq = [] → Stops (storeData 61#6) s (.trap { cause := 0x04, info := 2#64 })) ∧
   (∀ (s t : State) (r : BitVec 6) (v : Word), r ≠ 61#6 → (Gives (storeData r) s v t ↔ Gives (readS r) s v t)))

/-- R219, R234, R235, R252: what a retiring store leaves unchanged: HBM (its bytes are only on their way to their home),
every other core's tile, and in the own tile every byte outside the ones it addresses; scalar, float and handle
registers, but for the queues, and the core's registers. -/
def Obligations.StoreFrame : Prop :=
  ∀ (i : Instr) (s t : State) (a : Word) (n : Nat), StoresAt i s a n → (selfCore s).tile.wf = true →
    Machine.exec i s = .next t → t.iss.retired = true → s.iss.retired = false →
    (∀ x, t.hbmByte x = s.hbmByte x) ∧
    (∀ k, k ≠ s.iss.core → (t.core k).tile = (s.core k).tile) ∧
    (∀ o, (∀ j, j < n → s.region s.iss.core (a + wrap j) ≠ .tile s.iss.core o) →
      Memory.read (selfCore t).tile o = Memory.read (selfCore s).tile o) ∧
    (∀ r, (self t).scalar r = (self s).scalar r) ∧ (∀ r, (self t).handle r = (self s).handle r) ∧
    (self t).pool = (self s).pool ∧ SameCoreRegisters (selfCore s) (selfCore t)

/-- R234, R235, R252: a store whose bytes all translate to this package's HBM retires with its bytes in the core's store
path, behind every earlier store. -/
def Obligations.GlobalStores : Prop :=
  ∀ p ∈ storeTable, p.1 0 0 0 ≠ .stNt 0 0 0 →
    ∀ (rd ra rb : BitVec 6) (s s0 s1 s2 s3 : State) (d a b : Word) (refs : List ByteRef) (pas : List Nat),
    Gives (storeData rd) s d s0 → Gives (readS ra) s0 a s1 → Gives (readS rb) s1 b s2 →
    Gives (accessRefs .write p.2 (a + b) true) s2 refs s3 → refs = pas.map ByteRef.hbm → pas.length = p.2 →
    s3.waitOver s.iss.core s.iss.ctx (.globalBytes pas) = true → (selfCore s3).nt = [] →
    ∃ t e, Machine.exec (p.1 rd ra rb) s = .next t ∧ t.iss.retired = true ∧
      (selfCore t).stores = (selfCore s3).stores ++ [e] ∧ e.ctx = s.iss.ctx ∧ e.seq = (selfCore s3).seq ∧ e.nt = false ∧
      e.asid = (selfCore s).asid.toNat ∧ e.bytes = pas.zip (lowBytes p.2 d.toNat)

/-- R147, R230, R238 to R240, R252, R253: the steps by which memory is reached. LOAD_DATA_ARRIVAL: the bytes of a pending
load that may be read now fill its window or load-data entry, or its float register at the context's length with the flags
of that, and it is pending no more. HOME_CACHE_WRITE: a store at the
front of its bytes' order is performed: those bytes of HBM take its data, and no others change. NT_LINE_WRITE_OUT: a full
non-temporal line for this package's memory leaves the buffer for the store path. -/
def Obligations.MemorySteps : Prop :=
  (∀ (s s1 : State) (p : Pending) (bs : List Byte),
    (s.ctx s.input.core s.input.ctx).pending[s.input.n]? = some p → p.ready = true →
    (∀ q ∈ (s.ctx s.input.core s.input.ctx).pending, q.seq < p.seq → ∀ b ∈ p.bytes, b ∈ q.bytes →
      (∃ v, b = .known v) ∨ ∃ off, b = .tile s.input.core off) →
    Gives (readNow s.input.core s.input.ctx p.seq p.bytes p.nt) s bs s1 →
    ∃ u, Machine.exec .loadDataArrival s = .next u ∧
      (u.ctx s.input.core s.input.ctx).pending = dropNth (s1.ctx s.input.core s.input.ctx).pending s.input.n ∧
      (∀ (f : FloatLoad) (r : Nat × Flag), p.float = some f →
        r = broughtFloat (s1.ctx s.input.core s.input.ctx) f.mode f.code (little bs) →
        (u.ctx s.input.core s.input.ctx).pool = poolSet (s1.ctx s.input.core s.input.ctx).pool
          (lenOf (s1.ctx s.input.core s.input.ctx)) f.reg r.1 ∧
        (u.ctx s.input.core s.input.ctx).satf =
          (s1.ctx s.input.core s.input.ctx).satf ||| p.flags.setWidth 64 ||| r.2.setWidth 64) ∧
      (p.float = none → (u.ctx s.input.core s.input.ctx).windows = (s1.ctx s.input.core s.input.ctx).windows.map
        (fun w => if w.id = p.id then { w with result := some (p.form.value bs) } else w) ∧
      (u.ctx s.input.core s.input.ctx).ldq = (s1.ctx s.input.core s.input.ctx).ldq.map
        (fun e => if e.id = p.id then { e with value := some ((p.form.value bs).setWidth 64) } else e))) ∧
  (∀ (s : State) (e : Store), (s.core s.input.core).stores[s.input.n]? = some e → s.hbm.wf = true →
    (∀ f ∈ (s.core s.input.core).stores.take s.input.n, ∀ b ∈ f.bytes, ∀ c ∈ e.bytes, b.1 ≠ c.1) →
    (s.core s.input.core).readsBefore e = false →
    (∀ b ∈ e.bytes, s.stackReady (stackOf b.1) = true ∧ stackOf b.1 ∉ s.failedStacks) →
    (e.bytes.map (·.1)).Nodup →
    ∃ u, Machine.exec .homeCacheWrite s = .next u ∧
      (u.core s.input.core).stores = dropNth (s.core s.input.core).stores s.input.n ∧
      (∀ b ∈ e.bytes, Memory.read u.hbm b.1 = b.2) ∧
      (∀ a, (∀ b ∈ e.bytes, b.1 ≠ a) → Memory.read u.hbm a = Memory.read s.hbm a)) ∧
  (∀ (s : State) (l : NtLine), (s.core s.input.core).nt[s.input.n]? = some l → l.bytes.length = 64 → l.node = none →
    ∃ u e, Machine.exec .ntLineWriteOut s = .next u ∧
      (u.core s.input.core).nt = (s.core s.input.core).nt.filter (fun m => m.id != l.id) ∧
      (u.core s.input.core).stores = (s.core s.input.core).stores ++ [e] ∧
      e.ctx = l.ctxs.headD 0 ∧ e.nt = true ∧ e.bytes = l.bytes.map fun b => (l.pa * 64 + b.1, b.2))

/-- R103, R129, R228, R239: `ldk` and `addk` read word k of the constant window, the tile's words 0 to 255 with the
identity words in the last eight; `pf` retires, and brings the line of its address into its home's cache, if it
translates; nothing else but the TLBs and caches that the translation reads changes. R235, R237: `n` bytes read in program order from the own tile are the tile's; bytes stored to the own tile are the tile's from then on. -/
def Obligations.TileReadsAndWrites : Prop :=
  ((∀ (rd : BitVec 6) (k : BitVec 8) (s s1 : State), ReadClear s (8 * k.toNat) 8 →
     Gives (writeS rd (wrap (little (tileRun s s.iss.core (8 * k.toNat) 8)))) s () s1 →
     Machine.exec (.ldk rd k) s = .next (retires s1)) ∧
   (∀ (rd ra : BitVec 6) (k : BitVec 8) (s s1 s2 : State) (a : Word), Gives (readS ra) s a s1 →
     ReadClear s1 (8 * k.toNat) 8 →
     Gives (writeS rd (a + wrap (little (tileRun s1 s.iss.core (8 * k.toNat) 8)))) s1 () s2 →
     Machine.exec (.addk rd ra k) s = .next (retires s2)) ∧
   (∀ (ra rb : BitVec 6) (s s1 s2 : State) (a b : Word), Gives (readS ra) s a s1 → Gives (readS rb) s1 b s2 →
     ∃ t, Machine.exec (.pf ra rb) s = .next t ∧ t.iss.retired = true ∧ SameMemory s t ∧
       (∀ r, (self t).scalar r = (self s2).scalar r) ∧
       (∀ (va pa : Nat) (e : TlbEntry) (s3 : State), s2.region s.iss.core (a + b) = .virtual va →
         s2.lookup s.iss.core (selfCore s).asid.toNat va = (.leaf e, s3) →
         s3.placeOf e (selfCore s).asid.toNat va .read = .ok (.here pa) →
         t = retires (s3.touch pa true) ∧ pa / 64 ∈ (t.die (homeDie pa)).cache) ∧
       (∀ k, k ≠ s.iss.core → t.core k = s.core k) ∧ (∀ c, c ≠ s.iss.ctx → t.ctx s.iss.core c = s.ctx s.iss.core c) ∧
       SameCoreRegisters (selfCore s) (t.core s.iss.core) ∧ SameButScalars (self s2) (t.ctx s.iss.core s.iss.ctx) ∧
       (∀ d, { t.die d with tlb := (s.die d).tlb, cache := (s.die d).cache } = s.die d) ∧
       t.master = s.master)) ∧
  ((∀ (s : State) (off n : Nat), off + n ≤ 2 ^ 20 → ReadClear s off n →
     Gives (readBytes n (ownTile off)) s (tileRun s s.iss.core off n) s) ∧
   (∀ (s : State) (off : Nat) (data : List Byte), off + data.length ≤ 2 ^ 20 → WriteClear s off data.length →
     (selfCore s).tile.wf = true → ∃ t, Gives (storeBytes (ownTile off) data) s () t ∧
       ∀ o, Memory.read (selfCore t).tile o =
         if off ≤ o ∧ o < off + data.length ∧ ¬(0x7C0 ≤ o ∧ o < 0x800) then data.getD (o - off) 0#8
         else Memory.read (selfCore s).tile o))

/-- R70, R147, R157 to R159: `fld` reads a header and, where its length code is 1 to 14, that many bytes and 2 more: a
value of the current length is taken as it is, another one is converted, and a header without a length gives the default
NaN and NV; `fldr` reads the bytes of its literal's length. Where bytes lie beyond the core and no trap can follow from
them, the load retires and they are awaited; that context 15 waits for its data instead is the model's choice (log 95). `fst` and `fstr` store the value with its header, or at the literal's
length without one. -/
def Obligations.FloatLoadsAndStores : Prop :=
  (∀ (fd : BitVec 5) (ra : BitVec 6) (imm : BitVec 13) (s s1 s2 : State) (c : Nat) (t : Ctx) (a b : Word) (h : Byte),
    FloatReady s [fd] c t → Gives (readS ra) s b s1 → a = b + wrap imm.toInt → Gives (readBytes 1 a) s1 [h] s2 →
    ((h.toNat / 16 = 0 ∨ h.toNat / 16 = 15) → enabledFlags t 1#7 = 0#7 →
      Machine.exec (.fld fd ra imm) s = .next (retires (withFloat (withFlags s2 c 1#7) c fd (formatOf t).nan))) ∧
    (h.toNat / 16 ≠ 0 → h.toNat / 16 ≠ 15 → ∀ (refs : List ByteRef) (s3 : State),
      Gives (accessRefs .read (h.toNat / 16 + 2) (a + 1) false) s2 refs s3 →
      (∀ (s4 : State) (raw : List Byte) (r : Nat × Flag),
        (¬FloatDeferred s t (h.toNat / 16) ∨ refs.any (ByteRef.far s.iss.core) = false) →
        Gives (readBytes (h.toNat / 16 + 2) (a + 1)) s3 raw s4 →
        r = broughtFloat t (modeOf t) (h.toNat / 16) (little raw) →
        (h.toNat / 16 ≤ lenOf t ∨ t.prec.getLsbD 4 = false) → enabledFlags t r.2 = 0#7 →
        Machine.exec (.fld fd ra imm) s = .next (retires (withFloat (withFlags s4 c r.2) c fd r.1))) ∧
      (∀ (s4 : State) (srcs : List Source), FloatDeferred s t (h.toNat / 16) → refs.any (ByteRef.far s.iss.core) = true →
        Gives (readRefs (a + 1) refs) s3 srcs s4 →
        ∃ u, Machine.exec (.fld fd ra imm) s = .next u ∧ FloatAwaited s4 u t fd (h.toNat / 16) srcs))) ∧
  (∀ (fd : BitVec 5) (ra : BitVec 6) (k : BitVec 8) (s s1 s2 : State) (c : Nat) (t : Ctx) (a : Word)
      (refs : List ByteRef), FloatReady s [fd] c t → 1 ≤ k.toNat → k.toNat ≤ 14 → Gives (readS ra) s a s1 →
    Gives (accessRefs .read (k.toNat + 2) a false) s1 refs s2 →
    (∀ (s3 : State) (raw : List Byte) (r : Nat × Flag),
      (¬FloatDeferred s t k.toNat ∨ refs.any (ByteRef.far s.iss.core) = false) → Gives (readBytes (k.toNat + 2) a) s2 raw s3 →
      r = broughtFloat t (modeOf t) k.toNat (little raw) → (k.toNat ≤ lenOf t ∨ t.prec.getLsbD 4 = false) →
      enabledFlags t r.2 = 0#7 →
      Machine.exec (.fldr fd ra k) s = .next (retires (withFloat (withFlags s3 c r.2) c fd r.1))) ∧
    (∀ (s3 : State) (srcs : List Source), FloatDeferred s t k.toNat → refs.any (ByteRef.far s.iss.core) = true →
      Gives (readRefs a refs) s2 srcs s3 →
      ∃ u, Machine.exec (.fldr fd ra k) s = .next u ∧ FloatAwaited s3 u t fd k.toNat srcs)) ∧
  (∀ (fd : BitVec 5) (ra : BitVec 6) (imm : BitVec 13) (s s1 s2 : State) (c : Nat) (t : Ctx) (b : Word),
    FloatReady s [fd] c t → 1 ≤ lenOf t → lenOf t ≤ 14 → Gives (readS ra) s b s1 →
    Gives (storeBytes (b + wrap imm.toInt) (vlfImage (lenOf t) (patternOf t fd))) s1 () s2 →
    Machine.exec (.fst fd ra imm) s = .next (retires s2)) ∧
  (∀ (fd : BitVec 5) (ra : BitVec 6) (k : BitVec 8) (s s1 s2 : State) (c : Nat) (t : Ctx) (a : Word) (r : Nat × Flag),
    FloatReady s [fd] c t → 1 ≤ k.toNat → k.toNat ≤ 14 → Gives (readS ra) s a s1 →
    r = (if k.toNat = lenOf t then (patternOf t fd, 0#7)
      else (⟨15, 8 * k.toNat⟩ : Fmt).convert (modeOf t) (valueOf t fd)) → enabledFlags t r.2 = 0#7 →
    Gives (storeBytes a (lowBytes (k.toNat + 2) r.1)) (withFlags s1 c r.2) () s2 →
    Machine.exec (.fstr fd ra k) s = .next (retires s2))

/-- R161, R165 to R167: `hset` and `hget` write and read the field that their selector names; `hadv` moves the base, and
`hdim` narrows a dimension too, or is the value fault where the base cannot move or the dimension is not used; `hst`
stores the 32 bytes of the handle, and `hld` from the own tile loads them. -/
def Obligations.HandleInstructions : Prop :=
  (∀ (hd : BitVec 4) (ra : BitVec 6) (k : BitVec 8) (s s1 : State) (a : Word) (lo n : Nat) (sx : Bool),
    Gives (readS ra) s a s1 → handleField k.toNat = some (lo, n, sx) →
    ∃ t, Machine.exec (.hset hd ra k) s = .next t ∧ t.iss.retired = true ∧
      (∀ i, i < 256 → ((self t).handle hd.toNat).getLsbD i =
        if lo ≤ i ∧ i < lo + n then a.getLsbD (i - lo) else ((self s).handle hd.toNat).getLsbD i) ∧
      (∀ r, r ≠ hd.toNat → (self t).handle r = (self s).handle r)) ∧
  (∀ (rd : BitVec 6) (ha : BitVec 4) (k : BitVec 8) (s s1 : State) (v : Word) (lo n : Nat) (sx : Bool),
    handleField k.toNat = some (lo, n, sx) →
    (∀ i, i < 64 → v.getLsbD i = if i < n then ((self s).handle ha.toNat).getLsbD (lo + i)
      else (sx && ((self s).handle ha.toNat).getLsbD (lo + n - 1))) →
    Gives (writeS rd v) s () s1 → Machine.exec (.hget rd ha k) s = .next (retires s1)) ∧
  (∀ (hd ha la : BitVec 4) (rs : BitVec 6) (s s0 s1 : State) (a : Word), Gives makeRoom s () s0 →
    Gives (readS rs) s0 a s1 →
    (∀ b, movedBase ((self s1).handle ha.toNat) a.toInt = some b → ∃ t, Machine.exec (.hadv hd ha rs la) s = .next t ∧
      HandleResult s1 t hd la (some (BitVec.ofNat 256 (((self s1).handle ha.toNat).toNat / 2 ^ 48 * 2 ^ 48 + b)))) ∧
    (movedBase ((self s1).handle ha.toNat) a.toInt = none →
      Machine.exec (.hadv hd ha rs la) s = .next (s.takeTrap { cause := 0x04, info := 4#64 }))) ∧
  (∀ (hd ha la : BitVec 4) (rs : BitVec 6) (s s0 s1 : State) (a : Word), Gives makeRoom s () s0 →
    Gives (readS rs) s0 a s1 →
    (∀ h, narrowed ((self s1).handle ha.toNat) a = some h → ∃ t, Machine.exec (.hdim hd ha rs la) s = .next t ∧
      HandleResult s1 t hd la (some h)) ∧
    (narrowed ((self s1).handle ha.toNat) a = none →
      Machine.exec (.hdim hd ha rs la) s = .next (s.takeTrap { cause := 0x04, info := 4#64 }))) ∧
  (∀ (hd la : BitVec 4) (rs : BitVec 6) (s s1 s2 : State) (a : Word), Gives (readS rs) s a s1 →
    Gives (storeBytes a (lowBytes 32 ((self s).handle hd.toNat).toNat)) s1 () s2 →
    Machine.exec (.hst hd rs la) s = .next (retires s2)) ∧
  (∀ (hd la : BitVec 4) (rs : BitVec 6) (s s0 s1 : State) (off : Nat),
    Gives (makeRoomFor { file := .handle, reg := hd.toNat, la := la.toNat }) s () s0 →
    Gives (readS rs) s0 (ownTile off) s1 → off + 32 ≤ 2 ^ 20 → ReadClear s1 off 32 →
    ∃ t, Machine.exec (.hld hd rs la) s = .next t ∧
      HandleResult s1 t hd la (some (BitVec.ofNat 256 (little (tileRun s1 s.iss.core off 32)))))

/-- R219 to R221: the four kinds of effective address: the own tile, a peer's tile (out of range when the peer is
not enabled), the rest of tile space (out of range), the 56-bit virtual space, and what lies between (unmapped).
R180, R235, R236, R377, R378: a load or store whose lowest byte's translation fails takes the operand fault: FLTADDR
is that byte's address, FLTINFO its kind with bit 2 for a store; what the failing walk left in the TLBs and the caches
stays. -/
def Obligations.AddressSpaces : Prop :=
  (∀ (s : State) (k : Nat) (a : Word),
     (∀ off : Nat, off < 2 ^ 20 → a = ownTile off → s.region k a = .tile k off) ∧
     (∀ cc off : Nat, cc < 32 → off < 2 ^ 20 → a = wrap (0xF100000000000000 + cc * 2 ^ 48 + off) →
       s.region k a = if s.enabled (peerOf k cc) then .tile (peerOf k cc) off else .outside) ∧
     (a.toNat < 2 ^ 56 → s.region k a = .virtual a.toNat) ∧
     (2 ^ 56 ≤ a.toNat → a.toNat < 0xF * 2 ^ 60 → s.region k a = .unmapped) ∧
     (0xF * 2 ^ 60 + 2 ^ 20 ≤ a.toNat → a.toNat < 0xF1 * 2 ^ 56 → s.region k a = .outside) ∧
     (0xF1 * 2 ^ 56 ≤ a.toNat → a.toNat < 0xF1 * 2 ^ 56 + 32 * 2 ^ 48 → 2 ^ 20 ≤ a.toNat % 2 ^ 48 →
       s.region k a = .outside) ∧
     (0xF1 * 2 ^ 56 + 32 * 2 ^ 48 ≤ a.toNat → s.region k a = .outside)) ∧
  ((∀ p ∈ loadTable, ∀ (rd ra rb : BitVec 6) (la : BitVec 4) (s s0 s1 s2 s3 : State) (a b : Word) (kind : Nat),
     Gives (makeRoomFor (scalarDest rd la)) s () s0 → Gives (readS ra) s0 a s1 → Gives (readS rb) s1 b s2 →
     Gives (refByte s.iss.core (selfCore s).asid.toNat .read (a + b)) s2 (.error kind) s3 →
     Machine.exec (p.1 rd ra rb la) s =
       .next ((s.withWalks s3 s.iss.core).takeTrap { cause := 0x06, addr := a + b, info := wrap kind })) ∧
   (∀ p ∈ storeTable, ∀ (rd ra rb : BitVec 6) (s s0 s1 s2 s3 : State) (d a b : Word) (kind : Nat),
     Gives (storeData rd) s d s0 → Gives (readS ra) s0 a s1 → Gives (readS rb) s1 b s2 →
     Gives (refByte s.iss.core (selfCore s).asid.toNat .write (a + b)) s2 (.error kind) s3 →
     Machine.exec (p.1 rd ra rb) s =
       .next ((s.withWalks s3 s.iss.core).takeTrap { cause := 0x06, addr := a + b, info := wrap (kind + 4 : Nat) })))

/-! ## The vector unit (R90, R91, R271 to R298) -/

namespace Sys2Proof.Claims

/-- What a lane instruction enters into the queue, the operands whose content is checked, and whether the counts and
formats fit together. -/
structure LaneShape where
  entry : LaneEntry
  uses : List LaneUse
  fits : Bool

/-- hd := a op b, elementwise: `op` is the operation's 32-bit form. -/
def binaryShape (op : Instr) (okA : Kind → Bool) (d a b : HandleBits) (srcs : List HandleBits) : LaneShape where
  entry := { instr := op, hd := d, ha := a, hb := b, srcs }
  uses := [⟨d, true, arithKind⟩, ⟨a, false, okA⟩, ⟨b, false, arithKind⟩]
  fits := (hCount a == hCount d || hCount a == 1) && (hCount b == hCount d || hCount b == 1)

/-- Variant 0b10: hd := hd op element 0 of ha (R91). -/
def firstShape (op : Instr) (okA : Kind → Bool) (d a : HandleBits) : LaneShape where
  entry := { instr := op, hd := d, ha := d, hb := firstElement a, srcs := [a] }
  uses := [⟨d, true, arithKind⟩, ⟨d, false, okA⟩, ⟨a, false, arithKind⟩, ⟨firstElement a, false, arithKind⟩]
  fits := hCount a != 0 && hCount (firstElement a) == 1

/-- hd := f(ha), elementwise. -/
def unaryShape (op : Instr) (ok : Kind → Bool) (d a : HandleBits) : LaneShape where
  entry := { instr := op, hd := d, ha := a, srcs := [a] }
  uses := [⟨d, true, ok⟩, ⟨a, false, ok⟩]
  fits := hCount a == hCount d || hCount a == 1

/-- hd := a op b on integers (R287). -/
def integerShape (op : Instr) (both : Bool) (d a b : HandleBits) : LaneShape where
  entry := { instr := op, hd := d, ha := a, hb := b, srcs := [a, b] }
  uses := [⟨d, true, intKind⟩, ⟨a, false, intKind⟩, ⟨b, false, intKind⟩]
  fits := sameFormat d a && (!both || sameFormat d b) && (hCount a == hCount d || hCount a == 1) &&
    (hCount b == hCount d || hCount b == 1)

/-- hd := the reduction of ha over `r` (R291). -/
def reductionShape (op : Instr) (d a : HandleBits) (r : Word) : LaneShape where
  entry := { instr := op, hd := d, ha := a, s := r, srcs := [a] }
  uses := [⟨d, true, arithKind⟩, ⟨a, false, arithKind⟩]
  fits := decide (r.toNat < 3) && hCount d == groupCount a r.toNat && (!(kind a).isInt || (kind d).isInt)

/-- R286: conversions and copies. -/
def moveShape (op : Instr) (ok : Kind → Bool) (d a : HandleBits) (s : Word) (fits : Bool) : LaneShape where
  entry := { instr := op, hd := d, ha := a, s, srcs := [a] }
  uses := [⟨d, true, ok⟩, ⟨a, false, ok⟩]
  fits := fits

/-- A destination is in the core's own tile, a channel, or the tile of a site that is not there (R219, R221, R271). -/
def outHere (s : State) (h : HandleBits) : Bool :=
  hChan h || !hPeer h || peerOf s.iss.core (hfield h 40 36) == s.iss.core || !s.enabled (peerOf s.iss.core (hfield h 40 36))

/-- R91, R280 to R294: what each lane instruction without a scalar result enters, for a context `t`, with `v` the value of
its scalar operand. -/
def laneShape (t : Ctx) (v : Word) (i : Instr) : Option LaneShape :=
  let h := fun (n : BitVec 4) => t.handle n.toNat
  match i with
  | .vadd hd ha hb _ => some (binaryShape (.vadd 0 0 0 0) arithKind (h hd) (h ha) (h hb) [h ha, h hb])
  | .vadd16 hd ha => some (binaryShape (.vadd 0 0 0 0) arithKind (h hd) (h hd) (h ha) [h hd, h ha])
  | .vaddR hd ha => some (binaryShape (.vadd 0 0 0 0) arithKind (h hd) (h ha) (h hd) [h ha, h hd])
  | .vaddB hd ha => some (firstShape (.vadd 0 0 0 0) arithKind (h hd) (h ha))
  | .vsub hd ha hb _ => some (binaryShape (.vsub 0 0 0 0) arithKind (h hd) (h ha) (h hb) [h ha, h hb])
  | .vsub16 hd ha => some (binaryShape (.vsub 0 0 0 0) arithKind (h hd) (h hd) (h ha) [h hd, h ha])
  | .vsubR hd ha => some (binaryShape (.vsub 0 0 0 0) arithKind (h hd) (h ha) (h hd) [h ha, h hd])
  | .vsubB hd ha => some (firstShape (.vsub 0 0 0 0) arithKind (h hd) (h ha))
  | .vmul hd ha hb _ => some (binaryShape (.vmul 0 0 0 0) arithKind (h hd) (h ha) (h hb) [h ha, h hb])
  | .vmul16 hd ha => some (binaryShape (.vmul 0 0 0 0) arithKind (h hd) (h hd) (h ha) [h hd, h ha])
  | .vmulR hd ha => some (binaryShape (.vmul 0 0 0 0) arithKind (h hd) (h ha) (h hd) [h ha, h hd])
  | .vmulB hd ha => some (firstShape (.vmul 0 0 0 0) arithKind (h hd) (h ha))
  | .vmin hd ha hb _ => some (binaryShape (.vmin 0 0 0 0) arithKind (h hd) (h ha) (h hb) [h ha, h hb])
  | .vmin16 hd ha => some (binaryShape (.vmin 0 0 0 0) arithKind (h hd) (h hd) (h ha) [h hd, h ha])
  | .vminR hd ha => some (binaryShape (.vmin 0 0 0 0) arithKind (h hd) (h ha) (h hd) [h ha, h hd])
  | .vminB hd ha => some (firstShape (.vmin 0 0 0 0) arithKind (h hd) (h ha))
  | .vmax hd ha hb _ => some (binaryShape (.vmax 0 0 0 0) arithKind (h hd) (h ha) (h hb) [h ha, h hb])
  | .vmax16 hd ha => some (binaryShape (.vmax 0 0 0 0) arithKind (h hd) (h hd) (h ha) [h hd, h ha])
  | .vmaxR hd ha => some (binaryShape (.vmax 0 0 0 0) arithKind (h hd) (h ha) (h hd) [h ha, h hd])
  | .vmaxB hd ha => some (firstShape (.vmax 0 0 0 0) arithKind (h hd) (h ha))
  | .vscale hd ha hb _ => some (binaryShape (.vscale 0 0 0 0) scaleKind (h hd) (h ha) (h hb) [h ha, h hb])
  | .vscale16 hd ha => some (binaryShape (.vscale 0 0 0 0) scaleKind (h hd) (h hd) (h ha) [h hd, h ha])
  | .vscaleR hd ha => some (binaryShape (.vscale 0 0 0 0) scaleKind (h hd) (h ha) (h hd) [h ha, h hd])
  | .vscaleB hd ha => some (firstShape (.vscale 0 0 0 0) scaleKind (h hd) (h ha))
  | .vfma hd ha hb _ => some (binaryShape (.vfma 0 0 0 0) arithKind (h hd) (h ha) (h hb) [h ha, h hb])
  | .vfma16 hd ha => some (binaryShape (.vfma 0 0 0 0) arithKind (h hd) (h ha) (h ha) [h ha, h ha])
  | .vabs hd ha _ => some (unaryShape (.vabs 0 0 0) arithKind (h hd) (h ha))
  | .vabs16 hd ha => some (unaryShape (.vabs 0 0 0) arithKind (h hd) (h ha))
  | .vneg hd ha _ => some (unaryShape (.vneg 0 0 0) arithKind (h hd) (h ha))
  | .vneg16 hd ha => some (unaryShape (.vneg 0 0 0) arithKind (h hd) (h ha))
  | .vexp hd ha _ => some (unaryShape (.vexp 0 0 0) functionKind (h hd) (h ha))
  | .vexp16 hd ha => some (unaryShape (.vexp 0 0 0) functionKind (h hd) (h ha))
  | .vrcp hd ha _ => some (unaryShape (.vrcp 0 0 0) functionKind (h hd) (h ha))
  | .vrcp16 hd ha => some (unaryShape (.vrcp 0 0 0) functionKind (h hd) (h ha))
  | .vrsqrt hd ha _ => some (unaryShape (.vrsqrt 0 0 0) functionKind (h hd) (h ha))
  | .vtanh hd ha _ => some (unaryShape (.vtanh 0 0 0) functionKind (h hd) (h ha))
  | .vcvt hd ha _ => some (moveShape (.vcvt 0 0 0) anyKind (h hd) (h ha) 0 (hCount (h ha) == hCount (h hd)))
  | .vcvt16 hd ha => some (moveShape (.vcvt 0 0 0) anyKind (h hd) (h ha) 0 (hCount (h ha) == hCount (h hd)))
  | .vcvtKeep hd ha _ _ => some (moveShape (.vcvtKeep 0 0 0 0) anyKind (h hd) (h ha) v
      (decide (v.toNat < 2 ^ 16) && (kind (h hd)).isDxb && hCount (h ha) == hCount (h hd)))
  | .vcopy hd ha _ => some (moveShape (.vcopy 0 0 0) anyKind (h hd) (h ha) 0
      (sameFormat (h hd) (h ha) && hCount (h ha) == hCount (h hd) &&
        (!(kind (h ha)).isDxb || hLen (h ha) 0 == hLen (h hd) 0)))
  | .vcopy16 hd ha => some (moveShape (.vcopy 0 0 0) anyKind (h hd) (h ha) 0
      (sameFormat (h hd) (h ha) && hCount (h ha) == hCount (h hd) &&
        (!(kind (h ha)).isDxb || hLen (h ha) 0 == hLen (h hd) 0)))
  | .vbcast hd ha _ => some (moveShape (.vbcast 0 0 0) moveKind (h hd) (h ha) 0
      (sameFormat (h hd) (h ha) && (hCount (h ha) != 0 || hCount (h hd) == 0)))
  | .vbcast16 hd ha => some (moveShape (.vbcast 0 0 0) moveKind (h hd) (h ha) 0
      (sameFormat (h hd) (h ha) && (hCount (h ha) != 0 || hCount (h hd) == 0)))
  | .viota hd _ _ => some ⟨{ instr := .viota 0 0 0, hd := h hd, s := v, srcs := [] }, [⟨h hd, true, moveKind⟩], true⟩
  | .vredSum hd ha _ _ => some (reductionShape (.vredSum 0 0 0 0) (h hd) (h ha) v)
  | .vredSum16 hd ha => some (reductionShape (.vredSum 0 0 0 0) (h hd) (h ha) 0)
  | .vredSumD1 hd ha => some (reductionShape (.vredSum 0 0 0 0) (h hd) (h ha) 1)
  | .vredSumD2 hd ha => some (reductionShape (.vredSum 0 0 0 0) (h hd) (h ha) 2)
  | .vredMax hd ha _ _ => some (reductionShape (.vredMax 0 0 0 0) (h hd) (h ha) v)
  | .vredMax16 hd ha => some (reductionShape (.vredMax 0 0 0 0) (h hd) (h ha) 0)
  | .vredMaxD1 hd ha => some (reductionShape (.vredMax 0 0 0 0) (h hd) (h ha) 1)
  | .vredMaxD2 hd ha => some (reductionShape (.vredMax 0 0 0 0) (h hd) (h ha) 2)
  | .vand hd ha hb _ => some (integerShape (.vand 0 0 0 0) true (h hd) (h ha) (h hb))
  | .vor hd ha hb _ => some (integerShape (.vor 0 0 0 0) true (h hd) (h ha) (h hb))
  | .vxor hd ha hb _ => some (integerShape (.vxor 0 0 0 0) true (h hd) (h ha) (h hb))
  | .vshl hd ha hb _ => some (integerShape (.vshl 0 0 0 0) false (h hd) (h ha) (h hb))
  | .vshr hd ha hb _ => some (integerShape (.vshr 0 0 0 0) false (h hd) (h ha) (h hb))
  | .vcmp hd ha hb _ _ =>
    if v.getLsbD 3 then
      some ⟨{ instr := .vcmp 0 0 0 0 0, hd := h hd, ha := h ha, s := v, srcs := [h ha] },
        [⟨h hd, true, narrowInt⟩, ⟨h ha, false, arithKind⟩],
        decide (v.toNat < 16) && decide (v.toNat % 8 ≤ 4) && hb == 0 && hCount (h hd) == hCount (h ha)⟩
    else
      let n := if hCount (h ha) = 1 then hCount (h hb) else hCount (h ha)
      some ⟨{ instr := .vcmp 0 0 0 0 0, hd := h hd, ha := h ha, hb := h hb, s := v, srcs := [h ha, h hb] },
        [⟨h hd, true, narrowInt⟩, ⟨h ha, false, arithKind⟩, ⟨h hb, false, arithKind⟩],
        decide (v.toNat < 16) && decide (v.toNat % 8 ≤ 4) && (hCount (h ha) == n || hCount (h ha) == 1) &&
          (hCount (h hb) == n || hCount (h hb) == 1) && hCount (h hd) == n && (kind (h ha)).isInt == (kind (h hb)).isInt⟩
  | .vsel hd ha hb _ _ =>
    let m := t.handle v.toNat
    some ⟨{ instr := .vsel 0 0 0 0 0, hd := h hd, ha := h ha, hb := h hb, mask := m, srcs := [h ha, h hb, m] },
      [⟨h hd, true, moveKind⟩, ⟨h ha, false, moveKind⟩, ⟨h hb, false, moveKind⟩, ⟨m, false, intKind⟩],
      decide (v.toNat < 16) && sameFormat (h hd) (h ha) && sameFormat (h hd) (h hb) && hCount m == hCount (h hd) &&
        (hCount (h ha) == hCount (h hd) || hCount (h ha) == 1) && (hCount (h hb) == hCount (h hd) || hCount (h hb) == 1)⟩
  | .vsp24 hd ha hb _ =>
    some ⟨{ instr := .vsp24 0 0 0 0, hd := h hd, ha := h ha, hb := h hb, srcs := [h ha] },
      [⟨h hd, true, functionKind⟩, ⟨h ha, false, sparseKind⟩, ⟨h hb, true, fun k => k == .int false 8⟩],
      !hChan (h hb) && hLen (h ha) 0 % 4 == 0 && hCount (h hd) == hCount (h ha) / 2 &&
        hCount (h hb) == hRows (h ha) * ((hLen (h ha) 0 + 7) / 8)⟩
  | .vsmx hd ha _ =>
    some ⟨{ instr := .vsmx 0 0 0, hd := h hd, ha := h ha, srcs := [h ha] },
      [⟨h hd, true, fun k => k == .float fmtSingle⟩, ⟨h ha, false, rowKind⟩],
      hLen (h hd) 0 == 2 && hRows (h hd) == hRows (h ha)⟩
  | .vtopk hd ha _ _ =>
    some ⟨{ instr := .vtopk 0 0 0 0, hd := h hd, ha := h ha, s := v, srcs := [h ha] },
      [⟨h hd, true, fun k => k == .int false 64⟩, ⟨h ha, false, rowKind⟩],
      decide (1 ≤ v.toNat % 2 ^ 32) && decide (v.toNat % 2 ^ 32 ≤ 8) && hLen (h hd) 0 == v.toNat % 2 ^ 32 &&
        hRows (h hd) == hRows (h ha)⟩
  | _ => none

/-- R290: `vcompress` or `vexpand` of ha into hd, under the mask in handle register `m`. -/
def squeezeShape (t : Ctx) (expand : Bool) (hd ha : BitVec 4) (m : Word) : LaneShape :=
  let d := t.handle hd.toNat
  let a := t.handle ha.toNat
  let mask := t.handle m.toNat
  { entry := { instr := if expand then .vexpand 0 0 0 0 else .vcompress 0 0 0 0, hd := d, ha := a, mask,
               srcs := [a, mask] }
    uses := [⟨d, true, moveKind⟩, ⟨a, false, moveKind⟩, ⟨mask, false, intKind⟩]
    fits := sameFormat d a && hCount mask == (if expand then hCount d else hCount a) }

/-- R295: `vgather` or `vscatter` of ha into hd, by the indices in hb. -/
def indexedShape (t : Ctx) (scatter : Bool) (hd ha hb : BitVec 4) : LaneShape :=
  let d := t.handle hd.toNat
  let a := t.handle ha.toNat
  let b := t.handle hb.toNat
  { entry := { instr := if scatter then .vscatter 0 0 0 0 0 else .vgather 0 0 0 0 0, hd := d, ha := a, hb := b,
               srcs := [a, b] }
    uses := [⟨d, true, moveKind⟩, ⟨a, false, moveKind⟩, ⟨b, false, narrowInt⟩]
    fits := sameFormat d a && hCount b == (if scatter then hCount a else hCount d) }

/-- The scalar operand of a lane instruction is read, where it has one. -/
def LaneScalar (i : Instr) (s : State) (v : Word) (s1 : State) : Prop :=
  match i with
  | .vredSum _ _ rs _ => Gives (readS rs) s v s1
  | .vredMax _ _ rs _ => Gives (readS rs) s v s1
  | .vcmp _ _ _ rs _ => Gives (readS rs) s v s1
  | .vsel _ _ _ rs _ => Gives (readS rs) s v s1
  | .vtopk _ _ rs _ => Gives (readS rs) s v s1
  | .viota _ rs _ => Gives (readS rs) s v s1
  | .vcvtKeep _ _ rs _ => Gives (readS rs) s v s1
  | _ => s1 = s

/-- R271: every operand's content is legal, each lies in a tile or is a channel, and no destination is a peer's tile. -/
abbrev LaneLegal (s : State) (f : LaneShape) : Prop :=
  f.uses.all (fun u => u.contentOk s) = true ∧ f.uses.all (fun u => hChan u.h || hTile u.h) = true ∧
  f.fits = true ∧ f.uses.all (fun u => !u.out || outHere s u.h) = true

/-- The lowest byte that an operand in a peer's tile touches, as an address (R219, R272). -/
def lowestPeerByte (h : HandleBits) : Word :=
  wrap (0xF100000000000000 + part h 36 5 * 2 ^ 48 + (leastNat (operandBytes h)).getD (part h 0 20) : Nat)

/-- R163, R176, R180, R271, R274: the faults of a lane instruction whose operands are read in `s1`, in their order:
content, location, counts and formats, and one destination in the tile of another core. -/
def LaneFaults (i : Instr) (s s1 : State) (f : LaneShape) : Prop :=
  (f.uses.all (fun u => u.contentOk s1) = false →
    Machine.exec i s = .next (s.takeTrap { cause := 0x04, info := 5#64 })) ∧
  (∀ u, f.uses.all (fun u => u.contentOk s1) = true → f.uses.find? (fun u => !hChan u.h && !hTile u.h) = some u →
    Machine.exec i s = .next (s.takeTrap { cause := 0x04, addr := wrap (part u.h 0 48), info := 4#64 })) ∧
  (f.uses.all (fun u => u.contentOk s1) = true → f.uses.all (fun u => hChan u.h || hTile u.h) = true → f.fits = false →
    Machine.exec i s = .next (s.takeTrap { cause := 0x04, info := 4#64 })) ∧
  (∀ u, f.uses.all (fun u => u.contentOk s1) = true → f.uses.all (fun u => hChan u.h || hTile u.h) = true →
    f.fits = true → f.uses.filter (fun u => u.out && !outHere s1 u.h) = [u] →
    Machine.exec i s = .next ((s.withWalks s1 s.iss.core).takeTrap
      { cause := 0x06, addr := lowestPeerByte u.h, info := 5#64 }))

/-- R276, R297: the lane queue has room, and the inbound channels hold the bytes that the operands take. -/
abbrev LaneRoom (s : State) (e : LaneEntry) : Prop :=
  (selfCore s).lanes.length < 8 ∧ ∀ p ∈ channelNeeds e.instr e.srcs, p.2 ≤ (Tab.get 0 (selfCore s).cb p.1).toNat

/-- The entry stands at the end of the lane queue in `t`, as it was read in `s`. -/
def Entered (s t : State) (e : LaneEntry) (winId : Option Nat) : Prop :=
  ∃ o, (selfCore t).lanes = (selfCore s).lanes ++ [o] ∧ o.ctx = s.iss.ctx ∧ o.instr = e.instr ∧ o.hd = e.hd ∧
    o.ha = e.ha ∧ o.hb = e.hb ∧ o.mask = e.mask ∧ o.s = e.s ∧ o.rmode = (self s).rmode ∧ o.executed = false ∧
    o.winId = winId

/-- R272: a one-dimensional INT32 handle of `n` elements in the own tile from offset `off` on, 4 bytes apart. -/
def int32Vector (off n : Nat) : HandleBits :=
  BitVec.ofNat 256 (0xF * 2 ^ 44 + off + 4 * 2 ^ 48 + n * 2 ^ 64 + 4 * 2 ^ 128)

/-- Element `i` of such a vector. -/
def int32At (s : State) (k off i : Nat) : Int :=
  let v := little (tileRun s k (off + 4 * i) 4)
  if v < 2 ^ 31 then v else (v : Int) - 2 ^ 32

/-- R82, R282: the elementwise integer operations, before the result wraps. -/
def laneIntegerTable : List (Instr × (Int → Int → Int)) := [
  (.vadd 0 0 0 0, fun a b => a + b), (.vsub 0 0 0 0, fun a b => a - b), (.vmul 0 0 0 0, fun a b => a * b),
  (.vmin 0 0 0 0, fun a b => min a b), (.vmax 0 0 0 0, fun a b => max a b)]

/-- R272: a one-dimensional FP32 handle of `n` elements in the own tile from offset `off` on, 4 bytes apart, with a
rounding mode. -/
def float32Vector (mode off n : Nat) : HandleBits :=
  BitVec.ofNat 256 (0xF * 2 ^ 44 + off + 0x12 * 2 ^ 48 + mode * 2 ^ 60 + n * 2 ^ 64 + 4 * 2 ^ 128)

/-- The pattern of element `i` of a vector of 4-byte elements. -/
def float32At (s : State) (k off i : Nat) : Nat := little (tileRun s k (off + 4 * i) 4)

/-- The FP32 value of element `i` (R57). -/
def numberAt (s : State) (k off i : Nat) : Machine.Num := fmtSingle.decode (float32At s k off i)

/-- R280: an exact result is rounded to FP32 and then converted to an FP32 destination. -/
def asSingle (mode : Nat) (x : Exact × Flag) : Nat :=
  (fmtSingle.convert mode (fmtSingle.decode (fmtSingle.finish mode x).1)).1

/-- R83, R280: one operation of a floating sum. -/
def singleSum (mode : Nat) (a b : Machine.Num) : Machine.Num := fmtSingle.decode (fmtSingle.finish mode (addNum mode a b)).1

/-- R63, R84, R282: the elementwise floating operations, before the result is rounded. -/
def laneFloatTable : List (Instr × (Nat → Machine.Num → Machine.Num → Exact × Flag)) := [
  (.vadd 0 0 0 0, fun mode a b => addNum mode a b), (.vsub 0 0 0 0, fun mode a b => addNum mode a b.negate),
  (.vmul 0 0 0 0, fun _ a b => mulNum a b), (.vmin 0 0 0 0, fun _ a b => extremum false a b),
  (.vmax 0 0 0 0, fun _ a b => extremum true a b)]

/-- R283: the special operands −∞, −0, +0, +∞ and a NaN of each function, and their results, as FP32 patterns. -/
def laneSpecialTable : List (Instr × List (Nat × Nat)) := [
  (.vexp 0 0 0, [(0xFF800000, 0), (0x80000000, 0x3F800000), (0, 0x3F800000), (0x7F800000, 0x7F800000),
    (0x7FC00001, 0x7FC00000)]),
  (.vrcp 0 0 0, [(0xFF800000, 0x80000000), (0x80000000, 0xFF800000), (0, 0x7F800000), (0x7F800000, 0),
    (0x7FC00001, 0x7FC00000)]),
  (.vrsqrt 0 0 0, [(0xFF800000, 0x7FC00000), (0x80000000, 0xFF800000), (0, 0x7F800000), (0x7F800000, 0),
    (0x7FC00001, 0x7FC00000)]),
  (.vtanh 0 0 0, [(0xFF800000, 0xBF800000), (0x80000000, 0x80000000), (0, 0), (0x7F800000, 0x3F800000),
    (0x7FC00001, 0x7FC00000)])]

/-- R287: the shifts of an INT32 element by the low six bits of a pattern; the right one copies the sign. -/
def laneBitTable : List (Instr × (Int → Nat → Int)) := [
  (.vand 0 0 0 0, fun a b => ((a % 2 ^ 32).toNat &&& b : Nat)), (.vor 0 0 0 0, fun a b => ((a % 2 ^ 32).toNat ||| b : Nat)),
  (.vxor 0 0 0 0, fun a b => ((a % 2 ^ 32).toNat ^^^ b : Nat)), (.vshl 0 0 0 0, fun a b => a * 2 ^ (b % 64)),
  (.vshr 0 0 0 0, fun a b => a / 2 ^ (b % 64))]

/-- R153, R288: the relation of a condition code between integers, which are never unordered. -/
def laneHolds (cc : Nat) (a b : Int) : Bool :=
  match cc with
  | 0 => decide (a = b)
  | 1 => decide (a < b)
  | 2 => decide (a ≤ b)
  | 3 => false
  | _ => decide (a ≠ b)

/-- R272, R275: the operation `o` at the head of the lane queue writes `n` 4-byte elements of the own tile from `d` on,
outside the identity words; each vector of its sources is the destination itself or does not meet it. -/
abbrev LaneVectors (s : State) (o : LaneOp) (d n : Nat) (srcs : List Nat) : Prop :=
  s.enabled s.input.core = true ∧ (s.core s.input.core).lanes.head? = some o ∧ o.executed = false ∧ n < 2 ^ 16 ∧
  d + 4 * n ≤ 2 ^ 20 ∧ (d + 4 * n ≤ 0x7C0 ∨ 0x800 ≤ d) ∧
  (∀ a ∈ srcs, a + 4 * n ≤ 2 ^ 20 ∧ (a = d ∨ d + 4 * n ≤ a ∨ a + 4 * n ≤ d)) ∧
  (s.core s.input.core).matrix = [] ∧ (s.core s.input.core).bad = [] ∧ (s.core s.input.core).tile.wf = true

/-- LANE_EXECUTE leaves every byte of the tile outside the destination, and what it leaves there satisfies `P`. -/
def LaneGives (s : State) (d n : Nat) (P : State → Prop) : Prop :=
  ∃ t, Machine.exec .laneExecute s = .next t ∧
    (∀ x, (x < d ∨ d + 4 * n ≤ x) →
      Memory.read (t.core s.input.core).tile x = Memory.read (s.core s.input.core).tile x) ∧ P t

end Sys2Proof.Claims

/-- R91, R271, R274, R276, R278, R280 to R294: a lane instruction without a scalar result, whose operands are legal
and fit together, enters the lane queue with the handles and the scalar it reads, and retires. R278, R290, R295:
`vcompress`, `vexpand`, `vgather` and `vscatter` enter the queue in the same way, and their count is awaited in
a window or a load-data entry. R163, R176, R180, R219, R221, R271, R274: of all of them, illegal content is the
illegal-operand fault with subcode 5; an operand outside the tiles the one with subcode 4 and its address; a count or
format that does not fit the one with subcode 4; a destination in the tile of another core that is there the protection
fault of a store at its lowest byte. A mask number of 16 or more is the fault with subcode 4, and metadata of `vsp24` in a
channel the one with subcode 5. Nothing else changes. -/
def Obligations.LaneInstructions : Prop :=
  ((∀ (i : Instr) (s s1 : State) (v : Word) (f : LaneShape), LaneScalar i s v s1 →
      laneShape (self s1) v i = some f → LaneLegal s1 f → LaneRoom s1 f.entry →
      ∃ t, Machine.exec i s = .next t ∧ t.iss.retired = true ∧ Entered s1 t f.entry none) ∧
   ((∀ (hd ha la : BitVec 4) (rs : BitVec 6) (s s0 s1 : State) (m : Word) (f : LaneShape) (expand : Bool),
      Gives (makeRoomFor (scalarDest rs la)) s () s0 → Gives (readS rs) s0 m s1 → m.toNat < 16 →
      f = squeezeShape (self s1) expand hd ha m → LaneLegal s1 f → LaneRoom s1 f.entry →
      ∃ t id, Machine.exec (if expand then .vexpand hd ha rs la else .vcompress hd ha rs la) s = .next t ∧
        ScalarResult s1 t rs la none ∧ Entered s1 t f.entry (some id)) ∧
    (∀ (hd ha hb la : BitVec 4) (rs : BitVec 6) (s s1 : State) (f : LaneShape) (scatter : Bool),
      Gives (makeRoomFor (scalarDest rs la)) s () s1 → f = indexedShape (self s1) scatter hd ha hb →
      LaneLegal s1 f → LaneRoom s1 f.entry →
      ∃ t id, Machine.exec (if scatter then .vscatter hd ha hb rs la else .vgather hd ha hb rs la) s = .next t ∧
        ScalarResult s1 t rs la none ∧ Entered s1 t f.entry (some id)))) ∧
  ((∀ (i : Instr) (s s1 : State) (v : Word) (f : LaneShape), LaneScalar i s v s1 →
      laneShape (self s1) v i = some f → (∀ hd ha hb rs la, i = .vsel hd ha hb rs la → v.toNat < 16) →
      (∀ hd ha hb la, i = .vsp24 hd ha hb la → hChan ((self s1).handle hb.toNat) = false) → LaneFaults i s s1 f) ∧
   (∀ (hd ha la : BitVec 4) (rs : BitVec 6) (s s0 s1 : State) (m : Word) (expand : Bool),
      Gives (makeRoomFor (scalarDest rs la)) s () s0 → Gives (readS rs) s0 m s1 → m.toNat < 16 →
      LaneFaults (if expand then .vexpand hd ha rs la else .vcompress hd ha rs la) s s1
        (squeezeShape (self s1) expand hd ha m)) ∧
   (∀ (hd ha hb la : BitVec 4) (rs : BitVec 6) (s s1 : State) (scatter : Bool),
      Gives (makeRoomFor (scalarDest rs la)) s () s1 →
      LaneFaults (if scatter then .vscatter hd ha hb rs la else .vgather hd ha hb rs la) s s1
        (indexedShape (self s1) scatter hd ha hb)) ∧
   (∀ (hd ha hb la : BitVec 4) (rs : BitVec 6) (s s1 : State) (v : Word), Gives (readS rs) s v s1 → 16 ≤ v.toNat →
      Machine.exec (.vsel hd ha hb rs la) s = .next (s.takeTrap { cause := 0x04, info := 4#64 })) ∧
   (∀ (hd ha la : BitVec 4) (rs : BitVec 6) (s s0 s1 : State) (m : Word),
      Gives (makeRoomFor (scalarDest rs la)) s () s0 → Gives (readS rs) s0 m s1 → 16 ≤ m.toNat →
      Machine.exec (.vcompress hd ha rs la) s = .next (s.takeTrap { cause := 0x04, info := 4#64 }) ∧
      Machine.exec (.vexpand hd ha rs la) s = .next (s.takeTrap { cause := 0x04, info := 4#64 })) ∧
   (∀ (hd ha hb la : BitVec 4) (s : State) (f : LaneShape), laneShape (self s) 0 (.vsp24 hd ha hb la) = some f →
      f.uses.all (fun u => u.contentOk s) = true → f.uses.all (fun u => hChan u.h || hTile u.h) = true →
      hChan ((self s).handle hb.toNat) = true →
      Machine.exec (.vsp24 hd ha hb la) s = .next (s.takeTrap { cause := 0x04, info := 5#64 })))

/-- R275, R277, R278, R298: LANE_EXECUTE performs the computation of the instruction at the head of the queue. LANE_COMPLETE
accepts the next deposit of an executed one into the outbox, in its order with the writes before it, and takes one without
deposits left out of the queue, ORs its flags into SATF and delivers its count. -/
def Obligations.LaneSteps : Prop :=
  (∀ (s s1 : State) (o : LaneOp) (rest : List LaneOp) (n : Nat) (acc : LaneAcc),
    (s.core s.input.core).lanes = o :: rest → o.executed = false → (s.core s.input.core).matrix = [] →
    Gives ((LaneRun.compute { k := s.input.core, op := o }).run {}) s (n, acc) s1 →
    ∃ t out, Machine.exec .laneExecute s = .next t ∧
      (t.core s.input.core).lanes = (s1.core s.input.core).lanes.modifyHead (fun q =>
        { q with executed := true, flags := acc.fl.setWidth 6, count := wrap n, out := out }) ∧
      (hChan o.hd = false → out = []) ∧ (t.core s.input.core).tile = (s1.core s.input.core).tile) ∧
  (∀ (s : State) (o : LaneOp) (rest : List LaneOp), (s.core s.input.core).lanes = o :: rest → o.executed = true →
    o.out = [] → ∃ t, Machine.exec .laneComplete s = .next t ∧ (t.core s.input.core).lanes = rest ∧
      (t.ctx s.input.core o.ctx).satf = (s.ctx s.input.core o.ctx).satf ||| o.flags.setWidth 64 ∧
      (o.winId = none → (t.ctx s.input.core o.ctx).windows = (s.ctx s.input.core o.ctx).windows) ∧
      (∀ id, o.winId = some id → (t.ctx s.input.core o.ctx).windows = (s.ctx s.input.core o.ctx).windows.map
        (fun w => if w.id = id then { w with result := some (o.count.setWidth 256) } else w) ∧
        (t.ctx s.input.core o.ctx).ldq = (s.ctx s.input.core o.ctx).ldq.map
          fun e => if e.id = id then { e with value := some o.count } else e)) ∧
  (∀ (s : State) (o : LaneOp) (rest : List LaneOp) (m : Msg) (more : List Msg) (dests : List Nat),
    (s.core s.input.core).lanes = o :: rest → o.executed = true → o.out = m :: more → dests = s.destsOf m.hdr0 →
    (s.core s.input.core).outbox.length < 16 →
    s.laneOrdered s.input.core o (s.separating s.input.core (nodeOf m.hdr0) dests) = true →
    ∃ t, Machine.exec .laneComplete s = .next t ∧ (t.core s.input.core).lanes = { o with out := more } :: rest ∧
      (t.core s.input.core).outbox =
        (s.core s.input.core).outbox ++ [{ msg := m, ctx := o.ctx, node := nodeOf m.hdr0, dests }])

/-- R60, R63, R66, R67, R82 to R84, R235, R272, R275, R280, R282 to R291, R295: what LANE_EXECUTE writes for vectors of 4-byte
elements in the own tile, position by position, and that no other byte of the tile changes: the integer operations modulo
2^32; the floating ones rounded to FP32 and converted to the destination; `vfma` with the old destination; the special
operands of the functions (R283); conversions between INT32 and FP32, `vbcast` and `viota`; logic, shifts and comparisons;
sums and maxima of a whole vector, a floating sum in pairs (R83); `vsel`; `vcompress` and `vgather` with their counts. A
destination may be a source, but may not overlap one otherwise, and lies outside the identity words. -/
def Obligations.LaneIntegerResults : Prop :=
  (∀ p ∈ laneIntegerTable, ∀ (s : State) (o : LaneOp) (d a b n : Nat), LaneVectors s o d n [a, b] → o.instr = p.1 →
    o.hd = int32Vector d n → o.ha = int32Vector a n → o.hb = int32Vector b n →
    LaneGives s d n fun t => ∀ i, i < n → int32At t s.input.core d i % 2 ^ 32 =
      p.2 (int32At s s.input.core a i) (int32At s s.input.core b i) % 2 ^ 32) ∧
  ((∀ p ∈ laneFloatTable, ∀ (s : State) (o : LaneOp) (mode d a b n : Nat), LaneVectors s o d n [a, b] → o.instr = p.1 →
     mode ≤ 4 → o.hd = float32Vector mode d n → o.ha = float32Vector 0 a n → o.hb = float32Vector 0 b n →
     LaneGives s d n fun t => ∀ i, i < n → float32At t s.input.core d i =
       asSingle mode (p.2 mode (numberAt s s.input.core a i) (numberAt s s.input.core b i))) ∧
   (∀ (s : State) (o : LaneOp) (mode d a b n : Nat), LaneVectors s o d n [a, b] → o.instr = .vfma 0 0 0 0 →
     mode ≤ 4 → o.hd = float32Vector mode d n → o.ha = float32Vector 0 a n → o.hb = float32Vector 0 b n →
     LaneGives s d n fun t => ∀ i, i < n → float32At t s.input.core d i =
       asSingle mode (fmaNum mode (numberAt s s.input.core a i) (numberAt s s.input.core b i)
         (numberAt s s.input.core d i))) ∧
   (∀ p ∈ laneSpecialTable, ∀ (s : State) (o : LaneOp) (mode d a n : Nat), LaneVectors s o d n [a] → o.instr = p.1 →
     mode ≤ 4 → o.hd = float32Vector mode d n → o.ha = float32Vector 0 a n → o.hb = 0 →
     LaneGives s d n fun t => ∀ i, i < n → ∀ q ∈ p.2, float32At s s.input.core a i = q.1 →
       float32At t s.input.core d i = q.2) ∧
   (∀ (s : State) (o : LaneOp) (mode d a n : Nat), LaneVectors s o d n [a] → o.instr = .vcvt 0 0 0 → mode ≤ 4 →
     (o.hd = float32Vector mode d n → o.ha = int32Vector a n →
       LaneGives s d n fun t => ∀ i, i < n → float32At t s.input.core d i =
         (fmtSingle.convert mode (Num.ofInt (int32At s s.input.core a i))).1) ∧
     (o.hd = int32Vector d n → o.ha = float32Vector mode a n →
       LaneGives s d n fun t => ∀ i, i < n → int32At t s.input.core d i =
         (toInteger 0 (-2 ^ 31) (2 ^ 31 - 1) (numberAt s s.input.core a i)).1))) ∧
  ((∀ (s : State) (o : LaneOp) (d a n m : Nat), LaneVectors s o d n [] → o.instr = .vbcast 0 0 0 → 1 ≤ m → m < 2 ^ 16 →
     a + 4 * m ≤ 2 ^ 20 → o.hd = int32Vector d n → o.ha = int32Vector a m →
     LaneGives s d n fun t => ∀ i, i < n → int32At t s.input.core d i = int32At s s.input.core a 0) ∧
   (∀ (s : State) (o : LaneOp) (d n : Nat), LaneVectors s o d n [] → o.instr = .viota 0 0 0 → o.hd = int32Vector d n →
     LaneGives s d n fun t => ∀ i, i < n → int32At t s.input.core d i =
       max (-2 ^ 31) (min (o.s.toInt + i) (2 ^ 31 - 1))) ∧
   (∀ p ∈ laneBitTable, ∀ (s : State) (o : LaneOp) (d a b n : Nat), LaneVectors s o d n [a, b] → o.instr = p.1 →
     o.hd = int32Vector d n → o.ha = int32Vector a n → o.hb = int32Vector b n →
     LaneGives s d n fun t => ∀ i, i < n → int32At t s.input.core d i % 2 ^ 32 =
       p.2 (int32At s s.input.core a i) (float32At s s.input.core b i) % 2 ^ 32) ∧
   (∀ (s : State) (o : LaneOp) (d a b n cc : Nat), LaneVectors s o d n [a, b] → o.instr = .vcmp 0 0 0 0 0 → cc ≤ 4 →
     o.s = wrap cc → o.hd = int32Vector d n → o.ha = int32Vector a n → o.hb = int32Vector b n →
     LaneGives s d n fun t => ∀ i, i < n → int32At t s.input.core d i =
       if laneHolds cc (int32At s s.input.core a i) (int32At s s.input.core b i) then 1 else 0)) ∧
  ((∀ (s : State) (o : LaneOp) (d a n : Nat), LaneVectors s o d 1 [] → n < 2 ^ 16 → a + 4 * n ≤ 2 ^ 20 → o.s = 0 →
     o.hd = int32Vector d 1 → o.ha = int32Vector a n →
     (o.instr = .vredSum 0 0 0 0 → LaneGives s d 1 fun t => int32At t s.input.core d 0 % 2 ^ 32 =
       ((List.range n).map (int32At s s.input.core a)).sum % 2 ^ 32) ∧
     (o.instr = .vredMax 0 0 0 0 → 1 ≤ n → LaneGives s d 1 fun t =>
       (∃ i, i < n ∧ int32At t s.input.core d 0 = int32At s s.input.core a i) ∧
       ∀ i, i < n → int32At s s.input.core a i ≤ int32At t s.input.core d 0)) ∧
   (∀ (s : State) (o : LaneOp) (mode d a : Nat) (x : Nat → Machine.Num), LaneVectors s o d 1 [] → a + 16 ≤ 2 ^ 20 →
     o.instr = .vredSum 0 0 0 0 → mode ≤ 4 → o.s = 0 → o.hd = float32Vector mode d 1 → o.ha = float32Vector 0 a 4 →
     o.hb = 0 → x = numberAt s s.input.core a → (∀ i, i < 4 → (x i).isNan = false) →
     LaneGives s d 1 fun t => float32At t s.input.core d 0 =
       asSingle mode ((singleSum mode (singleSum mode (x 0) (x 1)) (singleSum mode (x 2) (x 3))).exact, 0#7))) ∧
  ((∀ (s : State) (o : LaneOp) (d a b m n : Nat), LaneVectors s o d n [a, b, m] → o.instr = .vsel 0 0 0 0 0 →
     o.hd = int32Vector d n → o.ha = int32Vector a n → o.hb = int32Vector b n → o.mask = int32Vector m n →
     LaneGives s d n fun t => ∀ i, i < n → int32At t s.input.core d i =
       if int32At s s.input.core m i ≠ 0 then int32At s s.input.core a i else int32At s s.input.core b i) ∧
   (∀ (s : State) (o : LaneOp) (d a m n : Nat) (l : List Int), LaneVectors s o d n [a, m] →
     o.instr = .vcompress 0 0 0 0 → o.hd = int32Vector d n → o.ha = int32Vector a n → o.mask = int32Vector m n →
     l = ((List.range n).filter fun i => int32At s s.input.core m i ≠ 0).map (int32At s s.input.core a) →
     LaneGives s d n fun t => (∀ i v, l[i]? = some v → int32At t s.input.core d i = v) ∧
       ((t.core s.input.core).lanes.map (·.count)).head? = some (wrap l.length)) ∧
   (∀ (s : State) (o : LaneOp) (d a b n m : Nat), LaneVectors s o d n [b] → o.instr = .vgather 0 0 0 0 0 → m < 2 ^ 16 →
     a + 4 * m ≤ 2 ^ 20 → (d + 4 * n ≤ a ∨ a + 4 * m ≤ d) → o.hd = int32Vector d n → o.ha = int32Vector a m →
     o.hb = int32Vector b n →
     LaneGives s d n fun t => (∀ i, i < n → int32At t s.input.core d i =
         if 0 ≤ int32At s s.input.core b i ∧ int32At s s.input.core b i < m
           then int32At s s.input.core a (int32At s s.input.core b i).toNat else 0) ∧
       ((t.core s.input.core).lanes.map (·.count)).head? = some (wrap ((List.range n).filter fun i =>
         ¬(0 ≤ int32At s s.input.core b i ∧ int32At s s.input.core b i < m)).length)))

/-! ## Atomics, locks, copies and the matrix unit (R241 to R262, R299 to R322) -/

namespace Sys2Proof.Claims

/-- FP32 (R57). -/
def single : Fmt := ⟨8, 23⟩

/-- R241: the atomics, their width in bytes, and the new value and the flags they give the word `old` for the operand `b`
and, in `amo.cas`, the compared value `x`. -/
def atomicTable : List ((BitVec 6 → BitVec 6 → BitVec 6 → BitVec 4 → Instr) × Nat × (Word → Word → Word → Word × Flag)) := [
  (.amoAdd, 8, fun old b _ => (wrap (old.toNat + b.toNat), 0#7)),
  (.amoAnd, 8, fun old b _ => (old &&& b, 0#7)),
  (.amoOr, 8, fun old b _ => (old ||| b, 0#7)),
  (.amoXor, 8, fun old b _ => (old ^^^ b, 0#7)),
  (.amoMin, 8, fun old b _ => (if old.toInt ≤ b.toInt then old else b, 0#7)),
  (.amoMax, 8, fun old b _ => (if old.toInt ≤ b.toInt then b else old, 0#7)),
  (.amoMinu, 8, fun old b _ => (if old.toNat ≤ b.toNat then old else b, 0#7)),
  (.amoMaxu, 8, fun old b _ => (if old.toNat ≤ b.toNat then b else old, 0#7)),
  (.amoSwap, 8, fun _ b _ => (b, 0#7)),
  (.amoCas, 8, fun old b x => (if old = x then b else old, 0#7)),
  (.amoFadd, 4, fun old b _ =>
    let r := single.finish 0 (addNum 0 (single.decode (old.toNat % 2 ^ 32)) (single.decode (b.toNat % 2 ^ 32)))
    (wrap r.1, r.2 &&& 5#7))]

/-- R242: the operation code of an atomic of the table, by its place. -/
def atomicCode (op : Nat) : Word → Word → Word → Word × Flag := ((atomicTable.map fun p => p.2.2).getD op fun _ b _ => (b, 0#7))

/-- The context that issues, as the one that its accesses are made for. -/
def ctxReader (s : State) : Reader :=
  { k := s.iss.core, c := s.iss.ctx, owner := .ctx s.iss.core s.iss.ctx, asid := (selfCore s).asid.toNat }

/-- The eight bytes of a lock word can be read and written (R231, R432). -/
abbrev LockWordGood (s : State) (pa : Nat) : Prop :=
  s.hbm.wf = true ∧ ∀ i, i < 8 → s.badByte (pa + i) = false ∧ s.stackReady (stackOf (pa + i)) = true

/-- No core has a store to the word on its way (R237). -/
abbrev NoStoreTo (s : State) (k pa : Nat) : Prop := ∀ e ∈ (s.core k).stores, ∀ b ∈ e.bytes, b.1 / 8 ≠ pa / 8

/-- R163, R304: a matrix operand of a format that `ok` accepts. -/
abbrev MatrixLegal (ok : Nat → Bool) (h : HandleBits) : Prop :=
  contentOk h = true ∧ ok (hFmt h) = true ∧ hDims h ≤ 1 ∧ hLen h 0 ≤ 16 ∧ hLen h 1 ≤ 16 ∧ hChan h = false

/-- R272: a one-dimensional INT8 handle of `n` elements in the own tile from offset `off` on. -/
def int8Vector (off n : Nat) : HandleBits := BitVec.ofNat 256 (0xF * 2 ^ 44 + off + n * 2 ^ 64 + 2 ^ 128)

/-- The bytes that the fetch of row `i` brought of column `n`, where only the columns of a mask were fetched (R316). -/
def fetchedElement (e : MatrixEntry) (cols n i : Nat) : List Byte :=
  let size := (spotBytes (kind e.h) 0).length
  (((e.rows.getD i []).drop (((List.range n).filter (maskBit cols)).length * size)).take size)

/-- R310: the accumulator that an element of an image of a format becomes: FP16 and BF16 widened, FP32 and INT32 as they
are. -/
def accFrom (f : Nat) (bs : List Byte) : BitVec 32 :=
  let v := little bs
  BitVec.ofNat 32 (if f = 0x10 then (single.convert 0 ((⟨5, 10⟩ : Fmt).decode v)).1
    else if f = 0x11 then (single.convert 0 ((⟨8, 7⟩ : Fmt).decode v)).1 else v)

/-- R309: what an accumulator becomes in a result of a format, and its flags. -/
def accTo (f : Nat) (v : BitVec 32) : Nat × Flag :=
  if f = 0x10 then (⟨5, 10⟩ : Fmt).convert 0 (single.decode v.toNat)
  else if f = 0x11 then (⟨8, 7⟩ : Fmt).convert 0 (single.decode v.toNat) else (v.toNat, 0)

/-- R308, R309: the flags that an entry gives to its context: those of every sum of `mma`, and of every element that `mst`
narrows; of the latter NV and OF alone. -/
def entryFlags (s : State) (e : MatrixEntry) : Flag :=
  let acc := (s.ctx s.input.core e.ctx).acc
  let plane := (s.core s.input.core).active
  match e.op with
  | .multiply => ((e.cells plane).map fun c => (e.macc plane (Tab.get 0 acc (16 * c.1 + c.2)) c.1 c.2).2).foldl (· ||| ·) 0
  | .store =>
    ((selected e.h e.s).map fun c => (accTo (hFmt e.h) (Tab.get 0 acc (16 * c.2 + c.1))).2 &&& 5#7).foldl (· ||| ·) 0
  | _ => 0

/-- R300, R304: the bytes of an element of a result of a format. -/
def resultSize (f : Nat) : Nat := if f = 0x12 ∨ f = 0x04 then 4 else 2

/-- R161, R272: a two-dimensional handle of `rows` rows of `cols` elements from BASE on, its elements one after the other
and its rows `pitch` bytes apart. -/
def matrixHandle (base f cols rows pitch : Nat) : HandleBits :=
  BitVec.ofNat 256 (base + f * 2 ^ 48 + 2 ^ 54 + cols * 2 ^ 64 + rows * 2 ^ 80 + resultSize f * 2 ^ 128 + pitch * 2 ^ 152)

/-- R304: such a handle is a matrix operand, and its rows do not overlap. -/
abbrev ResultFits (f cols rows pitch : Nat) : Prop :=
  cols ≤ 16 ∧ rows ≤ 16 ∧ resultSize f * cols ≤ pitch ∧ pitch < 2 ^ 23

/-- R309: every selected element (n, i) of a result stands at its place from `base` on, as its accumulator in the format
of the result, and no other byte has changed. -/
def ResultStored (old new : Nat → Byte) (cells : List (Nat × Nat)) (acc : Tab (BitVec 32)) (f pitch base : Nat) : Prop :=
  (∀ c ∈ cells, ∀ j, j < resultSize f →
    new (base + c.2 * pitch + c.1 * resultSize f + j) =
      BitVec.ofNat 8 ((accTo f (Tab.get 0 acc (16 * c.2 + c.1))).1 / 256 ^ j)) ∧
  ∀ x, (∀ c ∈ cells, x < base + c.2 * pitch + c.1 * resultSize f ∨
    base + c.2 * pitch + c.1 * resultSize f + resultSize f ≤ x) → new x = old x

/-- The bytes of row `i` of an own-tile operand under the columns, bytes beyond the tile reading 0 (R220, R316). -/
def tileRow (s : State) (k : Nat) (h : HandleBits) (i : Nat) (cols : List Nat) : List Byte :=
  (rowBytes h i cols).map fun b =>
    if tileSpot h b.1 + b.2 < 2 ^ 20 then s.tileByte k (tileSpot h b.1 + b.2) else 0#8

end Sys2Proof.Claims

/-- R241, R242, R244: an atomic on a word of the own tile reads it, replaces it by the operation's value and gives
the old value as its result, at once; no other byte of the tile changes. R107, R241: an atomic whose address is not
a multiple of its width is the illegal-operand fault with the value subcode, and FLTADDR is the address. -/
def Obligations.TileAtomics : Prop :=
  (∀ p ∈ atomicTable, ∀ (rd ra rb : BitVec 6) (la : BitVec 4) (s s0 s1 s2 : State) (a b : Word) (off : Nat) (old : Word),
     Gives (makeRoomFor (scalarDest rd la)) s () s0 → Gives (readS ra) s0 a s1 → Gives (readS rb) s1 b s2 →
     a = ownTile off → off % p.2.1 = 0 → off < 2 ^ 20 → (off + 8 ≤ 0x7C0 ∨ 0x800 ≤ off) →
     WriteClear s2 off p.2.1 → (selfCore s).bad = [] → (selfCore s).tile.wf = true →
     (rd = 60#6 → p.1 0 0 0 0 ≠ .amoCas 0 0 0 0 ∧ (self s2).ldq.length < 16) →
     old = wrap (little (tileRun s s.iss.core off p.2.1)) →
     ∃ t, Machine.exec (p.1 rd ra rb la) s = .next t ∧ ScalarResult s2 t rd la (some old) ∧
       (self t).satf = (self s2).satf ||| (p.2.2 old b ((self s0).scalar rd.toNat)).2.setWidth 64 ∧
       ∀ o, Memory.read (selfCore t).tile o =
         if off ≤ o ∧ o < off + p.2.1 then
           BitVec.ofNat 8 ((p.2.2 old b ((self s0).scalar rd.toNat)).1.toNat / 256 ^ (o - off))
         else Memory.read (selfCore s).tile o) ∧
  (∀ p ∈ atomicTable, ∀ (rd ra rb : BitVec 6) (la : BitVec 4) (s s0 s1 s2 : State) (a b : Word),
     Gives (makeRoomFor (scalarDest rd la)) s () s0 → Gives (readS ra) s0 a s1 → Gives (readS rb) s1 b s2 →
     rd ≠ 60#6 → a.toNat % p.2.1 ≠ 0 →
     Machine.exec (p.1 rd ra rb la) s = .next (s.takeTrap { cause := 0x04, addr := a, info := 4#64 }))

/-- R241 to R243: an atomic on a word of this package's HBM goes to the cluster atomic engine of its line and retires, and
its result is awaited. CLUSTER_ATOMIC: the request that the engine chooses is performed: the word is replaced, no other byte of HBM
changes, and the requester's access holds the old value and the operation's flags. -/
def Obligations.GlobalAtomics : Prop :=
  (∀ op, op < 11 → ∀ p, atomicTable[op]? = some p →
    ∀ (rd ra rb : BitVec 6) (la : BitVec 4) (s s0 s1 s2 s3 : State) (a b : Word) (pa : Nat) (rest : List ByteRef),
    Gives (makeRoomFor (scalarDest rd la)) s () s0 → Gives (readS ra) s0 a s1 → Gives (readS rb) s1 b s2 →
    a.toNat % p.2.1 = 0 → (rd = 60#6 → op ≠ 9 ∧ (self s3).ldq.length < 16) →
    Gives (accessRefs .both p.2.1 a true) s2 (.hbm pa :: rest) s3 → (∀ r ∈ rest, ∃ q, r = .hbm q) →
    s3.waitOver s.iss.core s.iss.ctx (.globalBytes (refPas (.hbm pa :: rest))) = true → (selfCore s3).nt = [] →
    ∃ t q, Machine.exec (p.1 rd ra rb la) s = .next t ∧ ScalarResult s3 t rd la none ∧
      (Tab.get {} (t.die (engineOf pa).1).atomics (engineOf pa).2).queue =
        (Tab.get {} (s3.die (engineOf pa).1).atomics (engineOf pa).2).queue ++ [q] ∧
      q.pa = pa ∧ q.op = op ∧ q.b = b ∧ q.x = (self s0).scalar rd.toNat ∧ q.core = s.iss.core ∧ q.ctx = s.iss.ctx ∧
      q.node = none ∧ q.deposit = none ∧
      ∃ p', (self t).pending = (self s3).pending ++ [p'] ∧ p'.id = q.id ∧ p'.ready = false) ∧
  (∀ (s : State) (i : Nat) (q : AtomicReq) (old : Word),
    s.atomicChoice (Tab.get {} (s.die s.input.die).atomics s.input.n) = some (i, q) → q.op < 11 → q.node = none →
    q.deposit = none → s.hbm.wf = true → (∀ j, j < 8 → s.badByte (q.pa + j) = false) →
    old = wrap (little (s.hbmBytes q.pa (if q.op = 10 then 4 else 8))) →
    ∃ t, Machine.exec .clusterAtomic s = .next t ∧
      (∀ x, Memory.read t.hbm x =
        if q.pa ≤ x ∧ x < q.pa + (if q.op = 10 then 4 else 8) then
          BitVec.ofNat 8 ((atomicCode q.op old q.b q.x).1.toNat / 256 ^ (x - q.pa))
        else Memory.read s.hbm x) ∧
      (∀ p ∈ (s.ctx q.core q.ctx).pending, p.id = q.id → p.ready = false → ∃ p' ∈ (t.ctx q.core q.ctx).pending,
        p'.id = p.id ∧ p'.ready = true ∧
        p'.bytes = (lowBytes (if q.op = 10 then 4 else 8) old.toNat).map Source.known ∧
        p'.flags = (atomicCode q.op old q.b q.x).2))

/-- R257 to R262: `acq`, after its context's loads, and `rel`, after the writes that it covers (bound to its object, or
visible: R261), send their request to the engine of a lock word of this package and wait; once the engine has answered
that it is done they retire, and an error is the illegal-operand fault with the value subcode. For a lock word of another
node they ask it, and retire with its answer. `fence` retires once the accesses of its scope are performed, and `drain`
once the buffered lines of the context are. -/
def Obligations.LockAndOrderInstructions : Prop :=
  (∀ (ra : BitVec 6) (k : BitVec 8) (s s1 : State) (v : Word), Gives (readS ra) s v s1 → v.toNat / 2 % 4 = 0 →
    tileSpace v = false → (self s).latch = .answered 0 → Machine.exec (.acq ra k) s = .next (retires s1) ∧
    Machine.exec (.rel ra k) s = .next (retires s1)) ∧
  (∀ (ra : BitVec 6) (k : BitVec 8) (s s1 : State) (v w : Word), Gives (readS ra) s v s1 → v.toNat / 2 % 4 = 0 →
    tileSpace v = false → (self s).latch = .answered w → w ≠ 0 →
    Machine.exec (.acq ra k) s =
      .next (s.takeTrap { cause := 0x04, addr := wrap (v.toNat / 8 * 8 : Nat), info := 4#64 }) ∧
    Machine.exec (.rel ra k) s =
      .next (s.takeTrap { cause := 0x04, addr := wrap (v.toNat / 8 * 8 : Nat), info := 4#64 })) ∧
  (∀ (ra : BitVec 6) (k : BitVec 8) (s s1 s2 : State) (v : Word) (n va : Nat) (rest : List ByteRef) (a : Answer),
    Gives (readS ra) s v s1 → v.toNat / 2 % 4 = 0 → tileSpace v = false → a.status = 0 → a.data ≠ [] →
    Gives (accessRefs .both 8 (wrap (v.toNat / 8 * 8 : Nat)) true) s1 (.node n va :: rest) s2 →
    ((self s).pending = [] → (∀ w, (self s).latch ≠ .answered w) →
      s2.answer (.ctx s.iss.core s.iss.ctx)
        { node := n, asid := (selfCore s2).asid.toNat, va, ask := .acquire (v.getLsbD 0) } = some a →
      Machine.exec (.acq ra k) s = .next (retires s2)) ∧
    ((self s).latch = .asked →
      s2.answer (.ctx s.iss.core s.iss.ctx)
        { node := n, asid := (selfCore s1).asid.toNat, va, ask := .release (v.getLsbD 0) } = some a →
      Machine.exec (.rel ra k) s = .next (retires s2))) ∧
  (∀ (ra : BitVec 6) (k : BitVec 8) (s s1 s2 : State) (v : Word) (pa : Nat) (rest : List ByteRef),
    Gives (readS ra) s v s1 → v.toNat / 2 % 4 = 0 → tileSpace v = false → (self s).latch = .none →
    (self s).pending = [] → (selfCore s).nt = [] →
    Gives (accessRefs .both 8 (wrap (v.toNat / 8 * 8 : Nat)) true) s1 (.hbm pa :: rest) s2 →
    ∃ t q, Machine.exec (.acq ra k) s = .next t ∧ (self t).state = .wait ∧ (self t).latch = .asked ∧
      t.locks = s2.locks ++ [q] ∧ q.release = false ∧ q.shared = v.getLsbD 0 ∧ q.pa = pa ∧ q.core = s.iss.core ∧
      q.ctx = s.iss.ctx ∧ q.node = none) ∧
  (∀ (ra : BitVec 6) (k : BitVec 8) (s s1 s2 : State) (v : Word) (pa : Nat) (rest : List ByteRef),
    Gives (readS ra) s v s1 → v.toNat / 2 % 4 = 0 → tileSpace v = false → (self s).latch = .none →
    s1.waitOver s.iss.core s.iss.ctx (.performed (s1.coverOf s.iss.core s.iss.ctx k.toNat
      (some ((selfCore s1).asid.toNat, v.toNat / 8 * 8)))) = true → (selfCore s).nt = [] →
    Gives (accessRefs .both 8 (wrap (v.toNat / 8 * 8 : Nat)) true) s1 (.hbm pa :: rest) s2 →
    ∃ t q, Machine.exec (.rel ra k) s = .next t ∧ (self t).state = .wait ∧ (self t).latch = .asked ∧
      t.locks = s2.locks ++ [q] ∧ q.release = true ∧ q.shared = v.getLsbD 0 ∧ q.pa = pa ∧ q.core = s.iss.core ∧
      q.ctx = s.iss.ctx ∧ q.node = none) ∧
  (∀ s : State,
    s.waitOver s.iss.core s.iss.ctx (.fenced (s.coverOf s.iss.core s.iss.ctx s.iss.code.k8.toNat none)) = true →
    Machine.exec .fence s = .next (retires s)) ∧
  (∀ s : State, (∀ l ∈ (selfCore s).nt, l.holds s.iss.ctx = false) →
    s.waitOver s.iss.core s.iss.ctx (.drained s.iss.code.k8.toNat) = true →
    Machine.exec .drain s = .next (retires s))

/-- R254, R256, R259: the steps of a lock word's engine. LOCK_REQUEST: with nobody waiting, an exclusive request of a free
word records its holder, and a shared one of a word without exclusive holder raises the count; the requester may go
on. LOCK_RELEASE, with nobody waiting: the holder's exclusive release clears the holder and raises the release count, a
shared one lowers the count. LOCK_RETRY: a refused request is on its way again. -/
def Obligations.LockWords : Prop :=
  (∀ (s : State) (q : LockReq) (w : Nat), s.locks[s.input.n]? = some q → q.release = false → q.node = none →
    s.node < 64 → q.core < 2 ^ 16 → LockWordGood s q.pa → NoStoreTo s q.core q.pa →
    (∀ r ∈ s.lockQueue q.pa, r.pa ≠ q.pa) → w = (s.lockWord q.pa).toNat → w / 2 ^ 54 = 0 →
    (q.shared = false → w / 2 ^ 16 % 2 ^ 16 = 0) → (q.shared = true → w / 2 ^ 16 % 2 ^ 16 < 65535) →
    ∃ t, Machine.exec .lockRequest s = .next t ∧ t.locks = dropNth s.locks s.input.n ∧
      t.lockWord q.pa = wrap (if q.shared then (w : Int) + 2 ^ 16
        else 2 ^ 63 + s.node * 2 ^ 48 + q.core * 2 ^ 32 + w % 2 ^ 32) ∧
      ((s.ctx q.core q.ctx).latch = .asked → (t.ctx q.core q.ctx).latch = .answered 0)) ∧
  (∀ (s : State) (q : LockReq) (w : Nat), s.locks[s.input.n]? = some q → q.release = true → q.node = none →
    LockWordGood s q.pa → NoStoreTo s q.core q.pa → (∀ r ∈ s.lockQueue q.pa, r.pa ≠ q.pa) →
    w = (s.lockWord q.pa).toNat → w / 2 ^ 54 % 2 ^ 9 = 0 →
    (q.shared = false → w / 2 ^ 63 = 1 ∧ w / 2 ^ 48 % 64 = s.node ∧ w / 2 ^ 32 % 2 ^ 16 = q.core) →
    (q.shared = true → w / 2 ^ 63 = 0 ∧ w / 2 ^ 16 % 2 ^ 16 ≠ 0) →
    ∃ t, Machine.exec .lockRelease s = .next t ∧ t.locks = dropNth s.locks s.input.n ∧
      t.lockWord q.pa = wrap (if q.shared then (w : Int) - 2 ^ 16
        else w / 2 ^ 16 % 2 ^ 16 * 2 ^ 16 + (w + 1) % 2 ^ 16) ∧
      ((s.ctx q.core q.ctx).latch = .asked → (t.ctx q.core q.ctx).latch = .answered 0)) ∧
  (∀ (s : State) (q : LockReq) (rest : List LockReq), s.retries = q :: rest → q.core = s.input.core →
    q.ctx = s.input.ctx → Machine.exec .lockRetry s = .next { s with retries := rest, locks := s.locks ++ [q] })

/-- R245 to R248: a copy whose operands and descriptor are legal, whose pages are confirmed and for which there is
room enters the core's copies under its tag, whose TAGS bit falls, and retires; one without elements has completed when
it retires. R246, R248, R249: COPY_DONE for a plain copy of an INT8 vector within the own tile that no queued `mst` will
write: once all its elements have moved, the destination holds the
source's bytes, nothing else of the tile has changed, the copy is gone, and its tag's bit is set if no other
copy of the tag is in progress. -/
def Obligations.Copies : Prop :=
  (∀ (shadow remote : Bool) (i : Instr) (hd ha la : BitVec 4) (rs : BitVec 6) (s s1 s2 s3 s4 s5 s6 : State) (v : Word)
     (form : CopyForm) (base : Nat) (reads writes : List Nat) (mapA mapD : List Confirmed) (e f : Bool),
     i = (if shadow then .copyH hd ha rs la else if remote then .copyR hd ha rs la else .copy hd ha rs la) →
     ¬(shadow = true ∧ remote = true) → Gives (readS rs) s v s1 →
     (let d := (self s1).handle hd.toNat
      let a := (self s1).handle ha.toNat
      let ta := s6.copyTargets s.iss.core mapA a
      let td := if form = .plain then s6.copyTargets s.iss.core mapD d else []
      contentOk d = true ∧ contentOk a = true ∧ copyFits d a = true ∧
      Gives (copyForm shadow remote v d) s1 (form, base) s2 ∧
      (form = .plain → Gives (checkPeer d (copyPlaces d)) s2 () s2) ∧
      Gives (spotVas a (copyPlaces a) false) s2 reads s3 ∧
      ((form = .plain ∧ Gives (spotVas d (copyPlaces d) true) s3 writes s4) ∨
       (form ≠ .plain ∧ writes = [] ∧ s4 = s3)) ∧
      Gives (confirmPages (ctxReader s) .read (pageFirsts reads)) s4 (mapA, e) s5 ∧
      Gives (confirmPages (ctxReader s) .write (pageFirsts writes)) s5 (mapD, f) s6 ∧
      s6.waitOver s.iss.core s.iss.ctx (.laneReads (copyTiles s.iss.core a)) = true ∧
      s6.waitOver s.iss.core s.iss.ctx (.globalBytes (targetPas (ta ++ td))) = true ∧
      s6.waitOver s.iss.core s.iss.ctx (.nodeBytes (targetNodes (ta ++ td))) = true ∧
      (form = .plain → s6.waitOver s.iss.core s.iss.ctx (.laneBytes (copyTiles s.iss.core d)) = true) ∧
      s6.waitOver s.iss.core s.iss.ctx (.copyRoom (v.toNat % 64)) = true ∧ (selfCore s6).nt = []) →
     ∃ t, Machine.exec i s = .next t ∧ t.iss.retired = true ∧
       (hCount ((self s1).handle ha.toNat) ≠ 0 → ∃ q, (selfCore t).copies = (selfCore s6).copies ++ [q] ∧
         q.tag = v.toNat % 64 ∧ q.form = form ∧ q.dst = (self s1).handle hd.toNat ∧
         q.src = (self s1).handle ha.toNat ∧ q.ctx = s.iss.ctx ∧ q.done = 0 ∧ q.total = hCount q.src ∧
         q.map = mapA ++ mapD ∧ q.base = base ∧ (selfCore t).tags.getLsbD (v.toNat % 64) = false ∧
         Tab.get 0 (selfCore t).tagCount (v.toNat % 64) = Tab.get 0 (selfCore s6).tagCount (v.toNat % 64) + 1) ∧
       (hCount ((self s1).handle ha.toNat) = 0 → (selfCore t).copies = (selfCore s6).copies ∧
         Tab.get 0 (selfCore t).tagCount (v.toNat % 64) = Tab.get 0 (selfCore s6).tagCount (v.toNat % 64) ∧
         (selfCore t).tags.getLsbD (v.toNat % 64) =
           decide (Tab.get 0 (selfCore s6).tagCount (v.toNat % 64) = 0))) ∧
  (∀ (s : State) (c : Copy) (rest : List Copy) (d a n : Nat),
     (s.core s.input.core).copies = c :: rest → s.input.n = 0 → s.input.m = n → 0 < n → n < 2 ^ 16 → c.total = n →
     c.done = 0 → c.form = .plain → c.dst = int8Vector d n → c.src = int8Vector a n → d + n ≤ 2 ^ 20 → a + n ≤ 2 ^ 20 →
     (d + n ≤ 0x7C0 ∨ 0x800 ≤ d) → (d + n ≤ a ∨ a + n ≤ d) → (s.core s.input.core).bad = [] → s.requests = [] →
     (∀ e ∈ rest, e.id ≠ c.id) → (s.core s.input.core).tile.wf = true →
     (∀ b, s.mstTile s.input.core b = false) →
     ∃ t, Machine.exec .copyDone s = .next t ∧ (t.core s.input.core).copies = rest ∧
       (∀ i, i < n → Memory.read (t.core s.input.core).tile (d + i) = s.tileByte s.input.core (a + i)) ∧
       (∀ x, (x < d ∨ d + n ≤ x) →
         Memory.read (t.core s.input.core).tile x = Memory.read (s.core s.input.core).tile x) ∧
       (Tab.get 0 (s.core s.input.core).tagCount c.tag = 1 → c.tag < 64 →
         (t.core s.input.core).tags.getLsbD c.tag = true))

/-- R302, R304 to R312, R316: `mld.w`, `mma` and `mld.r` of an own-tile operand fetch the rows that their masks select,
and enter the matrix queue; one whose fetch was interrupted goes on from the rows it has, and with the row that has left
under the translation it left with (R319); `mst`, `mswap` and `mzero` enter
the queue; `mstat` gives the unit's state. Each retires, and R318: drops what it has not used of the replay store. -/
def Obligations.MatrixInstructions : Prop :=
  (∀ (i : Instr) (ha la : BitVec 4) (rs : BitVec 6) (s s1 : State) (v : Word) (op : MatrixOp) (ok : Nat → Bool)
      (h : HandleBits),
    ((i = .mldW ha la ∧ op = .loadWeights ∧ ok = weightFmt ∧ v = 0 ∧ s1 = s) ∨
     (i = .mma ha rs la ∧ op = .multiply ∧ ok = weightFmt ∧ Gives (readS rs) s v s1 ∧ v.toNat < 2 ^ 49) ∨
     (i = .mldR ha rs la ∧ op = .loadAcc ∧ ok = resultFmt ∧ Gives (readS rs) s v s1)) →
    h = (self s).handle ha.toNat → MatrixLegal ok h → hTile h = true → hPeer h = false →
    (selfCore s).matrix.length < 8 → (∀ e ∈ (selfCore s).matrix, e.ctx ≠ s.iss.ctx ∧ e.op ≠ .store) →
    (selfCore s).lanes = [] → (selfCore s).bad = [] → (self s).staging = none →
    (∀ e ∈ (selfCore s).matrix, e.id ≠ (selfCore s).seq) →
    ∃ t q, Machine.exec i s = .next t ∧ t.iss.retired = true ∧ (self t).staging = none ∧ (self t).replay = [] ∧
      (selfCore t).matrix = (selfCore s).matrix ++ [q] ∧ q.ctx = s.iss.ctx ∧ q.op = op ∧ q.h = h ∧ q.s = v ∧ q.fetched = true ∧
      q.rows = (List.range (hLen h 1)).map fun r =>
        if maskBit (op.fetchMasks h v).1 r then
          tileRow s s.iss.core h r (maskList (op.fetchMasks h v).2) else []) ∧
  (∀ (i : Instr) (ha la : BitVec 4) (rs : BitVec 6) (s s1 s2 : State) (v : Word) (ok : Nat → Bool) (e : MatrixEntry)
      (r : RowFetch),
    ((i = .mldW ha la ∧ ok = weightFmt ∧ s1 = s) ∨
     (i = .mma ha rs la ∧ ok = weightFmt ∧ Gives (readS rs) s v s1 ∧ v.toNat < 2 ^ 49) ∨
     (i = .mldR ha rs la ∧ ok = resultFmt ∧ Gives (readS rs) s v s1)) →
    MatrixLegal ok ((self s).handle ha.toNat) → (selfCore s1).fetching s.iss.ctx = some e →
    Gives (fetchRows { ctxReader s with asid := e.asid } e.h
      (e.op.fetchMasks e.h e.s).1 (maskList (e.op.fetchMasks e.h e.s).2) e.left
      ((upFrom 0 (hLen e.h 1)).drop e.rows.length)) s1 r s2 → r.stop.isNone = true →
    ∃ t, Machine.exec i s = .next t ∧ t.iss.retired = true ∧ (self t).staging = none ∧ (self t).replay = [] ∧
      (selfCore t).matrix = (selfCore s2).matrix.map
      fun m => if m.id = e.id then { m with rows := e.rows ++ r.rows, left := none, fetched := true } else m) ∧
  (∀ (hd la : BitVec 4) (rs : BitVec 6) (s s1 s2 s3 : State) (v : Word) (h : HandleBits) (vas : List Nat)
      (map : List Confirmed) (u : Bool),
    Gives (readS rs) s v s1 → h = (self s).handle hd.toNat → MatrixLegal resultFmt h →
    Gives (checkPeer h (resultBytes h v)) s1 () s1 → Gives (spotVas h (resultBytes h v) true) s1 vas s2 →
    Gives (confirmPages (ctxReader s) .write (pageFirsts vas)) s2 (map, u) s3 →
    (selfCore s3).matrix.length < 8 → (∀ e ∈ (selfCore s3).matrix, e.op ≠ .store) → (selfCore s3).lanes = [] →
    ∃ t q, Machine.exec (.mst hd rs la) s = .next t ∧ t.iss.retired = true ∧
      (self t).replay = [] ∧ (selfCore t).matrix = (selfCore s3).matrix ++ [q] ∧ q.ctx = s.iss.ctx ∧ q.op = .store ∧ q.h = h ∧ q.s = v ∧
      q.map = map ∧ q.fetched = true) ∧
  (∀ (i : Instr) (op : MatrixOp) (s : State), ((i = .mswap ∧ op = .swap) ∨ (i = .mzero ∧ op = .zero)) →
    (selfCore s).matrix.length < 8 →
    ∃ t q, Machine.exec i s = .next t ∧ t.iss.retired = true ∧ (self t).replay = [] ∧
      (selfCore t).matrix = (selfCore s).matrix ++ [q] ∧ q.ctx = s.iss.ctx ∧ q.op = op ∧ q.fetched = true) ∧
  (∀ (rs : BitVec 6) (la : BitVec 4) (s s1 : State), Gives (makeRoomFor (scalarDest rs la)) s () s1 →
    ∃ t, Machine.exec (.mstat rs la) s = .next t ∧ (self t).replay = [] ∧ ScalarResult s1 t rs la (some (wrap
      ((selfCore s1).active.nvalid.toNat * 2 ^ 48 + (selfCore s1).active.kvalid.toNat * 2 ^ 32 +
       (selfCore s1).shadow.fmt.toNat * 2 ^ 24 + (selfCore s1).active.fmt.toNat * 2 ^ 16 +
       (if (selfCore s1).matrix.any (fun e => e.ctx == s.iss.ctx) then 16 else 0) + (selfCore s1).matrix.length))))

/-- R306 to R311, R313: MATRIX_ENTRY_EXECUTE takes the fetched entry at the head of the queue: `mld.w` loads the
shadow plane, `mswap` exchanges the planes, `mzero` zeroes the context's accumulators, `mma` replaces each
selected accumulator by its sum with the products and no other, `mld.r` sets each selected accumulator from its
fetched element and no other, and `mst` writes the selected elements, in HBM within the step (log 48): element (n, i) is
the accumulator in the result's format, least significant byte first, at the place that the handle gives it in the own
tile, or in the page of HBM that was confirmed for it, and no other byte changes; the context gets the entry's flags, and
`mst` may also set REMERR. R321, R322, R330: MATRIX_INVOKE takes a matrix-invoke message from the LO inbox into the queue;
MATRIX_INVOKE_RUN executes a fetched one at the head of the queue and makes its reply, which carries the error
code; MATRIX_INVOKE_REPLY sends a reply whose writes are performed to the outbox. -/
def Obligations.MatrixSteps : Prop :=
  (∀ (s : State) (e : MatrixEntry) (rest : List MatrixEntry), (s.core s.input.core).matrix = e :: rest →
     e.fetched = true → e.ctx < 16 → (e.op = .store → s.storeReady s.input.core e = true) →
     (∀ c r st tag acc, e.op ≠ .invoke c r st tag acc) →
     ∃ t, Machine.exec .matrixEntryExecute s = .next t ∧ (t.core s.input.core).matrix = rest ∧
       (e.op = .loadWeights → (t.core s.input.core).shadow = e.plane ∧
         (t.core s.input.core).active = (s.core s.input.core).active) ∧
       (e.op = .swap → (t.core s.input.core).shadow = (s.core s.input.core).active ∧
         (t.core s.input.core).active = (s.core s.input.core).shadow) ∧
       (e.op = .zero → ∀ j, Tab.get 0 (t.ctx s.input.core e.ctx).acc j = 0#32) ∧
       (e.op = .multiply → ∀ j, j < 256 → Tab.get 0 (t.ctx s.input.core e.ctx).acc j =
         if (j / 16, j % 16) ∈ e.cells (s.core s.input.core).active then
           (e.macc (s.core s.input.core).active (Tab.get 0 (s.ctx s.input.core e.ctx).acc j) (j / 16) (j % 16)).1
         else Tab.get 0 (s.ctx s.input.core e.ctx).acc j) ∧
       (e.op = .loadAcc → ∀ j, j < 256 → Tab.get 0 (t.ctx s.input.core e.ctx).acc j =
         if (j % 16, j / 16) ∈ selected e.h e.s then
           accFrom (hFmt e.h) (fetchedElement e (colMask e.h e.s) (j % 16) (j / 16))
         else Tab.get 0 (s.ctx s.input.core e.ctx).acc j) ∧
       (e.op ≠ .store →
         (t.ctx s.input.core e.ctx).satf = (s.ctx s.input.core e.ctx).satf ||| (entryFlags s e).setWidth 64) ∧
       (e.op = .store → (t.ctx s.input.core e.ctx).satf ||| 0x40#64 =
         (s.ctx s.input.core e.ctx).satf ||| (entryFlags s e).setWidth 64 ||| 0x40#64) ∧
       (e.op = .store → t.hbm = (s.storeResult s.input.core e e.map e.h e.s (s.ctx s.input.core e.ctx).acc).1.hbm ∧
         (t.core s.input.core).tile =
           ((s.storeResult s.input.core e e.map e.h e.s (s.ctx s.input.core e.ctx).acc).1.core s.input.core).tile) ∧
       (∀ (f off cols rows pitch : Nat), e.op = .store → (f, resultSize f) ∈ [(0x12, 4), (0x10, 2), (0x11, 2), (0x04, 4)] →
         e.h = matrixHandle (0xF * 2 ^ 44 + off) f cols rows pitch → ResultFits f cols rows pitch →
         off + pitch * rows ≤ 2 ^ 20 → (off + pitch * rows ≤ 0x7C0 ∨ 0x800 ≤ off) →
         (s.core s.input.core).tile.wf = true →
         ResultStored (Memory.read (s.core s.input.core).tile) (Memory.read (t.core s.input.core).tile)
           (selected e.h e.s) (s.ctx s.input.core e.ctx).acc f pitch off) ∧
       (∀ (f va cols rows pitch : Nat) (c : Confirmed), e.op = .store →
         (f, resultSize f) ∈ [(0x12, 4), (0x10, 2), (0x11, 2), (0x04, 4)] →
         e.h = matrixHandle va f cols rows pitch → ResultFits f cols rows pitch → va < 0xF * 2 ^ 44 →
         va % 4096 + pitch * rows ≤ 4096 → confirmedAt e.map va = some c → c.node = none → c.buffer = none →
         c.pa % 4096 = 0 → stackOf c.pa ∉ s.failedStacks → s.hbm.wf = true →
         ResultStored (Memory.read s.hbm) (Memory.read t.hbm)
           (selected e.h e.s) (s.ctx s.input.core e.ctx).acc f pitch (c.pa + va % 4096))) ∧
  ((∀ (s : State) (m : Msg) (rest : List Msg), (s.core s.input.core).loInbox = m :: rest → m.kind = 5 →
     (s.core s.input.core).matrix.length < 8 → (s.core s.input.core).jobBusy = false →
     ∃ t, Machine.exec .matrixInvoke s = .next t ∧ (t.core s.input.core).loInbox = rest ∧
       (t.core s.input.core).matrix = (s.core s.input.core).matrix ++
         [m.entry (s.core s.input.core).seq (s.core s.input.core).asid.toNat]) ∧
   (∀ (s : State) (e : MatrixEntry) (rest : List MatrixEntry) (c : HandleBits) (rhdr : Word) (stat tag : Nat) (acc : Bool),
     (s.core s.input.core).matrix = e :: rest → e.ctx = 16 → e.op = .invoke c rhdr stat tag acc → e.fetched = true →
     s.input.n = 0 →
     ((e.err = 0 ∨ e.err = 3) → s.storeReady s.input.core { e with op := .store, h := c } = true) →
     ∃ t r, Machine.exec .matrixInvokeRun s = .next t ∧ (t.core s.input.core).matrix.length = rest.length ∧
       (t.core s.input.core).replies = (s.core s.input.core).replies ++ [r] ∧ r.msg.hdr0 = rhdr ∧
       (r.msg.payload.getD 0 0).toNat / 2 ^ 8 = e.err % 2 ^ 56 ∧ r.msg.payload.getD 1 0 = wrap stat ∧
       (e.err ≠ 0 → e.err ≠ 3 → ∀ x, Memory.read t.hbm x = Memory.read s.hbm x)) ∧
   (∀ (s : State) (r : OutEntry) (rest : List OutEntry), (s.core s.input.core).replies = r :: rest →
     s.requests = [] → s.ports = [] → (s.core s.input.core).outbox.length < 16 → r.node = s.node →
     ∃ t, Machine.exec .matrixInvokeReply s = .next t ∧ (t.core s.input.core).replies = rest ∧
       (t.core s.input.core).outbox = (s.core s.input.core).outbox ++ [r]))


/-! ## Control registers, control flow, messages and counters (R134 to R138, R168 to R187, R345 to R354, R393 to R412) -/

namespace Sys2Proof.Claims

/-- The context that CTXSEL names (R177). -/
def ctxselOf (s : State) : Nat := (selfCore s).ctxsel.toNat % 16

/-- R168, R177: the context may reach the register: only context 15 those from 0x103 on, and the window only while the
selected context is TRAPPED or FREE, or is context 15. -/
abbrev MayReach (s : State) (n : Nat) : Prop :=
  (0x103 ≤ n → s.iss.ctx = 15) ∧
  (0x800 ≤ n → ctxselOf s = 15 ∨ (s.ctx s.iss.core (ctxselOf s)).state = .trapped ∨
    (s.ctx s.iss.core (ctxselOf s)).state = .free)

/-- The illegal-operand fault with a subcode (R176). -/
def illegal (sub : Nat) : Trap := { cause := 0x04, info := wrap sub }

/-- R22, R326: kinds 1 to 4 and 6 are sinks. -/
def isSink (kind : Nat) : Bool := kind ∈ [1, 2, 3, 4, 6]

/-- R16: the numbers of the states of a context. -/
def stateNumber : CtxState → Nat
  | .free => 0
  | .ready => 1
  | .wait => 2
  | .trapped => 3
  | .saving => 4

/-- R171: GLEAD, GPOS and GX of CTXSTAT. -/
def roleBits : Gang → Nat
  | .alone => 0
  | .joining x => x * 2 ^ 17
  | .leading n _ => n * 2 ^ 25
  | .following x p _ => p * 2 ^ 22 + x * 2 ^ 17

/-- R169, R171: the per-context registers of context `c` of the core that holds the slot. -/
def contextRegisters (s : State) (c : Nat) : List (Nat × Word) :=
  let t := s.ctx s.iss.core c
  [(0x001, t.prec), (0x002, t.rmode), (0x003, t.satf), (0x004, t.oob),
   (0x005, wrap (t.repi * 2 ^ 32 + t.windows.length * 2 ^ 28 + roleBits t.gang + (if c = 15 then 512 else 0) +
     (if t.hi then 256 else 0) + c * 16 + stateNumber t.state)),
   (0x006, t.hdr0), (0x007, t.hdr1), (0x008, t.launchId.setWidth 64), (0x009, t.barRect),
   (0x00A, t.barPh.setWidth 64), (0x00B, wrap ((selfCore s).spoil.filter fun h => h.ctx == c).length)]

/-- R169, R172, R192, R195: the registers of the core that holds the slot. CTXCMD is write-only and reads zero; RESTORE
reads 1 while a restore goes on and else its outcome. -/
def coreRegisters (s : State) : List (Nat × Word) :=
  let x := selfCore s
  let k := s.iss.core
  [(0x100, x.tags),
   (0x101, wrap ((k / 32 % 4 * 8 + k % 8) * 2 ^ 56 + (k / 128 % 8 * 4 + k / 8 % 4) * 2 ^ 48 + s.logicalOf k * 2 ^ 32 +
     s.node * 2 ^ 26 + k / 1024 * 2 ^ 24 + k / 32 % 32 * 2 ^ 19 + k % 32 * 2 ^ 14)),
   (0x102, s.ready.setWidth 64), (0x103, x.tvec), (0x104, x.flt), (0x105, x.fltpc), (0x106, x.fltaddr),
   (0x107, x.fltinfo), (0x108, x.ctxsel), (0x109, 0), (0x10A, x.preq.setWidth 64), (0x10B, x.saveBase),
   (0x10C, x.saveMap.setWidth 64),
   (0x10D, wrap (x.restoreCtx.toNat * 16 + if x.restoring = none then x.restoreStat.toNat else 1)),
   (0x10E, wrap (x.jobsw.toNat + (if x.jobBusy then 256 else 0) + if x.jobErr then 512 else 0)),
   (0x10F, x.asid.setWidth 64)]

/-- A change of the context that holds the slot. -/
def changeSelf (s : State) (f : Ctx → Ctx) : State := s.modCtx s.iss.core s.iss.ctx f

/-- A change of the context that CTXSEL names. -/
def changeSelected (s : State) (f : Ctx → Ctx) : State := s.modCtx s.iss.core (ctxselOf s) f

/-- A change of the core that holds the slot. -/
def changeCore (s : State) (f : Core → Core) : State := s.modCore s.iss.core f

end Sys2Proof.Claims

/-- R168 to R179: `mfc` writes the register's value to rd; `mtc` writes s[ra] to the bits of the register that are
there, clears the given bits of a W1C register, and leaves an RO register alone; a reserved value is the illegal-operand
fault with subcode 8, and a register out of reach the one with subcode 6. Writes of PREQ and CTXCMD stand in
SupervisorCommands. What a write of JOBSW does to BUSY and ERR (BUSY and no ERR where a command starts, both as they
were for CMD 0 and 3) is the model's choice (log 105). -/
def Obligations.ControlRegisters : Prop :=
  (∀ (rd : BitVec 6) (csr : BitVec 12) (s t : State), MayReach s csr.toNat →
    (csr = 0x003#12 → s.waitOver s.iss.core s.iss.ctx .flags = true) →
    Gives (writeS rd (s.register csr.toNat)) s () t → Machine.exec (.mfc rd csr) s = .next (retires t)) ∧
  (∀ s : State, (∀ p ∈ contextRegisters s s.iss.ctx, s.register p.1 = p.2) ∧
    (∀ p ∈ coreRegisters s, s.register p.1 = p.2) ∧
    (∀ p ∈ contextRegisters s (ctxselOf s), s.register (0x880 + p.1) = p.2) ∧
    (∀ n, n < 64 → s.register (0x800 + n) =
      if n = 60 ∨ n = 61 then 0 else (s.ctx s.iss.core (ctxselOf s)).scalar n) ∧
    (∀ n w, n < 16 → w < 4 → s.register (0x840 + 4 * n + w) =
      wrap (((s.ctx s.iss.core (ctxselOf s)).handle n).toNat / 2 ^ (64 * w) : Nat)) ∧
    s.register 0x900 = (s.ctx s.iss.core (ctxselOf s)).pc) ∧
  (∀ (ra : BitVec 6) (s s1 : State) (v : Word), Gives (readS ra) s v s1 → (self s).state = .ready →
    (v.toNat % 16 ≠ 0 → v.toNat % 16 ≠ 15 → FloatsWritten (self s) →
      Machine.exec (.mtc ra 0x001) s = .next (retires (changeSelf s1 fun t => { t with prec := v &&& 0x1F }))) ∧
    ((v.toNat % 16 = 0 ∨ v.toNat % 16 = 15) → Machine.exec (.mtc ra 0x001) s = .next (s.takeTrap (illegal 8))) ∧
    (v.toNat % 8 < 5 →
      Machine.exec (.mtc ra 0x002) s = .next (retires (changeSelf s1 fun t => { t with rmode := v &&& 0x1F07 }))) ∧
    (5 ≤ v.toNat % 8 → Machine.exec (.mtc ra 0x002) s = .next (s.takeTrap (illegal 8))) ∧
    (s1.waitOver s.iss.core s.iss.ctx .flags = true →
      Machine.exec (.mtc ra 0x003) s = .next (retires (changeSelf s1 fun t => { t with satf := v &&& 0x7F }))) ∧
    Machine.exec (.mtc ra 0x004) s =
      .next (retires (changeSelf s1 fun t => { t with oob := v &&& 0x8000FFFFFFFFFFFF })) ∧
    Machine.exec (.mtc ra 0x100) s = .next (retires (changeCore s1 fun x => { x with tags := x.tags &&& ~~~v })) ∧
    (∀ csr ∈ ([0x005, 0x006, 0x007, 0x008, 0x009, 0x00A, 0x00B, 0x101, 0x102] : List (BitVec 12)),
      Machine.exec (.mtc ra csr) s = .next (retires s1))) ∧
  (∀ (ra : BitVec 6) (s s1 : State) (v : Word), Gives (readS ra) s v s1 → (self s).state = .ready → s.iss.ctx = 15 →
    Machine.exec (.mtc ra 0x103) s = .next (retires (changeCore s1 fun x => { x with tvec := v &&& ~~~1 })) ∧
    Machine.exec (.mtc ra 0x108) s = .next (retires (changeCore s1 fun x => { x with ctxsel := v &&& 0x10F })) ∧
    Machine.exec (.mtc ra 0x10B) s = .next (retires (changeCore s1 fun x => { x with saveBase := v &&& ~~~0x3FFF })) ∧
    Machine.exec (.mtc ra 0x10F) s = .next (retires (changeCore s1 fun x => { x with asid := v.setWidth 13 })) ∧
    (∃ t, Machine.exec (.mtc ra 0x10C) s = .next t ∧ t.iss.retired = true ∧
      (selfCore t).saveMap = (selfCore s).saveMap &&& ~~~(v.setWidth 16)) ∧
    ((selfCore s).restoring = none → (selfCore s).jobBusy = false →
      Machine.exec (.mtc ra 0x10D) s = .next (retires (changeCore s1 fun x => { x with restoring := some v })) ∧
      ((v.toNat % 4 = 1 ∨ v.toNat % 4 = 2) → Machine.exec (.mtc ra 0x10E) s = .next (retires (changeCore s1 fun x =>
        { x with jobsw := v.setWidth 2, jobBusy := true, jobErr := false }))) ∧
      ((v.toNat % 4 = 0 ∨ v.toNat % 4 = 3) → Machine.exec (.mtc ra 0x10E) s =
        .next (retires (changeCore s1 fun x => { x with jobsw := v.setWidth 2 })))) ∧
    (∀ csr ∈ ([0x104, 0x105, 0x106, 0x107] : List (BitVec 12)), Machine.exec (.mtc ra csr) s = .next (retires s1)) ∧
    (MayReach s 0x800 → ∀ n : BitVec 12, n.toNat < 64 → n ≠ 60 → n ≠ 61 → n ≠ 0 →
      ∃ t, Machine.exec (.mtc ra (0x800 + n)) s = .next t ∧ t.iss.retired = true ∧
        (t.ctx s.iss.core (ctxselOf s)).scalar n.toNat = v) ∧
    (MayReach s 0x800 → ∀ n ∈ ([0, 60, 61] : List (BitVec 12)),
      Machine.exec (.mtc ra (0x800 + n)) s = .next (retires s1)) ∧
    (MayReach s 0x840 → ∀ (n w : Nat), n < 16 → w < 4 → ∃ t,
      Machine.exec (.mtc ra (BitVec.ofNat 12 (0x840 + 4 * n + w))) s = .next t ∧ t.iss.retired = true ∧
      ∀ m j, m < 16 → j < 4 → ((t.ctx s.iss.core (ctxselOf s)).handle m).toNat / 2 ^ (64 * j) % 2 ^ 64 =
        if m = n ∧ j = w then v.toNat
        else ((s.ctx s.iss.core (ctxselOf s)).handle m).toNat / 2 ^ (64 * j) % 2 ^ 64) ∧
    (MayReach s 0x880 →
      (v.toNat % 16 ≠ 0 → v.toNat % 16 ≠ 15 → FloatsWritten (s.ctx s.iss.core (ctxselOf s)) →
        Machine.exec (.mtc ra 0x881) s = .next (retires (changeSelected s1 fun t => { t with prec := v &&& 0x1F }))) ∧
      ((v.toNat % 16 = 0 ∨ v.toNat % 16 = 15) → Machine.exec (.mtc ra 0x881) s = .next (s.takeTrap (illegal 8))) ∧
      (v.toNat % 8 < 5 →
        Machine.exec (.mtc ra 0x882) s = .next (retires (changeSelected s1 fun t => { t with rmode := v &&& 0x1F07 }))) ∧
      (5 ≤ v.toNat % 8 → Machine.exec (.mtc ra 0x882) s = .next (s.takeTrap (illegal 8))) ∧
      Machine.exec (.mtc ra 0x883) s = .next (retires (changeSelected s1 fun t => { t with satf := v &&& 0x7F })) ∧
      Machine.exec (.mtc ra 0x884) s =
        .next (retires (changeSelected s1 fun t => { t with oob := v &&& 0x8000FFFFFFFFFFFF })) ∧
      (∀ csr ∈ ([0x885, 0x886, 0x887, 0x888, 0x889, 0x88A, 0x88B] : List (BitVec 12)),
        Machine.exec (.mtc ra csr) s = .next (retires s1))) ∧
    (MayReach s 0x900 → ctxselOf s ≠ 15 → ∃ t, Machine.exec (.mtc ra 0x900) s = .next t ∧ t.iss.retired = true ∧
      (t.ctx s.iss.core (ctxselOf s)).pc = v &&& ~~~1)) ∧
  (∀ (r : BitVec 6) (csr : BitVec 12) (s : State), ¬MayReach s csr.toNat →
    Machine.exec (.mfc r csr) s = .next (s.takeTrap (illegal 6)) ∧
    Machine.exec (.mtc r csr) s = .next (s.takeTrap (illegal 6)))

/-- R178, R187: a write of PREQ, or a write of CTXCMD that acts, is handed over and waited for, and the instruction
retires once it has been performed. PREQ_WRITE sets the bits of the named contexts that are not FREE. CTXCMD_FREE and
CTXCMD_FREE_FAULTED free the TRAPPED context; the second reports status FAULTED for its launch. -/
def Obligations.SupervisorCommands : Prop :=
  (∀ (ra : BitVec 6) (s s1 : State) (v : Word), Gives (readS ra) s v s1 → (self s).state = .ready → s.iss.ctx = 15 →
    ((self s).latch = .none → ∃ t, Machine.exec (.mtc ra 0x10A) s = .next t ∧
      (selfCore t).command = some (0x10A, v) ∧ (self t).state = .wait ∧ (self t).latch = .asked) ∧
    ((self s).latch = .none → (v.toNat / 256 % 4 = 1 ∨ v.toNat / 256 % 4 = 2) →
      (s.ctx s.iss.core (v.toNat % 16)).state = .trapped → ∃ t, Machine.exec (.mtc ra 0x109) s = .next t ∧
      (selfCore t).command = some (0x109, v) ∧ (self t).state = .wait ∧ (self t).latch = .asked) ∧
    ((self s).latch = .none → (v.toNat / 256 % 4 = 0 ∨ v.toNat / 256 % 4 = 3 ∨
      (s.ctx s.iss.core (v.toNat % 16)).state ≠ .trapped) → Machine.exec (.mtc ra 0x109) s = .next (retires s1)) ∧
    ((self s).latch = .asked → Machine.exec (.mtc ra 0x10A) s = .next (retires s1) ∧
      Machine.exec (.mtc ra 0x109) s = .next (retires s1))) ∧
  (∀ (s : State) (v : Word), (s.core s.input.core).command = some (0x10A, v) →
    ∃ t, Machine.exec .preqWrite s = .next t ∧ (t.core s.input.core).command = none ∧
      ∀ c, c < 15 → (t.core s.input.core).preq.getLsbD c =
        ((s.core s.input.core).preq.getLsbD c || (v.getLsbD c && (s.ctx s.input.core c).state != .free))) ∧
  (∀ (s : State) (v : Word) (i : Instr) (cmd : Nat), (s.core s.input.core).command = some (0x109, v) →
    (i = .ctxcmdFree ∧ cmd = 1 ∨ i = .ctxcmdFreeFaulted ∧ cmd = 2) → v.toNat / 256 % 4 = cmd →
    (s.ctx s.input.core (v.toNat % 16)).state = .trapped →
    ∃ t, Machine.exec i s = .next t ∧ (t.core s.input.core).command = none ∧
      (t.ctx s.input.core (v.toNat % 16)).state = .free ∧
      ∀ l, s.launch? (s.ctx s.input.core (v.toNat % 16)).launchId.toNat = some l →
        ∃ l', t.launch? (s.ctx s.input.core (v.toNat % 16)).launchId.toNat = some l' ∧
          l'.status = if cmd = 2 then max l.status 2 else l.status)

/-- R24, R93 to R95, R107, R134 to R138, R180, R185: `nop` does nothing; `trap` retires and stops the context at the next
instruction, `brk` and an illegal encoding at their own; `rep` begins a repetition of the instruction behind it, or is
illegal; `end` frees the context, with its PREQ bit and its held sends; `safe` begins a save if one is asked for and a
slot of SAVEMAP is clear, or where a leader's `safe` began one, and else does nothing. -/
def Obligations.ControlInstructions : Prop :=
  (∀ s : State, Machine.exec .nopShort s = .next (retires s) ∧ Machine.exec .nopW s = .next (retires s)) ∧
  (∀ s : State, s.iss.ctx ≠ 15 → ∃ t, Machine.exec .trap s = .next t ∧ t.iss.retired = true ∧
    (self t).state = .trapped ∧ (self t).pc = s.iss.next ∧
    (selfCore t).activations = (selfCore s).activations ++
      [⟨0x09, some s.iss.ctx, s.iss.next, 0, s.iss.code.k8.setWidth 64⟩]) ∧
  (∀ s : State, Machine.exec .brk s = .next (s.takeTrap { cause := 0x0A, info := s.iss.code.k8.setWidth 64 })) ∧
  (∀ (s : State) (h : BitVec 16) (w : BitVec 32),
    (s.iss.code = .short h → Machine.exec .illegalInstruction s =
      .next (s.takeTrap { cause := 0x02, info := wrap (2 ^ 32 + h.toNat) })) ∧
    (s.iss.code = .long w → Machine.exec .illegalInstruction s =
      .next (s.takeTrap { cause := 0x02, info := wrap w.toNat }))) ∧
  (∀ (s s1 : State) (c : Code), Gives (fetchCode ((self s).pc + 2)) s c s1 →
    (repeatable s.iss.code.repMask c = true → Machine.exec .rep s =
      .next (changeSelf s1 fun t => { t with repeating := some (s.iss.code.repCount, s.iss.code.repMask) })) ∧
    (repeatable s.iss.code.repMask c = false → Machine.exec .rep s =
      .next (s.takeTrap { cause := 0x02, info := Machine.Code.fltInfo s.iss.code }))) ∧
  (∀ (i : Instr) (s : State), (i = .endShort ∨ i = .endW) → s.iss.ctx ≠ 15 →
    s.waitOver s.iss.core s.iss.ctx .allResults = true →
    (∀ f ∈ (selfCore s).filter, f.lid = (self s).launchId.toNat → f.unit ≠ none) →
    ∃ t, Machine.exec i s = .next t ∧ t.iss.retired = true ∧ (self t).state = .free ∧
      (selfCore t).preq.getLsbD s.iss.ctx = false ∧ (∀ h ∈ (selfCore t).spoil, h.ctx ≠ s.iss.ctx) ∧
      ((self s).launchId ≠ 0 → (self s).hdr0.toNat / 2 ^ 26 % 64 = s.node →
        (self s).hdr1.toNat / 2 ^ 32 % 4096 / 1024 = s.iss.core / 1024 →
        Tab.get 0 (selfCore t).delta (self s).launchId.toNat =
          Tab.get 0 (selfCore s).delta (self s).launchId.toNat - 1)) ∧
  (∀ (i : Instr) (s : State), (i = .endShort ∨ i = .endW) → s.iss.ctx = 15 →
    s.waitOver s.iss.core 15 .allResults = true →
    ∃ t, Machine.exec i s = .next t ∧ t.iss.retired = true ∧ (self t).state = .free ∧ (self t).s = (self s).s ∧
      ∀ h ∈ (selfCore t).spoil, h.ctx ≠ 15) ∧
  (∀ s : State, s.iss.forwarded = true → s.iss.save = true →
    (∀ f ∈ (selfCore s).filter, f.lid = (self s).launchId.toNat → f.unit ≠ none) →
    ∃ t, Machine.exec .safe s = .next t ∧ t.iss.retired = true ∧ (self t).state = .saving ∧
      (self t).save = some { index := some s.iss.code.safeIndex.toNat, forced := false }) ∧
  (∀ s : State, s.iss.forwarded = false →
    (∀ f ∈ (selfCore s).filter, f.lid = (self s).launchId.toNat → f.unit ≠ none) →
    ((s.iss.ctx = 15 ∨ (selfCore s).preq.getLsbD s.iss.ctx = false ∨ (selfCore s).saveMap = 0xFFFF) →
      Machine.exec .safe s = .next (retires s)) ∧
    (s.iss.ctx ≠ 15 → (selfCore s).preq.getLsbD s.iss.ctx = true → (selfCore s).saveMap ≠ 0xFFFF →
      ∃ t, Machine.exec .safe s = .next t ∧ t.iss.retired = true ∧ (self t).state = .saving ∧
        (self t).save = some { index := some s.iss.code.safeIndex.toNat, forced := false })) ∧
  (∀ (s : State) (f : Filter), s.iss.ctx ≠ 15 → f ∈ (selfCore s).filter → (self s).launchId ≠ 0 →
    f.lid = (self s).launchId.toNat → f.unit = none →
    Machine.exec .safe s = .next (s.takeTrap { cause := 0x11, info := (self s).launchId.setWidth 64 }))

/-- R27 to R29, R186: `gang.join` waits for the leader it names; `gang.lead k`, once a context waits for it on each of the
k cores to its right, and no core to its right follows it still, leads them, and they follow it; `gang.leave` ends a
context's part. In context 15, and where the conditions of R186 fail, each is the illegal-operand fault with the gang
subcode: `gang.lead` for k outside 1 to 7, a follower outside the cluster's row of the leader, a disabled follower, a
context that leads or follows, or one beside another that leads, follows or waits in `gang.join`; `gang.join` for an x
that is not below its own within its row of the cluster, or beside a member or a waiting context; both in a forwarded
stream; `gang.leave` in a context without a gang. -/
def Obligations.GangInstructions : Prop :=
  (∀ (s : State) (n : Nat), n = s.iss.code.k8.toNat → s.iss.ctx ≠ 15 → s.iss.forwarded = false →
    1 ≤ n → n ≤ 7 → s.iss.core % 8 + n < 8 → (∀ j, 1 ≤ j → j ≤ n → s.enabled (s.iss.core + j) = true) →
    (self s).gang = .alone → (∀ p ∈ (selfCore s).ctxs, p.1 ≠ s.iss.ctx → p.2.gang = .alone) →
    (∀ j, 1 ≤ j → j ≤ n → ∃ p ∈ (s.core (s.iss.core + j)).ctxs, p.2.state = .wait ∧
      p.2.gang = .joining (s.iss.core % 32)) →
    (∀ j, 1 ≤ j → j ≤ 7 → s.iss.core % 32 + j < 32 → ∀ p ∈ (s.core (s.iss.core + j)).ctxs, ∀ b,
      p.2.gang ≠ .following (s.iss.core % 32) j b) →
    ∃ t, Machine.exec .gangLead s = .next t ∧ t.iss.retired = true ∧
      (self t).gang = .leading n ((List.range n).map (· + 1)) ∧
      ∀ j, 1 ≤ j → j ≤ n → ∃ p ∈ (t.core (s.iss.core + j)).ctxs, p.2.state = .ready ∧
        p.2.gang = .following (s.iss.core % 32) j [] ∧ p.2.gangLid = (self s).launchId) ∧
  (∀ (s : State) (x : Nat), x = s.iss.code.k8.toNat → s.iss.ctx ≠ 15 → s.iss.forwarded = false →
    (self s).gang = .alone → x < s.iss.core % 32 → x / 8 = s.iss.core % 32 / 8 →
    (∀ p ∈ (selfCore s).ctxs, p.1 ≠ s.iss.ctx → p.2.gang = .alone ∧ ∀ n, 0 < n → p.2.waitOn ≠ some (.gang n)) →
    ∃ t, Machine.exec .gangJoin s = .next t ∧ (self t).state = .wait ∧ (self t).gang = .joining x) ∧
  (∀ s : State, s.iss.ctx ≠ 15 →
    ((∃ n ms, (self s).gang = .leading n ms) ∨ (∃ x p b, (self s).gang = .following x p b)) →
    ∃ t, Machine.exec .gangLeave s = .next t ∧ t.iss.retired = true ∧ (self t).gang = .alone) ∧
  (∀ s : State, s.iss.ctx = 15 →
    Machine.exec .gangLead s = .next (s.takeTrap (illegal 7)) ∧
    Machine.exec .gangJoin s = .next (s.takeTrap (illegal 7)) ∧
    Machine.exec .gangLeave s = .next (s.takeTrap (illegal 7))) ∧
  (∀ s : State, ((self s).gang = .alone ∨ ∃ x, (self s).gang = .joining x) →
    Machine.exec .gangLeave s = .next (s.takeTrap (illegal 7))) ∧
  (∀ (s : State) (n : Nat), n = s.iss.code.k8.toNat →
    (n = 0 ∨ 7 < n ∨ 8 ≤ s.iss.core % 8 + n ∨ (∃ j, 1 ≤ j ∧ j ≤ n ∧ s.enabled (s.iss.core + j) = false) ∨
      (self s).gang ≠ .alone ∨ (∃ p ∈ (selfCore s).ctxs, p.1 ≠ s.iss.ctx ∧ p.2.gang ≠ .alone) ∨
      s.iss.forwarded = true) →
    Machine.exec .gangLead s = .next (s.takeTrap (illegal 7))) ∧
  (∀ (s : State) (x : Nat), x = s.iss.code.k8.toNat →
    (s.iss.core % 32 ≤ x ∨ x + 7 < s.iss.core % 32 ∨ x / 8 ≠ s.iss.core % 32 / 8 ∨
      (∃ n ms, (self s).gang = .leading n ms) ∨ (∃ y p b, (self s).gang = .following y p b) ∨
      (∃ p ∈ (selfCore s).ctxs, p.1 ≠ s.iss.ctx ∧
        (p.2.gang ≠ .alone ∨ ∃ n, 0 < n ∧ p.2.waitOn = some (.gang n))) ∨
      s.iss.forwarded = true) →
    Machine.exec .gangJoin s = .next (s.takeTrap (illegal 7)))

namespace Sys2Proof.Claims

/-- R346: the send instructions that are not held, and what they send. -/
def sendTable : List ((BitVec 6 → BitVec 6 → BitVec 6 → Instr) × SendForm) := [
  (.send, .plain), (.sendHi, .high), (.sendMc, .multi), (.sendComb, .comb), (.dep, .dep), (.reply, .reply)]

/-- R347: by form, KIND of the control word, and the class of the running handler: the message's kind and whether its
class is HI; `bit8` is bit 8 of the control word. -/
def kindTable (mine bit8 : Bool) : List (SendForm × Nat × Nat × Bool) := [
  (.plain, 0, 0, false), (.high, 0, 0, true), (.multi, 0, 0, bit8), (.multi, 1, 1, mine), (.comb, 0, 4, mine),
  (.hold, 0, 0, bit8), (.dep, 0, 1, mine), (.dep, 1, 2, mine), (.dep, 2, 5, false), (.reply, 0, 1, mine),
  (.reply, 1, 0, true), (.reply, 2, 6, mine)]

/-- The class of the running handler is HI; context 15 sends as LO. -/
def handlerHi (s : State) : Bool := (self s).hi && s.iss.ctx != 15

end Sys2Proof.Claims

/-- R326, R344 to R354: a message that has been formed and is accepted enters the outbox, and the send retires; a send
that waits (the outbox is full) keeps the message as it was formed at its issue, and sends that one later; it carries the header word 0 of s[ra], the tag and length of the control word, the sender's short ID and launch, and the
kind and class of R347, with the named registers first in its payload. `send.hold` puts it on the Spoil; `commit` sends
the context's held messages, marked HOLD, to where the core map then has their destinations (a message whose index it no
longer holds is lost, a choice of log 90), and gives their number; `abort` drops them and gives their number. `msgld`
reads a word of the message window. -/
def Obligations.Messages : Prop :=
  (∀ p ∈ sendTable, ∀ (rd ra rb : BitVec 6) (s s1 : State) (m : Msg) (node : Nat) (dests : List Nat),
    ((self s).formed = none ∧ Gives (formSend p.2 rd ra rb) s (m, node, dests) s1 ∨
      (∃ s0 ctl a, (self s).formed = some ⟨m, node, dests⟩ ∧ Gives (readS rd) s ctl s0 ∧ Gives (readS ra) s0 a s1)) →
    (selfCore s1).outbox.length < 16 →
    s1.waitOver s.iss.core s.iss.ctx (.ordered
      (s1.coverOf s.iss.core s.iss.ctx (s1.separating s.iss.core node dests) none) node dests) = true →
    (m.needsTip = true → (selfCore s1).tipFull = false) →
    ∃ t, Machine.exec (p.1 rd ra rb) s = .next t ∧ t.iss.retired = true ∧
      (selfCore t).outbox = (selfCore s1).outbox ++ [{ msg := m, ctx := s.iss.ctx, node, dests }]) ∧
  (∀ p ∈ sendTable, ∀ (rd ra rb : BitVec 6) (s s1 : State) (m : Msg) (node : Nat) (dests : List Nat),
    (self s).formed = none → Gives (formSend p.2 rd ra rb) s (m, node, dests) s1 →
    16 ≤ (selfCore s1).outbox.length →
    ∃ t, Machine.exec (p.1 rd ra rb) s = .next t ∧ t.iss.retired = s.iss.retired ∧ (self t).state = .wait ∧
      (self t).formed = some ⟨m, node, dests⟩) ∧
  (∀ (f : SendForm) (rd ra rb : BitVec 6) (s s1 s2 s3 : State) (ctl a : Word) (m : Msg) (node : Nat)
      (dests : List Nat), Gives (formSend f rd ra rb) s (m, node, dests) s3 → Gives (readS rd) s ctl s1 →
    Gives (readS ra) s1 a s2 → s.iss.core < 4096 →
    (f ≠ .reply → m.hdr0 = a) ∧ m.tag = ctl.toNat / 2 ^ 48 ∧ m.len = ctl.toNat % 256 ∧
    m.hdr1.toNat / 2 ^ 32 % 65536 = s.iss.core ∧
    ((∀ x q b, (self s).gang ≠ .following x q b) → m.lid = (self s).launchId.toNat) ∧
    (f, ctl.toNat / 2 ^ 10 % 4, m.kind, m.isHi) ∈ kindTable (handlerHi s) (ctl.getLsbD 8) ∧
    (f ≠ .reply → node = a.toNat / 2 ^ 26 % 64) ∧ m.payload.length = m.len / 8 ∧
    (∀ j, j < ctl.toNat / 2 ^ 16 % 16 → m.payload[j]? = some ((self s).scalar (rb.toNat + j))) ∧
    (handlerHi s = true → isSink m.kind = true)) ∧
  (∀ (rd ra rb : BitVec 6) (s s1 : State) (m : Msg) (node : Nat) (dests : List Nat),
    ((self s).formed = none ∧ Gives (formSend .hold rd ra rb) s (m, node, dests) s1 ∨
      (∃ s0 ctl a, (self s).formed = some ⟨m, node, dests⟩ ∧ Gives (readS rd) s ctl s0 ∧ Gives (readS ra) s0 a s1)) →
    ((selfCore s).spoil.filter fun h => h.ctx == s.iss.ctx).length < 16 → (selfCore s).spoil.length < 32 →
    ∃ t, Machine.exec (.sendHold rd ra rb) s = .next t ∧ t.iss.retired = true ∧
      (selfCore t).outbox = (selfCore s1).outbox ∧
      (selfCore t).spoil = (selfCore s1).spoil ++ [{ ctx := s.iss.ctx, msg := m, node }]) ∧
  (∀ (rd : BitVec 6) (s : State) (held : List HeldSend), rd ≠ 0 → rd ≠ 61 →
    held = (selfCore s).spoil.filter (fun h => h.ctx == s.iss.ctx) →
    ((∀ h ∈ held, s.waitOver s.iss.core s.iss.ctx (.ordered
        (s.coverOf s.iss.core s.iss.ctx (s.heldScope s.iss.core held) none) h.node (s.destsOf h.msg.hdr0)) = true) →
      (selfCore s).outbox.length + held.length ≤ 16 →
      ((∃ h ∈ held, h.msg.isHi = false) → (selfCore s).tipFull = false) →
      ∃ t, Machine.exec (.commit rd) s = .next t ∧ t.iss.retired = true ∧
        (selfCore t).outbox = (selfCore s).outbox ++
          (held.filter fun h => h.node != s.node || !(s.destsOf h.msg.hdr0).isEmpty).map (fun h =>
            { msg := { h.msg with hdr1 := h.msg.hdr1 ||| 512 }, ctx := h.ctx, node := h.node
              dests := s.destsOf h.msg.hdr0 }) ∧
        (selfCore t).spoil = (selfCore s).spoil.filter (fun h => h.ctx != s.iss.ctx) ∧
        (self t).scalar rd.toNat = wrap held.length) ∧
    ∃ t, Machine.exec (.abort rd) s = .next t ∧ t.iss.retired = true ∧ (selfCore t).outbox = (selfCore s).outbox ∧
      (selfCore t).spoil = (selfCore s).spoil.filter (fun h => h.ctx != s.iss.ctx) ∧
      (self t).scalar rd.toNat = wrap held.length) ∧
  (∀ (rd ra : BitVec 6) (s s1 s2 s3 : State) (j : Word) (bs : List Byte), Gives (readS ra) s j s1 → 8 ≤ j.toNat →
    j.toNat ≤ 23 → Gives (readBytes 8 (ownTile (0x800 + 256 * s.iss.ctx + 8 * (j.toNat - 8)))) s1 bs s2 →
    Gives (writeS rd (wrap (little bs))) s2 () s3 → Machine.exec (.msgld rd ra) s = .next (retires s3)) ∧
  (∀ (rd ra : BitVec 6) (s s1 : State) (j : Word), Gives (readS ra) s j s1 → (j.toNat < 8 ∨ 23 < j.toNat) →
    Machine.exec (.msgld rd ra) s = .next (s.takeTrap (illegal 4)))

/-- R393 to R401: `cnt.inc` adds to a counter of the own core, or sends a counter message; `cnt.rd` gives a counter's
value, and `cnt.wait` gives it once it has reached its target. R402, R404: `launch`, once every write of its context is
performed, and `cancel` send their request to the master, wait, and give its answer; outside context 15 `cancel` of
another address space's work is the illegal-operand fault with subcode 6. R405: `wtag.any`, `wtag.all`, `ffr` and `tag.clr`. R414, R415: `perf.rd`, and
management's COUNTER_CLEAR. -/
def Obligations.CountersAndTags : Prop :=
  (∀ (ra rb : BitVec 6) (s s1 s2 : State) (name v : Word), Gives (readS ra) s name s1 → Gives (readS rb) s1 v s2 →
    name.toNat < 256 →
    s2.waitOver s.iss.core s.iss.ctx (.performed (s2.coverOf s.iss.core s.iss.ctx 1 none)) = true →
    ∃ t, Machine.exec (.cntInc ra rb) s = .next t ∧ t.iss.retired = true ∧
      ∀ i, Tab.get 0 (selfCore t).sc i =
        if i = name.toNat then Tab.get 0 (selfCore s).sc i + v else Tab.get 0 (selfCore s).sc i) ∧
  (∀ (ra rb : BitVec 6) (s s1 s2 : State) (name v hw0 : Word), Gives (readS ra) s name s1 → Gives (readS rb) s1 v s2 →
    name.toNat / 2 ^ 59 = 1 → name.toNat / 2 ^ 32 % 2 ^ 27 = 0 → name.toNat / 256 % 32 = 0 →
    hw0 = wrap (name.toNat % 2 ^ 32 / 2 ^ 13 * 2 ^ 13 : Nat) → s2.destinationOk hw0 = true →
    (selfCore s).outbox.length < 16 →
    s2.waitOver s.iss.core s.iss.ctx (.ordered (s2.coverOf s.iss.core s.iss.ctx
      (s2.separating s.iss.core (nodeOf hw0) (s2.destsOf hw0)) none) (nodeOf hw0) (s2.destsOf hw0)) = true →
    ∃ t m, Machine.exec (.cntInc ra rb) s = .next t ∧ t.iss.retired = true ∧
      (selfCore t).outbox = (selfCore s).outbox ++
        [{ msg := m, ctx := s.iss.ctx, node := nodeOf hw0, dests := s2.destsOf hw0 }] ∧
      m.kind = 3 ∧ m.hdr0 = hw0 ∧ m.len = 16 ∧ m.payload = [wrap (name.toNat % 256 : Nat), v]) ∧
  (∀ (rd ra : BitVec 6) (s s1 t : State) (name v : Word), Gives (readS ra) s name s1 → Gives (writeS rd v) s1 () t →
    ((name.toNat < 256 ∧ v = Tab.get 0 (selfCore s).sc name.toNat) ∨
     (name.toNat / 2 ^ 60 = 1 ∧ name.toNat / 2 ^ 10 % 2 ^ 50 = 0 ∧
      v = Tab.get 0 (s.die (name.toNat / 256 % 4)).engine.counters (name.toNat % 256)) ∨
     (name.toNat / 2 ^ 16 = 3 * 2 ^ 44 ∧ s.launch? (name.toNat % 65536) = none ∧ v = wrap (2 ^ 62)) ∨
     (∃ l, name.toNat / 2 ^ 16 = 3 * 2 ^ 44 ∧ s.launch? (name.toNat % 65536) = some l ∧ l.state = .complete ∧
      l.status < 4 ∧ v = wrap (2 ^ 63 + l.status * 2 ^ 56 + min l.last 0xFFFFFFFF : Nat))) →
    Machine.exec (.cntRd rd ra) s = .next (retires t)) ∧
  (∀ (rd ra rb : BitVec 6) (s s1 s2 t : State) (name target v : Word), Gives (readS ra) s name s1 →
    Gives (readS rb) s1 target s2 → name.toNat < 256 → v = Tab.get 0 (selfCore s).sc name.toNat →
    0 ≤ (v - target).toInt → Gives (writeS rd v) s2 () t → Machine.exec (.cntWait rd ra rb) s = .next (retires t)) ∧
  (∀ (rd ra rb : BitVec 6) (s s1 s2 s3 : State) (a b w : Word), Gives (readS ra) s a s1 → Gives (readS rb) s1 b s2 →
    (self s).latch = .answered w → Gives (writeS rd w) s2 () s3 →
    Machine.exec (.launch rd ra rb) s = .next (retires s3)) ∧
  (∀ (rd ra rb : BitVec 6) (s s1 s2 s3 s4 : State) (a b : Word) (desc image : List Byte), Gives (readS ra) s a s1 →
    Gives (readS rb) s1 b s2 → (self s).latch = .none → a.toNat % 64 = 0 → a.toNat < 2 ^ 56 →
    (rb ≠ 0 → localTile b = true ∧ b.toNat % 8 = 0) → (∀ l ∈ (selfCore s2).nt, l.holds s.iss.ctx = false) →
    s2.waitOver s.iss.core s.iss.ctx .written = true → Gives (readBytes 128 a) s2 desc s3 →
    (rb = 0 → image = [] ∧ s4 = s3) → (rb ≠ 0 → Gives (readBytes 64 b) s3 image s4) → s4.master.electing = false →
    ∃ t q, Machine.exec (.launch rd ra rb) s = .next t ∧ (self t).state = .wait ∧ (self t).latch = .asked ∧
      t.master.requests = s4.master.requests ++ [q] ∧ q.core = s.iss.core ∧ q.ctx = s.iss.ctx ∧
      q.asid = (selfCore s).asid.toNat ∧ q.super = (s.iss.ctx == 15) ∧ q.desc = wordsOf 16 desc ∧
      q.image = wordsOf 8 image ∧ q.cancel = none) ∧
  (∀ (rd ra : BitVec 6) (s s1 s2 : State) (name w : Word), Gives (readS ra) s name s1 →
    ((self s).latch = .answered w → Gives (writeS rd w) s1 () s2 →
      Machine.exec (.cancel rd ra) s = .next (retires s2)) ∧
    ((self s).latch = .none → nameOk name true = true → 2 ≤ name.toNat / 2 ^ 60 →
      ¬(s.iss.ctx = 15 ∨ (s1.itemAsid (selfCore s).asid.toNat name).getD (selfCore s).asid.toNat =
        (selfCore s).asid.toNat) →
      Machine.exec (.cancel rd ra) s = .next (s.takeTrap (illegal 6))) ∧
    ((self s).latch = .none → nameOk name true = true → 2 ≤ name.toNat / 2 ^ 60 → s1.master.electing = false →
      (s.iss.ctx = 15 ∨ (s1.itemAsid (selfCore s).asid.toNat name).getD (selfCore s).asid.toNat =
        (selfCore s).asid.toNat) →
      ∃ t q, Machine.exec (.cancel rd ra) s = .next t ∧ (self t).state = .wait ∧ (self t).latch = .asked ∧
        t.master.requests = s1.master.requests ++ [q] ∧ q.cancel = some name ∧ q.core = s.iss.core)) ∧
  (∀ (rd ra : BitVec 6) (s s1 s2 : State) (m : Word), Gives (readS ra) s m s1 →
    ((selfCore s).tags &&& m ≠ 0 → Gives (writeS rd ((selfCore s).tags &&& m)) s1 () s2 →
      Machine.exec (.wtagAny rd ra) s = .next (retires s2)) ∧
    ((selfCore s).tags &&& m = m → Gives (writeS rd m) s1 () s2 →
      Machine.exec (.wtagAll rd ra) s = .next (retires s2)) ∧
    (∀ n, n ≤ 64 → (∀ j, j < n → ((selfCore s).tags &&& m).getLsbD j = false) →
      (n < 64 → ((selfCore s).tags &&& m).getLsbD n = true) → Gives (writeS rd (wrap n)) s1 () s2 →
      Machine.exec (.ffr rd ra) s = .next (retires s2)) ∧
    Machine.exec (.tagClr ra) s = .next (retires (changeCore s1 fun x => { x with tags := x.tags &&& ~~~m }))) ∧
  (∀ (rd ra : BitVec 6) (s s1 s2 : State) (v w : Word), Gives (readS ra) s v s1 →
    s.perfWord s.iss.core v = some w → Gives (writeS rd w) s1 () s2 →
    Machine.exec (.perfRd rd ra) s = .next (retires s2)) ∧
  (∀ (s : State) (k i d : Nat),
    (i ≤ 7 → s.perfWord k (wrap i) = some (Tab.get 0 (s.core k).perf i)) ∧
    s.perfWord k 0x100 = some (wrap (s.core k).hiInbox.length) ∧
    s.perfWord k 0x101 = some (wrap (s.core k).loInbox.length) ∧
    s.perfWord k 0x108 = some (wrap (s.poolUsed (dieOf k))) ∧
    (d < 4 → i ≤ 6 → s.perfWord k (wrap (0x400 + i + d * 2 ^ 16 : Nat)) = some (Tab.get 0 (s.die d).engine.perf i))) ∧
  (∀ s : State, s.input.n = 0 → s.input.m ≤ 7 → Tab.sorted (s.core s.input.core).perf = true →
    ∃ t, Machine.exec .counterClear s = .next t ∧ Tab.get 0 (t.core s.input.core).perf s.input.m = 0)

namespace Sys2Proof.Claims

/-! The network of a barrier's rectangle `r` (R411): its rows of enabled cores, each with its head on the left. -/

/-- Core `j` is the next enabled core of the rectangle to the left of core `k`. -/
def NextLeft (s : State) (r : Word) (k j : Nat) : Prop :=
  s.enabled j = true ∧ j / 32 = k / 32 ∧ rectX r ≤ j % 32 ∧ j < k ∧ ∀ i, j < i → i < k → s.enabled i = false

/-- Core `j` is the next enabled core of the rectangle to the right of core `k`. -/
def NextRight (s : State) (r : Word) (k j : Nat) : Prop :=
  s.enabled j = true ∧ j / 32 = k / 32 ∧ j % 32 < rectX r + rectW r ∧ k < j ∧ ∀ i, k < i → i < j → s.enabled i = false

/-- No enabled core of the rectangle stands left of core `k`: it is the head of its row. -/
def IsHead (s : State) (r : Word) (k : Nat) : Prop :=
  ∀ i, i / 32 = k / 32 → rectX r ≤ i % 32 → i < k → s.enabled i = false

/-- No enabled core of the rectangle stands right of core `k`: it is the tail of its row. -/
def IsTail (s : State) (r : Word) (k : Nat) : Prop :=
  ∀ i, i / 32 = k / 32 → i % 32 < rectX r + rectW r → k < i → s.enabled i = false

/-- Row `y` of the rectangle has no enabled core. -/
def EmptyRow (s : State) (r : Word) (y : Nat) : Prop :=
  ∀ x, rectX r ≤ x → x < rectX r + rectW r → s.enabled (siteKey (rectDie r) y x) = false

/-- Core `j` is the head of a row that takes part, below core `k`'s, and no row between takes part. -/
def NextHead (s : State) (r : Word) (k j : Nat) : Prop :=
  rectHolds r j = true ∧ s.enabled j = true ∧ IsHead s r j ∧ yOf k < yOf j ∧
  ∀ y, yOf k < y → y < yOf j → EmptyRow s r y

/-- The same above core `k`'s row. -/
def PreviousHead (s : State) (r : Word) (k j : Nat) : Prop :=
  rectHolds r j = true ∧ s.enabled j = true ∧ IsHead s r j ∧ yOf j < yOf k ∧
  ∀ y, yOf j < y → y < yOf k → EmptyRow s r y

/-- Core `k` stands in the first row that takes part. -/
def InFirstRow (s : State) (r : Word) (k : Nat) : Prop := ∀ y, rectY r ≤ y → y < yOf k → EmptyRow s r y

/-- Core `k` stands in the last row that takes part. -/
def InLastRow (s : State) (r : Word) (k : Nat) : Prop := ∀ y, yOf k < y → y < rectY r + rectH r → EmptyRow s r y

/-- R411: core `k`, whose slot `i` of the rectangle was `b`, is released: the phase and every BARPH of the rectangle rise,
the flags clear, and the release goes on to the right, and from a head to the head above. -/
def Released (s t : State) (r : Word) (k i : Nat) (b : BarSlot) : Prop :=
  (∀ p, (t.core k).slotFor r = some p →
    p = (i, { b with phase := b.phase + 1, arr := false, row := false, col := false })) ∧
  ((∃ c, (s.ctx k c).barRect = r) → (t.core k).slotFor r ≠ none) ∧
  (∀ c, (s.ctx k c).barRect = r → (t.ctx k c).barPh = (s.ctx k c).barPh + 1 ∧ (t.ctx k c).barRect = r) ∧
  ∃ more, t.tokens = s.tokens ++ more ∧ ∀ x, x ∈ more ↔ x.kind = 2 ∧ x.rect = r ∧
    (NextRight s r k x.dest ∨ (IsHead s r k ∧ PreviousHead s r k x.dest))

/-- R411: what follows in core `k` once a flag has been set, so that its slot is `b`. While its row is not complete up to
it (ARR, and ROW but at the tail), nothing is sent. Then it sends its row token left; a head sends the column token to
the next head, unless it waits for COL; and the corner, the last head, releases. -/
def PassedOn (s t : State) (r : Word) (k i : Nat) (b : BarSlot) : Prop :=
  (¬(b.arr = true ∧ (b.row = true ∨ IsTail s r k)) → t.tokens = s.tokens ∧ (t.core k).slotFor r = some (i, b)) ∧
  (b.arr = true → (b.row = true ∨ IsTail s r k) →
    (∀ j, NextLeft s r k j → t.tokens = s.tokens ++ [{ kind := 0, rect := r, dest := j }] ∧
      (t.core k).slotFor r = some (i, b)) ∧
    (IsHead s r k → ¬(b.col = true ∨ InFirstRow s r k) →
      t.tokens = s.tokens ∧ (t.core k).slotFor r = some (i, b)) ∧
    (IsHead s r k → (b.col = true ∨ InFirstRow s r k) →
      (∀ j, NextHead s r k j → t.tokens = s.tokens ++ [{ kind := 1, rect := r, dest := j }] ∧
        (t.core k).slotFor r = some (i, b)) ∧
      (InLastRow s r k → Released s t r k i b)))

/-- R174, R407: a rectangle that `bar.set` accepts at core `k`, which is enabled. -/
abbrev BarrierAt (s : State) (r : Word) (k : Nat) : Prop :=
  r.getLsbD 63 = true ∧ rectOk r k = true ∧ s.enabled k = true

end Sys2Proof.Claims

/-- R406 to R412: `bar.set` gives the context its rectangle, with BARPH 0, or takes it away; one that breaks R407, or finds
no slot, is the illegal-operand fault with the value subcode. `bar.arrive`, once the accesses of its context are performed
at die scope, gives the phase, and the first of a phase sets ARR and passes the arrival on; `bar.wait` retires once the
phase is past; without a rectangle both are that fault. BARRIER_ROW_TOKEN and BARRIER_COLUMN_TOKEN set ROW or COL in the
slot of the core that they reach, which passes them on when its row and column are complete, and wait there for a slot,
and while the flag is set; BARRIER_RELEASE releases the core that it reaches, and goes on. -/
def Obligations.Barriers : Prop :=
  (∀ (ra : BitVec 6) (s s1 : State) (r : Word), Gives (readS ra) s r s1 →
    (r.getLsbD 63 = false → ∃ t, Machine.exec (.barSet ra) s = .next t ∧ t.iss.retired = true ∧
      (self t).barRect = 0 ∧ (self t).barPh = 0) ∧
    (r.getLsbD 63 = true → rectOk r s.iss.core = true →
      (((selfCore s).slotFor r).isSome = true ∨ ∃ i, i < 4 ∧ Tab.find (selfCore s).slots i = none) →
      ∃ t, Machine.exec (.barSet ra) s = .next t ∧ t.iss.retired = true ∧ (self t).barRect = r ∧
        (self t).barPh = 0 ∧ ((selfCore t).slotFor r).isSome = true) ∧
    (r.getLsbD 63 = true → (rectOk r s.iss.core = false ∨
        ((selfCore s).slotFor r = none ∧ ∀ i, i < 4 → Tab.find (selfCore s).slots i ≠ none)) →
      Machine.exec (.barSet ra) s = .next (s.takeTrap (illegal 4)))) ∧
  (∀ (rd : BitVec 6) (s s1 : State) (r : Word) (i : Nat) (b : BarSlot), r = (self s).barRect →
    BarrierAt s r s.iss.core →
    s.waitOver s.iss.core s.iss.ctx (.fenced (s.coverOf s.iss.core s.iss.ctx 4 none)) = true →
    (selfCore s).slotFor r = some (i, b) → Gives (writeS rd (b.phase.setWidth 64)) s () s1 →
    (b.arr = true → Machine.exec (.barArrive rd) s = .next (retires s1)) ∧
    (b.arr = false → ∃ t, Machine.exec (.barArrive rd) s = .next t ∧ t.iss.retired = true ∧
      (self t).s = (self s1).s ∧ PassedOn (retires s1) t r s.iss.core i { b with arr := true })) ∧
  (∀ (ra : BitVec 6) (s s1 : State) (v : Word) (i : Nat) (b : BarSlot), Gives (readS ra) s v s1 →
    (self s).barRect.getLsbD 63 = true → (selfCore s).slotFor (self s).barRect = some (i, b) →
    0 < (b.phase - v.setWidth 32).toInt → Machine.exec (.barWait ra) s = .next (retires s1)) ∧
  (∀ (r : BitVec 6) (s s1 : State) (v : Word), (self s).barRect.getLsbD 63 = false →
    Machine.exec (.barArrive r) s = .next (s.takeTrap (illegal 4)) ∧
    (Gives (readS r) s v s1 → Machine.exec (.barWait r) s = .next (s.takeTrap (illegal 4)))) ∧
  (∀ (s u : State) (k : Token), s.tokens[s.input.n]? = some k → u = { s with tokens := dropNth s.tokens s.input.n } →
    (∀ (i : Nat) (b : BarSlot), (s.core k.dest).slotFor k.rect = some (i, b) → BarrierAt s k.rect k.dest →
      (k.kind = 0 → b.row = false → ∃ t, Machine.exec .barrierRowToken s = .next t ∧
        PassedOn u t k.rect k.dest i { b with row := true }) ∧
      (k.kind = 1 → b.col = false → ∃ t, Machine.exec .barrierColumnToken s = .next t ∧
        PassedOn u t k.rect k.dest i { b with col := true }) ∧
      (k.kind = 2 → ∃ t, Machine.exec .barrierRelease s = .next t ∧ Released u t k.rect k.dest i b) ∧
      (b.row = true → Machine.exec .barrierRowToken s = .next s) ∧
      (b.col = true → Machine.exec .barrierColumnToken s = .next s)) ∧
    ((s.core k.dest).slotFor k.rect = none → Machine.exec .barrierRowToken s = .next s ∧
      Machine.exec .barrierColumnToken s = .next s ∧ Machine.exec .barrierRelease s = .next s))

/-! ## The routing plane (R17 to R20, R329 to R343, R356 to R360) -/

namespace Sys2Proof.Claims

/-- A sink message stands first in the HI channel, at its destination's NI, and keeps its layout. -/
abbrev SinkFirst (s : State) (f : Flight) : Prop :=
  s.input.n = 0 ∧ s.hiFlights.head? = some f ∧ s.routers = [] ∧ f.place = 4096 ∧ f.dest < 4096 ∧ f.part = none ∧
  f.msg.layoutOk = true

/-- The bytes of a deposit all lie in the tile outside the identity words (R340). -/
abbrev InTile (off n : Nat) : Prop := off + n ≤ 0x7C0 ∨ (0x800 ≤ off ∧ off + n ≤ 2 ^ 20)

/-- The tile of core `k` in `t` is the one in `s` with `bs` written from offset `off` on. -/
def TileHas (s t : State) (k off : Nat) (bs : List Byte) : Prop :=
  ∀ o, Memory.read (t.core k).tile o =
    if off ≤ o ∧ o < off + bs.length then bs.getD (o - off) 0 else Memory.read (s.core k).tile o

/-- The payload of a message as bytes. -/
def payloadBytes (m : Msg) : List Byte := m.payload.flatMap fun w => lowBytes 8 w.toNat

end Sys2Proof.Claims

/-- R329, R334 to R338, R358: the steps of the routing plane. OUTBOX_INJECT sends the oldest message of the HI channel,
or else the oldest, on its way to each of its destinations, and one for another node to the node's Isder port, where no
earlier message to that node is still on the plane.
DISPATCH_MESSAGE_ARRIVAL puts a dispatch message into an inbox that has room and no stream before it, and else into an
entry of the Tip region that no other holds; TIP_REFILL moves the oldest of a stream into the inbox, and drops one that is
filtered. COMBINE_ROUTER_ARRIVAL keeps a combining message in a router that holds none, and merges it into one that it
suits; COMBINE_HOLD_EXPIRY lets it go on, behind those that have gone on before. -/
def Obligations.RoutingPlane : Prop :=
  (∀ (s : State) (e : OutEntry) (rest : List OutEntry), (s.core s.input.core).outbox = e :: rest →
    (e.msg.inHi = true ∨ ∀ q ∈ rest, q.msg.inHi = false) →
    (e.node = s.node → (∀ d ∈ e.dests, s.fenced.getLsbD (d / 1024) = false) →
      ∃ t fs, Machine.exec .outboxInject s = .next t ∧ (t.core s.input.core).outbox = rest ∧
        t.hiFlights = s.hiFlights ++ (if e.msg.inHi then fs else []) ∧
        t.loFlights = s.loFlights ++ (if e.msg.inHi then [] else fs) ∧ fs.map (fun f => f.dest) = e.dests ∧
        ∀ f ∈ fs, f.msg = e.msg ∧ f.src = s.input.core ∧ f.ctx = e.ctx) ∧
    (e.node ≠ s.node → e.msg.kind ≠ 4 → s.path e.node = 1 → e.part = none → e.counted = true →
      (∀ g ∈ s.hiFlights, g.dest ≠ 8192 + e.node) → (∀ r ∈ s.routers, ∀ g ∈ r.2, g.dest ≠ 8192 + e.node) →
      Machine.exec .outboxInject s = .next ((s.modCore s.input.core fun x => { x with outbox := rest }).toPort
        (s.exitPort (s.input.core / 1024) e.node)
        { kind := 1, dst := e.node, src := s.node, len := 16 + e.msg.len, word1 := e.msg.hdr0
          data := lowBytes 8 e.msg.hdr0.toNat ++ lowBytes 8 e.msg.hdr1.toNat ++ payloadBytes e.msg }
        e.msg.lid 1 [(s.input.core, e.ctx)] none))) ∧
  (∀ (s : State) (f : Flight) (rest : List Flight), s.input.flag = false → s.input.n = 0 → s.loFlights = f :: rest →
    (f.msg.kind = 0 ∨ f.msg.kind = 5) → f.dest < 4096 → f.msg.layoutOk = true → s.live f.msg.lid = true →
    ((s.core f.dest).tipLo ≠ [] ∨ 56 ≤ (s.core f.dest).loInbox.length) → (s.core f.dest).tipFull = false →
    s.hbm.wf = true → f.msg.payload.length ≤ 24 →
    ∃ t e, Machine.exec .dispatchMessageArrival s = .next t ∧ t.loFlights = rest ∧
      (t.core f.dest).loInbox = (s.core f.dest).loInbox ∧ (t.core f.dest).tipLo = (s.core f.dest).tipLo ++ [e] ∧
      e.msg = f.msg ∧ (∀ g ∈ (s.core f.dest).tipEntries, g.slot ≠ e.slot) ∧
      t.hbmBytes (0x1FC0000000 + f.dest / 1024 * 2 ^ 37 + f.dest % 1024 * 2 ^ 20 + 256 * e.slot)
        (16 + 8 * f.msg.payload.length) =
        lowBytes 8 f.msg.hdr0.toNat ++ lowBytes 8 f.msg.hdr1.toNat ++ payloadBytes f.msg) ∧
  (∀ (s : State) (f : Flight) (rest : List Flight), s.input.flag = false → s.input.n = 0 → s.loFlights = f :: rest →
    (f.msg.kind = 0 ∨ f.msg.kind = 5) → f.dest < 4096 → f.msg.layoutOk = true → s.live f.msg.lid = true →
    (s.core f.dest).tipLo = [] → (s.core f.dest).loInbox.length < 56 →
    ∃ t, Machine.exec .dispatchMessageArrival s = .next t ∧ t.loFlights = rest ∧
      (t.core f.dest).loInbox = (s.core f.dest).loInbox ++ [f.msg]) ∧
  (∀ (s : State) (f : Flight) (rest : List Flight), s.input.flag = true → s.input.n = 0 → s.hiFlights = f :: rest →
    s.routers = [] → f.msg.kind = 0 → f.dest < 4096 → f.msg.layoutOk = true → s.live f.msg.lid = true →
    s.poolStream f.dest = [] → (s.core f.dest).tipHi = [] → (s.core f.dest).hiInbox.length < 16 →
    ∃ t, Machine.exec .dispatchMessageArrival s = .next t ∧ t.hiFlights = rest ∧
      (t.core f.dest).hiInbox = (s.core f.dest).hiInbox ++ [f.msg]) ∧
  (∀ (s : State) (e : TipEntry) (rest : List TipEntry) (ms : List Msg),
    ms = (if (s.core s.input.core).filters e.msg then [] else [e.msg]) →
    (s.input.flag = false → (s.core s.input.core).tipLo = e :: rest → (s.core s.input.core).loInbox.length < 56 →
      ∃ t, Machine.exec .tipRefill s = .next t ∧ (t.core s.input.core).tipLo = rest ∧
        (t.core s.input.core).loInbox = (s.core s.input.core).loInbox ++ ms) ∧
    (s.input.flag = true → (s.core s.input.core).tipHi = e :: rest → (s.core s.input.core).hiInbox.length < 16 →
      ∃ t, Machine.exec .tipRefill s = .next t ∧ (t.core s.input.core).tipHi = rest ∧
        (t.core s.input.core).hiInbox = (s.core s.input.core).hiInbox ++ ms) ∧
    (s.input.flag = true → (s.core s.input.core).tipHi = [] → s.poolStream s.input.core = e :: rest →
      (s.core s.input.core).hiInbox.length < 16 → Tab.sorted (s.die (s.input.core / 1024)).pool = true →
      ∃ t, Machine.exec .tipRefill s = .next t ∧ t.poolStream s.input.core = rest ∧
        (t.core s.input.core).hiInbox = (s.core s.input.core).hiInbox ++ ms)) ∧
  (∀ (s : State) (f : Flight) (rest : List Flight), s.input.n = 0 → s.hiFlights = f :: rest → f.place < 4096 →
    Tab.get [] s.routers f.place = [] →
    ∃ t, Machine.exec .combineRouterArrival s = .next t ∧ t.hiFlights = rest ∧ Tab.get [] t.routers f.place = [f]) ∧
  (∀ (s : State) (f q : Flight) (rest : List Flight), s.input.n = 0 → s.hiFlights = f :: rest → f.place < 4096 →
    Tab.get [] s.routers f.place = [q] → f.msg.mergesInto q.msg = true →
    ∃ t q', Machine.exec .combineRouterArrival s = .next t ∧ t.hiFlights = rest ∧
      Tab.get [] t.routers f.place = [q'] ∧ q'.msg = q.msg.mergeWith f.msg ∧ q'.dest = q.dest ∧
      (q'.msg.payload.getD 0 0).toNat / 2 ^ 48 =
        (q.msg.payload.getD 0 0).toNat / 2 ^ 48 + (f.msg.payload.getD 0 0).toNat / 2 ^ 48) ∧
  (∀ (s : State) (f : Flight), s.input.n = 0 → Tab.get [] s.routers s.input.core = [f] → f.dest = s.input.core →
    f.dest < 8192 → Tab.sorted s.routers = true →
    ∃ t, Machine.exec .combineHoldExpiry s = .next t ∧ Tab.get [] t.routers s.input.core = [] ∧
      t.hiFlights = s.hiFlights.takeWhile Flight.routed ++
        { f with place := 4096, routed := true } :: s.hiFlights.dropWhile Flight.routed)

/-- R17 to R20, R38, R338: DISPATCH takes the head of the HI inbox, or, when that holds nothing, the head of the LO inbox: a
message whose offset its launch binds goes to a free context of its class, for HI the lowest of 12 to 14 and else, as for
LO, the lowest of 0 to 11, which becomes READY at the launch's code base plus twice the offset, with the payload in s1 to
s8 and its message window, the stack pointer in s63, the launch's precision and rounding, no rectangle, no flags, and the
header words; one that is not bound is parked. -/
def Obligations.Dispatching : Prop :=
  ∀ (s : State) (hi : Bool) (m : Msg) (rest : List Msg) (l : Launch) (bound : Tab Word),
    (s.core s.input.core).stopped = false → s.tripped = false → s.input.flag = false →
    (if hi then (s.core s.input.core).hiInbox = m :: rest
      else (s.core s.input.core).hiInbox = [] ∧ (s.core s.input.core).loInbox = m :: rest) →
    m.kind = 0 → m.isHi = hi → (s.core s.input.core).filter = [] →
    Tab.find (s.core s.input.core).bindCache m.lid = some bound → s.launch? m.lid = some l →
    ((∃ e ∈ bound, e.2.getLsbD 63 = true ∧ e.2.toNat % 2 ^ 32 = m.offset) →
      ∀ c, (s.ctx s.input.core c).state = .free →
      ((hi = true ∧ 12 ≤ c ∧ c < 15 ∧ ∀ b, 12 ≤ b → b < c → (s.ctx s.input.core b).state ≠ .free) ∨
       (c < 12 ∧ (∀ b, b < c → (s.ctx s.input.core b).state ≠ .free) ∧
        (hi = true → ∀ b, 12 ≤ b → b < 15 → (s.ctx s.input.core b).state ≠ .free))) →
      ∃ t, Machine.exec .dispatch s = .next t ∧
        (if hi then (t.core s.input.core).hiInbox else (t.core s.input.core).loInbox) = rest ∧
        (t.ctx s.input.core c).state = .ready ∧ (t.ctx s.input.core c).hi = hi ∧
        (t.ctx s.input.core c).prec = wrap ((l.word 2).toNat / 2 ^ 48 % 32) ∧
        (t.ctx s.input.core c).rmode = wrap ((l.word 2).toNat / 2 ^ 59 * 256 + (l.word 2).toNat / 2 ^ 56 % 8) ∧
        (t.ctx s.input.core c).barRect = 0 ∧ (t.ctx s.input.core c).barPh = 0 ∧ (t.ctx s.input.core c).oob = 0 ∧
        ((s.core s.input.core).tile.wf = true → ∀ i, i < 128 →
          Memory.read (t.core s.input.core).tile (0x800 + 256 * c + i) =
            (lowBytes 8 (m.payload.getD (8 + i / 8) 0).toNat).getD (i % 8) 0) ∧
        (t.ctx s.input.core c).pc = l.word 0 + wrap (2 * m.offset : Nat) ∧
        (∀ j, j < 8 → j < m.payload.length → (t.ctx s.input.core c).scalar (j + 1) = m.payload.getD j 0) ∧
        (∀ j, 8 < j → j < 63 → (t.ctx s.input.core c).scalar j = 0) ∧
        (t.ctx s.input.core c).scalar 63 = wrap (0xF000000000000000 + (l.word 11).toNat / 2 ^ 32 % 2 ^ 20 +
          (l.word 11).toNat / 2 ^ 16 % 2 ^ 16 * (c + 1) : Nat) ∧
        (t.ctx s.input.core c).hdr0 = m.hdr0 ∧ (t.ctx s.input.core c).hdr1 = m.hdr1 ∧
        (t.ctx s.input.core c).launchId.toNat = m.lid ∧ (t.ctx s.input.core c).satf = 0) ∧
    ((∀ e ∈ bound, e.2.getLsbD 63 = true → e.2.toNat % 2 ^ 32 ≠ m.offset) → (s.core s.input.core).park.length < 8 →
      ∃ t, Machine.exec .dispatch s = .next t ∧
        (if hi then (t.core s.input.core).hiInbox else (t.core s.input.core).loInbox) = rest ∧
        (t.core s.input.core).park = (s.core s.input.core).park ++ [m])

/-- R340 to R343, R360: the sinks. A deposit writes its payload at its offset of the destination tile and nothing else,
and a tag deposit sets its tag; a channel deposit also raises the channel's count; an atomic deposit from another
cluster goes to the engine of the destination's cluster, and one from its own cluster updates its word; a counter message
raises its counter; a status completion writes its word and sets its tag; a copy completion ends the finished `copy.r` of
its tag; a combining message raises its counter by its contributions, and merges into the running result: one of ADD with
IFMT = 1 adds its elements to the words there. -/
def Obligations.Sinks : Prop :=
  (∀ (s : State) (f : Flight), SinkFirst s f → f.msg.kind = 1 → f.msg.tag < 0x8000 →
    (s.core f.dest).tile.wf = true → InTile f.msg.offset (f.msg.len) →
    ∃ t, Machine.exec .deposit s = .next t ∧ t.hiFlights = s.hiFlights.drop 1 ∧
      TileHas s t f.dest f.msg.offset ((payloadBytes f.msg).take f.msg.len) ∧
      (t.core f.dest).tags = if 0x4000 ≤ f.msg.tag then (s.core f.dest).tags ||| wrap (2 ^ (f.msg.tag - 0x4000) : Nat)
        else (s.core f.dest).tags) ∧
  (∀ (s : State) (f : Flight), SinkFirst s f → f.msg.kind = 1 → 0x8000 ≤ f.msg.tag → f.msg.tag ≤ 0x800F →
    (s.core f.dest).tile.wf = true → InTile f.msg.offset (f.msg.len) →
    ∃ t, Machine.exec .channelDeposit s = .next t ∧
      TileHas s t f.dest f.msg.offset ((payloadBytes f.msg).take f.msg.len) ∧
      (Tab.get 0 (t.core f.dest).cb (f.msg.tag - 0x8000)).toNat =
        min ((Tab.get 0 (s.core f.dest).cb (f.msg.tag - 0x8000)).toNat + f.msg.len) 0xFFFFFFFF) ∧
  (∀ (s : State) (f : Flight), SinkFirst s f → f.msg.kind = 2 → f.src < 4096 → f.src / 1024 ≠ f.dest / 1024 →
    ∃ t q, Machine.exec .atomicDeposit s = .next t ∧
      (Tab.get {} (t.die (f.dest / 1024)).atomics (clusterOf f.dest)).queue =
        (Tab.get {} (s.die (f.dest / 1024)).atomics (clusterOf f.dest)).queue ++ [q] ∧
      q.deposit = some f ∧ q.core = f.dest) ∧
  (∀ (s : State) (f : Flight) (op w off : Nat) (old : Word), SinkFirst s f → f.msg.kind = 2 → f.src < 4096 →
    f.src / 1024 = f.dest / 1024 → clusterOf f.src = clusterOf f.dest → op = (f.msg.payload.getD 0 0).toNat % 16 →
    w = (if op = 10 then 4 else 8) → off = f.msg.offset → InTile off w → (s.core f.dest).tile.wf = true →
    (s.core f.dest).bad = [] → old = wrap (little (tileRun s f.dest off w)) →
    ∃ t, Machine.exec .atomicDeposit s = .next t ∧ TileHas s t f.dest off
      (lowBytes w (atomicCode op old (f.msg.payload.getD 1 0) (f.msg.payload.getD 2 0)).1.toNat)) ∧
  (∀ (s : State) (f : Flight), SinkFirst s f → f.msg.kind = 3 →
    ∃ t, Machine.exec .counterMessage s = .next t ∧ ∀ i, Tab.get 0 (t.core f.dest).sc i =
      if i = (f.msg.payload.getD 0 0).toNat % 256 then Tab.get 0 (s.core f.dest).sc i + f.msg.payload.getD 1 0
      else Tab.get 0 (s.core f.dest).sc i) ∧
  (∀ (s : State) (f : Flight), SinkFirst s f → f.msg.kind = 6 → f.msg.len = 16 → (s.core f.dest).tile.wf = true →
    InTile ((f.msg.payload.getD 1 0).toNat % 2 ^ 20) 8 →
    ∃ t, Machine.exec .statusCompletion s = .next t ∧
      TileHas s t f.dest ((f.msg.payload.getD 1 0).toNat % 2 ^ 20) (lowBytes 8 (f.msg.payload.getD 0 0).toNat) ∧
      (t.core f.dest).tags = (s.core f.dest).tags ||| wrap (2 ^ f.msg.tag : Nat)) ∧
  (∀ (s : State) (f : Flight) (c : Copy) (w : Word), SinkFirst s f → f.msg.kind = 6 → f.msg.len = 0 →
    (s.core f.dest).copies = [c] → c.tag = f.msg.tag → c.done = c.total → c.form = .remote w →
    Tab.get 0 (s.core f.dest).tagCount c.tag = 1 →
    ∃ t, Machine.exec .copyCompletion s = .next t ∧ (t.core f.dest).copies = [] ∧
      (t.core f.dest).tags = (s.core f.dest).tags ||| wrap (2 ^ f.msg.tag : Nat)) ∧
  (∀ (s : State) (f : Flight), SinkFirst s f → f.msg.kind = 4 →
    ∃ t, Machine.exec .combiningMessage s = .next t ∧ ∀ i, Tab.get 0 (t.core f.dest).sc i =
      if i = (f.msg.payload.getD 0 0).toNat / 2 ^ 40 % 256 then
        Tab.get 0 (s.core f.dest).sc i + wrap ((f.msg.payload.getD 0 0).toNat / 2 ^ 48 : Nat)
      else Tab.get 0 (s.core f.dest).sc i) ∧
  (∀ (s : State) (f : Flight) (n off : Nat), SinkFirst s f → f.msg.kind = 4 → f.msg.hdr1.toNat / 2 ^ 13 % 8 = 0 →
    (f.msg.payload.getD 0 0).getLsbD 20 = true → n = (f.msg.payload.getD 0 0).toNat / 2 ^ 32 % 256 →
    off = (f.msg.payload.getD 0 0).toNat % 2 ^ 20 → InTile off (8 * n) → (s.core f.dest).tile.wf = true →
    (s.core f.dest).bad = [] → f.msg.payload.length = n + 1 →
    ∃ t, Machine.exec .combiningMessage s = .next t ∧ TileHas s t f.dest off
      ((List.range n).flatMap fun i =>
        lowBytes 8 (little (tileRun s f.dest (off + 8 * i) 8) + (f.msg.payload.getD (i + 1) 0).toNat)))

/-! ## Launches, Derricks and the master (R30 to R44, R382, R383, R402 to R404) -/

namespace Sys2Proof.Claims

/-- R402, R404: the master answers its head request `q`, so that `rest` is left; the context that waits for it, as `old` has
it, gets `w`. -/
def Answers (i : Instr) (s old : State) (q : MasterReq) (rest : List MasterReq) (w : Word) : Prop :=
  ∃ t, Machine.exec i s = .next t ∧ t.master.requests = rest ∧
    ((old.ctx q.core q.ctx).latch = .asked → (t.ctx q.core q.ctx).latch = .answered w)

/-- R394: the names of what a cancel can end beside a launch: its class, ASID and number, and the launches under it. -/
def itemNames (asid g p : Nat) : List (Nat × Nat × Nat × (Launch → Prop)) := [
  (4 * 2 ^ 60 + g, 4, g, fun l => l.graph = g), (5 * 2 ^ 60 + asid * 2 ^ 16 + p, 5, p, fun l => l.phase = p),
  (6 * 2 ^ 60 + asid, 6, 0, fun _ => True)]

end Sys2Proof.Claims

/-- R31, R33 to R37, R383, R402 to R404: the master. A malformed request is answered with status 2; one whose item is closed
with 4, one without a free ID with 3, and one that finds a full queue with 1; a launch that is accepted takes a free ID,
which is the answer, and its record stands in the launch table. A cancel of a launch that is not complete discards what is
unsent and sends a filter to every NI; a unit cancel filters the unit, if it was sent; a cancel of a graph, phase or job
cancels the launches under it; an unknown item is answered with 2 and a complete one with 1. A filter that has reached the
last NI answers its request, and the NI drops what it had parked of the launch. A completion event makes the launch COMPLETE
and takes its filters away; the record goes when no core holds a delta or filter for it. The model's choices: the order in
which the reasons to refuse a request are looked at (log 62), status 2 for a unit index that the launch does not have
(log 65), what a filter of a unit names and drops (log 54), and which free ID a launch takes (log 9). -/
def Obligations.MasterSteps : Prop :=
  (∀ (s : State) (q : MasterReq) (rest : List MasterReq), s.master.requests = q :: rest → q.cancel = none →
    q.mailbox = false → s.masterReady = true → s.malformed q = true →
    Answers .masterLaunchRequest s s q rest (wrap (2 * 2 ^ 56))) ∧
  (∀ (s s1 s2 : State) (q : MasterReq) (rest : List MasterReq) (n level : Nat) (map image : List Byte) (dies : List Nat),
    s.master.requests = q :: rest → q.cancel = none → q.mailbox = false → s.masterReady = true →
    s.malformed q = false →
    n = (if (q.desc.getD 2 0).getLsbD 35 then 0 else (q.desc.getD 13 0).toNat % 2 ^ 11) →
    Gives (masterRead q.asid (2 * n) ((q.desc.getD 12 0).toNat % 2 ^ 56)) s (some map) s1 →
    Gives (masterRead q.asid 2048 ((q.desc.getD 15 0).toNat % 2 ^ 56)) s1 (some image) s2 →
    level = min ((q.desc.getD 2 0).toNat / 2 ^ 32 % 4) ((Tab.get 0 s2.asids q.asid).toNat / 2 ^ 40 % 4) →
    dies = (List.range 4).filter (fun d => (q.desc.getD 2 0).getLsbD (36 + d) && !s2.fenced.getLsbD d) →
    ((∃ e ∈ mapEntries map n, s2.entryOk e = false) →
      Answers .masterLaunchRequest s s2 q rest (wrap (2 * 2 ^ 56))) ∧
    ((∀ e ∈ mapEntries map n, s2.entryOk e = true) →
      (s2.closedFor q.asid (descGraph q.desc) (imagePhase q.image) = true →
        Answers .masterLaunchRequest s s2 q rest (wrap (4 * 2 ^ 56))) ∧
      (s2.closedFor q.asid (descGraph q.desc) (imagePhase q.image) = false →
        (4096 ≤ (s2.master.launches.filter fun p => p.1 != 0).length →
          Answers .masterLaunchRequest s s2 q rest (wrap (3 * 2 ^ 56))) ∧
        ((s2.master.launches.filter fun p => p.1 != 0).length < 4096 → ∀ lid, s2.master.freeId = some lid →
          ((∃ d ∈ dies, 64 ≤ (Tab.get [] (s2.die d).derrick.levels level).length) →
            Answers .masterLaunchRequest s s2 q rest (wrap (2 ^ 56))) ∧
          ((∀ d ∈ dies, (Tab.get [] (s2.die d).derrick.levels level).length < 64) →
            ∃ t l, Machine.exec .masterLaunchRequest s = .next t ∧ t.master.requests = rest ∧
              t.launch? lid = some l ∧ l.desc = q.desc ∧ l.asid = q.asid ∧ l.level = level ∧ l.dealt = 0 ∧
              ((s2.ctx q.core q.ctx).latch = .asked → (t.ctx q.core q.ctx).latch = .answered (wrap lid))))))) ∧
  (∀ (s : State) (q : MasterReq) (rest : List MasterReq) (lid : Nat), lid < 2 ^ 16 → s.master.requests = q :: rest →
    q.cancel = some (wrap (3 * 2 ^ 60 + lid : Nat)) → q.mailbox = false → s.masterReady = true →
    (s.launch? lid = none → Answers .masterCancelRequest s s q rest 2) ∧
    (∀ l, s.launch? lid = some l → l.asid = q.asid →
      (l.state = .complete → Answers .masterCancelRequest s s q rest 1) ∧
      (l.state ≠ .complete → ∃ t l' e, Machine.exec .masterCancelRequest s = .next t ∧ t.master.requests = rest ∧
        t.launch? lid = some l' ∧ l'.cancelled = true ∧ l'.status = max l.status 1 ∧ l'.dealt = l.chunkCount ∧
        t.master.filters = s.master.filters ++ [e] ∧ e.lid = lid ∧ e.unit = none))) ∧
  (∀ (s : State) (q : MasterReq) (rest : List MasterReq) (lid i : Nat), lid < 2 ^ 16 → i < 2 ^ 32 →
    s.master.requests = q :: rest → q.cancel = some (wrap (2 * 2 ^ 60 + lid * 2 ^ 32 + i : Nat)) → q.mailbox = false →
    s.masterReady = true → (s.launch? lid = none → Answers .masterCancelRequest s s q rest 2) ∧
    (∀ l, s.launch? lid = some l → l.asid = q.asid → l.state ≠ .complete →
      (l.units ≤ i → Answers .masterCancelRequest s s q rest 2) ∧
      (i < l.units → ∃ t l', Machine.exec .masterCancelRequest s = .next t ∧ t.master.requests = rest ∧
        t.launch? lid = some l' ∧ l'.cut = i :: l.cut ∧ l'.status = max l.status 1 ∧ l'.cancelled = l.cancelled ∧
        (l.unitSent i = false → t.master.filters = s.master.filters) ∧
        (l.unitSent i = true → ∃ e, t.master.filters = s.master.filters ++ [e] ∧ e.lid = lid ∧ e.unit = some i)))) ∧
  (∀ (s : State) (q : MasterReq) (rest : List MasterReq) (g p : Nat), g < 2 ^ 32 → p < 2 ^ 16 → q.asid < 2 ^ 13 →
    s.master.requests = q :: rest → q.mailbox = false → s.masterReady = true →
    ∀ e ∈ itemNames q.asid g p, q.cancel = some (wrap e.1) →
      (s.item? e.2.1 q.asid e.2.2.1 = none → Answers .masterCancelRequest s s q rest 2) ∧
      (∀ item, s.item? e.2.1 q.asid e.2.2.1 = some item →
        (item.done = true → Answers .masterCancelRequest s s q rest 1) ∧
        (item.done = false → ∃ t, Machine.exec .masterCancelRequest s = .next t ∧ t.master.requests = rest ∧
          ∀ lid l, s.launch? lid = some l → lid ≠ 0 → l.state ≠ .complete → l.asid = q.asid → e.2.2.2 l →
            ∃ l', t.launch? lid = some l' ∧ l'.cancelled = true ∧ 1 ≤ l'.status))) ∧
  (∀ (s : State) (e : Change), s.master.filters = [e] → e.left = [s.input.core] → e.core < 4096 →
    ∃ t, Machine.exec .cancelFilterInstall s = .next t ∧ t.master.filters = [] ∧
      (t.core s.input.core).filter = (s.core s.input.core).filter ++ [{ lid := e.lid, unit := e.unit }] ∧
      (∀ m ∈ (t.core s.input.core).park, (t.core s.input.core).filters m = false) ∧
      (∀ m ∈ (t.core s.input.core).tipPark, (t.core s.input.core).filters m.msg = false) ∧
      ((s.ctx e.core e.ctx).latch = .asked → (t.ctx e.core e.ctx).latch = .answered 0)) ∧
  (∀ (s : State) (l : Launch), s.launch? s.input.n = some l → s.input.n ≠ 0 → s.input.n ∈ s.master.events →
    s.master.electing = false →
    ∃ t l', Machine.exec .completionEvent s = .next t ∧ t.launch? s.input.n = some l' ∧ l'.state = .complete ∧
      l'.status = l.status ∧ (∀ k, ∀ f ∈ (t.core k).filter, f.lid ≠ s.input.n) ∧
      ∀ e ∈ t.master.filters, e.lid ≠ s.input.n) ∧
  (∀ (s : State) (l : Launch), s.launch? s.input.n = some l → l.state = .complete →
    (∀ p ∈ s.cores, Tab.get 0 p.2.delta s.input.n = 0 ∧ ∀ f ∈ p.2.filter, f.lid ≠ s.input.n) →
    (∀ e ∈ s.master.filters, e.lid ≠ s.input.n) → Tab.sorted s.master.launches = true →
    ∃ t, Machine.exec .launchIdRelease s = .next t ∧ t.launch? s.input.n = none)

/-- R32, R33, R38 to R44, R227: the Derricks. CHUNK_DEAL deals the next chunk of a launch; DERRICK_DISPATCH sends the next
unit, whose index is the first word of its message, and counts it; CONSTANT_FILL sends a constant image as HI deposits
that are not counted, and the core names the launch when the last has come; a launch that has waited rises a level while
there is room. A core's delta is added at its die; a sweep names the cores that hold a delta, each acknowledges once it
holds none, and a launch that two sweeps in a row find at zero with nothing unsent is to complete. DIE_FENCE begins an election, and MASTER_ELECTION ends it with a live master; no message goes on toward
a fenced die, and a launch that lost a chunk and is not reissuable is to end with ERROR. The model's choices: a launch all
of whose dies are fenced is dealt out with ERROR (log 30); a sweep names only the cores that hold a delta (log 67), and
which counts it sums (log 96); a constant fill is not counted, and when it goes out (log 31); which chunks a fenced die
loses (log 32); a launch rises only while the level above has room (log 84). -/
def Obligations.DerrickSteps : Prop :=
  (∀ (s : State) (l : Launch) (d : Nat), s.reviewAll.launch? s.input.n = some l →
    l.sends s.reviewAll.master.electing = true → s.reviewAll.ready.getLsbD (48 + s.reviewAll.master.die) = true →
    l.dealt < l.chunkCount → s.reviewAll.chunkDie l l.dealt = some d →
    ∃ t l', Machine.exec .chunkDeal s = .next t ∧ t.launch? s.input.n = some l' ∧ l'.dealt = l.dealt + 1 ∧
      { number := l.dealt, next := 64 * l.dealt, count := 0 } ∈ Tab.get [] l'.chunks d) ∧
  (∀ (s : State) (l : Launch), s.reviewAll.launch? s.input.n = some l →
    l.sends s.reviewAll.master.electing = true → s.reviewAll.ready.getLsbD (48 + s.reviewAll.master.die) = true →
    l.dealt < l.chunkCount → s.reviewAll.launchDies l = [] →
    ∃ t l', Machine.exec .chunkDeal s = .next t ∧ t.launch? s.input.n = some l' ∧ l'.dealt = l.chunkCount ∧
      l'.status = 3) ∧
  (∀ (s : State) (lid i n k : Nat) (l : Launch) (rest : List Nat), s.fenced.getLsbD s.input.die = false →
    s.ready.getLsbD (48 + s.input.die) = true → (s.die s.input.die).derrick.order = lid :: rest → lid ≠ 0 →
    s.sendable s.input.die lid = some (l, i, n, k) → s.node < 64 → k < 4096 →
    ∃ t f l', Machine.exec .derrickDispatch s = .next t ∧ t.loFlights = s.loFlights ++ [f] ∧ f.dest = k ∧
      f.msg.payload.head? = some (wrap i) ∧ (∀ j, j < 7 → f.msg.payload.getD (j + 1) 0 = l.word (3 + j)) ∧
      f.msg.kind = 0 ∧ f.msg.offset = (l.word 1).toNat % 2 ^ 32 ∧ f.src = 4096 + s.input.die ∧
      f.msg.hdr1.toNat / 2 ^ 32 % 2 ^ 16 = (4096 + 1024 * s.input.die) % 2 ^ 16 ∧ f.msg.lid = lid % 65536 ∧ t.launch? lid = some l' ∧ l'.state = .running ∧
      Tab.get 0 (t.die s.input.die).derrick.delta lid = Tab.get 0 (s.die s.input.die).derrick.delta lid + 1) ∧
  (∀ (s s1 : State) (l : Launch) (cl : Nat) (bs : List Byte), s.launch? s.input.n = some l →
    cl = (l.word 13).toNat / 2 ^ 16 % 256 → cl ≠ 0 → cl ≤ 248 → l.sends s.master.electing = true →
    s.input.core ∉ l.filled → s.takesUnits l s.input.core = true → s.input.core < 4096 → s.node < 64 →
    s.filling (s.input.core / 1024) s.input.n s.input.core = false →
    Gives (spanRead (dieMmu (dieOf s.input.core) l.asid)
      (.engine (dieOf s.input.core) (4 * (s.input.n * 4096 + s.input.core) + 3)) l.asid s.hbmByte (8 * cl)
      ((l.word 14).toNat % 2 ^ 56)) s (.ok (bs, false)) s1 → bs.length = 8 * cl →
    ∃ t fs, Machine.exec .constantFill s = .next t ∧ t.hiFlights = s1.hiFlights ++ fs ∧
      (fs.map fun f => payloadBytes f.msg).flatten = bs ∧
      ∀ i f, fs[i]? = some f → f.dest = s.input.core ∧ f.src = 4096 + s.input.core / 1024 ∧ f.counted = false ∧
        f.msg.kind = 1 ∧ f.msg.isHi = false ∧ f.msg.offset = 192 * i ∧ f.msg.lid = s.input.n % 65536 ∧
        f.msg.hdr1.toNat / 2 ^ 32 % 2 ^ 16 = 4096 + 1024 * (s.input.core / 1024)) ∧
  (∀ (s : State) (f : Flight) (l : Launch) (cl : Nat), SinkFirst s f → f.msg.kind = 1 → f.msg.tag = 0 →
    4096 ≤ f.src → f.src < 4100 → s.launch? f.msg.lid = some l → cl = (l.word 13).toNat / 2 ^ 16 % 256 →
    8 * cl ≤ f.msg.offset + f.msg.len →
    ∃ t l', Machine.exec .deposit s = .next t ∧ t.launch? f.msg.lid = some l' ∧ f.dest ∈ l'.filled ∧
      (t.core f.dest).fillLid.toNat = f.msg.lid ∧ (t.core f.dest).fillLen.toNat = cl) ∧
  (∀ (s : State) (n : Nat) (q : List Nat),
    (s.die s.input.die).derrick.levels.find? (fun p => p.2.contains s.input.n) = some (n, q) → n < 3 →
    (Tab.get [] (s.die s.input.die).derrick.levels (n + 1)).length < 64 →
    ∃ t, Machine.exec .launchPromotion s = .next t ∧
      Tab.get [] (t.die s.input.die).derrick.levels (n + 1) =
        Tab.get [] (s.die s.input.die).derrick.levels (n + 1) ++ [s.input.n] ∧
      Tab.get [] (t.die s.input.die).derrick.levels n = q.erase s.input.n) ∧
  (∀ (s : State) (lid : Nat) (n : Int), (s.core s.input.core).delta = [(lid, n)] → lid ≠ 0 → s.live lid = true →
    ∃ t, Machine.exec .deltaFlush s = .next t ∧ (t.core s.input.core).delta = [] ∧
      Tab.get 0 (t.die (s.input.core / 1024)).derrick.delta lid =
        Tab.get 0 (s.die (s.input.core / 1024)).derrick.delta lid + n) ∧
  (∀ s : State, s.master.sweep.running = false → s.masterReady = true →
    ∃ t, Machine.exec .sweepStart s = .next t ∧ t.master.sweep.running = true ∧
      ∀ k, k ∈ t.master.sweep.left ↔ ∃ x, (k, x) ∈ s.cores ∧ x.delta ≠ [] ∧ s.fenced.getLsbD (k / 1024) = false) ∧
  (∀ s : State, s.input.core ∈ s.master.sweep.left → (s.core s.input.core).delta = [] →
    ∃ t, Machine.exec .sweepAcknowledge s = .next t ∧
      t.master.sweep.left = s.master.sweep.left.filter (· != s.input.core)) ∧
  (∀ (s : State) (lid : Nat) (l : Launch), s.master.sweep = { running := true, left := [] } →
    s.master.electing = false → s.master.launches = [(lid, l)] → lid ≠ 0 → l.state = .running → s.master.events = [] →
    (∀ d, d < 4 → Tab.get 0 (s.die d).derrick.delta lid = 0) → (∀ p ∈ s.cores, Tab.get 0 p.2.delta lid = 0) →
    l.unsent = false →
    ∃ t, Machine.exec .sweepComplete s = .next t ∧ t.master.sweep.running = false ∧
      (l.zeros = 0 → l.units ≠ 0 → t.master.events = []) ∧ (1 ≤ l.zeros → t.master.events = [lid])) ∧
  (∀ s : State, s.input.die < 4 → s.fenced.getLsbD s.input.die = false →
    ∃ t, Machine.exec .dieFence s = .next t ∧ t.fenced.getLsbD s.input.die = true ∧ t.master.electing = true ∧
      ∀ d, d ≠ s.input.die → t.fenced.getLsbD d = s.fenced.getLsbD d) ∧
  (∀ s : State, s.fenced ≠ 0xF → s.master.electing = true →
    ∃ t, Machine.exec .masterElection s = .next t ∧ t.master.electing = false ∧
      (s.fenced.getLsbD s.master.die = false → t.master.die = s.master.die) ∧
      (s.fenced.getLsbD s.master.die = true → t.master.die < 4 ∧ t.fenced.getLsbD t.master.die = false ∧
        ∀ d, d < t.master.die → s.fenced.getLsbD d = true) ∧
      (∀ f ∈ t.loFlights ++ t.hiFlights, f.dest < 4096 → t.fenced.getLsbD (f.dest / 1024) = false) ∧
      (Tab.sorted s.master.launches = true → ∀ lid l, s.launch? lid = some l → s.lostChunks l ≠ [] →
        l.state ≠ .complete → (l.word 2).getLsbD 34 = false → ∃ l', t.launch? lid = some l' ∧ l'.status = 3))

/-! ## Tables and the Bench (R196 to R217, R366 to R392, R413) -/

namespace Sys2Proof.Claims

/-- R368: the Derricks, named 4096 + die, and the cores, by number, that a change of launch `lid`'s table has to reach. -/
def OnTheWay (s : State) (lid who : Nat) : Prop :=
  (∃ d, d < 4 ∧ s.fenced.getLsbD d = false ∧ who = 4096 + d) ∨
  ∃ p ∈ s.cores, p.1 = who ∧ (Tab.find p.2.bindCache lid).isSome = true

/-- R386, R368: the instruction changes slot `k` of launch `lid`, held as `l`, to `entry`: the master's table holds it, the
change is on its way, and the instruction waits until it has completed everywhere. -/
def ChangesBinding (i : Instr) (s : State) (lid : Nat) (l : Launch) (k : Nat) (entry : Word) : Prop :=
  ∃ t l' e, Machine.exec i s = .next t ∧ (self t).state = .wait ∧ (self t).latch = .asked ∧
    t.launch? lid = some l' ∧ (∀ j, Tab.get 0 l'.bindings j = if j = k then entry else Tab.get 0 l.bindings j) ∧
    t.master.bindings = s.master.bindings ++ [e] ∧ e.lid = lid ∧ e.slot = k ∧ e.entry = entry ∧
    e.core = s.iss.core ∧ e.ctx = s.iss.ctx ∧ ∀ who, who ∈ e.left ↔ OnTheWay s lid who

/-- R390: a `tlbinv` of an ASID, or of all, and of one page, or of all, removes the entry. -/
def Removed (who page : Option Nat) (e : TlbEntry) : Prop :=
  (who = none ∨ who = some e.asid) ∧ ∀ v, page = some v → e.covers e.asid v = true

end Sys2Proof.Claims

/-- R367, R368, R378, R380, R386 to R392: `bindh` and `unbindh` change the launch's binding table and wait until the change
has reached every Derrick and every core that caches the table; then they retire. `bind` and `unbind` send a region change
and give their answer once it is applied; `publish` exchanges, defines and removes a buffer; `tlbinv` removes the
translations that it names everywhere, once every earlier write of the context is performed, its `st.nt` among them (the
model's reading, log 16); `tlbpin` pins one in every die, or lowers its count, and `cmap.rd` reads the core map. That a
set full of pinned entries answers `tlbpin` with 1 (log 20), and that `publish.define` of a record without V defines an
invalid entry (log 56), are the model's choices. -/
def Obligations.TableInstructions : Prop :=
  (∀ (rd ra : BitVec 6) (k : BitVec 8) (s s1 s2 : State) (d a : Word) (lid : Nat) (l : Launch),
    Gives (readS rd) s d s1 → Gives (readS ra) s1 a s2 →
    ((self s).latch = .asked → Machine.exec (.bindh rd ra k) s = .next (retires s2) ∧
      Machine.exec (.unbindh rd k) s = .next (retires s1)) ∧
    ((self s).latch = .none → lid = (if rd = 0#6 then (self s).launchId.toNat else d.toNat % 2 ^ 16) → lid ≠ 0 →
      s.launch? lid = some l → (s.iss.ctx = 15 ∨ l.asid = (selfCore s).asid.toNat) →
      (∃ e, e < 4 ∧ s.fenced.getLsbD e = false) →
      (a.toNat < (l.word 1).toNat / 2 ^ 33 →
        ChangesBinding (.bindh rd ra k) s lid l k.toNat (wrap (2 ^ 63 + a.toNat % 2 ^ 32 : Nat))) ∧
      ChangesBinding (.unbindh rd k) s lid l k.toNat (wrap ((Tab.get 0 l.bindings k.toNat).toNat % 2 ^ 32 : Nat)))) ∧
  (∀ (rd ra : BitVec 6) (s s1 s2 s3 : State) (a : Word) (ws : List Word), Gives (readS ra) s a s1 →
    (∀ w, (self s).latch = .answered w → Gives (writeS rd w) s1 () s2 →
      Machine.exec (.bind rd ra) s = .next (retires s2) ∧ Machine.exec (.unbind rd ra) s = .next (retires s2)) ∧
    ((self s).latch = .none → Gives (tileRecord a 8 4) s1 ws s2 → regionOk ws = true →
      (∀ r ∈ s2.master.regions, regionValid r.2 = true → regionAsid r.2 = (selfCore s2).asid.toNat →
        regionsMeet r.2 (regionEntry ws (selfCore s2).asid.toNat) = false) →
      ∀ i, i < 4096 → regionValid (Tab.get [] s2.master.regions i) = false →
        (∀ j, j < i → regionValid (Tab.get [] s2.master.regions j) = true) →
        ∃ t, Machine.exec (.bind rd ra) s = .next t ∧ (self t).state = .wait ∧ (self t).latch = .answered (wrap i) ∧
          Tab.get [] t.master.regions i = regionEntry ws (selfCore s2).asid.toNat) ∧
    ((self s).latch = .none → Gives (tileRecord a 8 4) s1 ws s2 → regionOk ws = true →
      (∃ r ∈ s2.master.regions, regionValid r.2 = true ∧ regionAsid r.2 = (selfCore s2).asid.toNat ∧
        regionsMeet r.2 (regionEntry ws (selfCore s2).asid.toNat) = true) → Gives (writeS rd (wrap (-2))) s2 () s3 →
      Machine.exec (.bind rd ra) s = .next (retires s3)) ∧
    ((self s).latch = .none → a.toNat ≤ 4095 → regionValid (Tab.get [] s.master.regions a.toNat) = true →
      (s.iss.ctx = 15 ∨ regionAsid (Tab.get [] s.master.regions a.toNat) = (selfCore s).asid.toNat) →
      ∃ t, Machine.exec (.unbind rd ra) s = .next t ∧ (self t).state = .wait ∧
        (self t).latch = .answered 0 ∧ regionValid (Tab.get [] t.master.regions a.toNat) = false) ∧
    ((self s).latch = .none → a.toNat ≤ 4095 → regionValid (Tab.get [] s.master.regions a.toNat) = false →
      Gives (writeS rd 1) s1 () s2 → Machine.exec (.unbind rd ra) s = .next (retires s2))) ∧
  (∀ (rd : BitVec 6) (s s1 : State) (v w : Word), Gives (readS rd) s v s1 →
    ((self s).latch = .answered w → Machine.exec (.publish rd) s = .next (retires s1)) ∧
    ((self s).latch = .none → regionValid (s1.publishEntry v) = true →
      ((s1.publishEntry v).getD 0 0).toNat / 2 ^ 48 % 2 ^ 13 = (selfCore s).asid.toNat →
      s1.waitOver s.iss.core s.iss.ctx (.copies (v.toNat / 2 ^ 10 % 4) (v.toNat % 2 ^ 10) true) = true →
      (∀ e ∈ (selfCore s1).nt, e.holds s.iss.ctx = false) → s1.waitOver s.iss.core s.iss.ctx .written = true →
      ∃ t e, Machine.exec (.publish rd) s = .next t ∧ (self t).state = .wait ∧
        t.master.exchanges = s.master.exchanges ++ [e] ∧ e.slot = v.toNat % 2 ^ 12 ∧ e.core = s.iss.core ∧
        e.ctx = s.iss.ctx) ∧
    (s.iss.ctx = 15 →
      s1.waitOver s.iss.core 15 (.copies (v.toNat / 2 ^ 10 % 4) (v.toNat % 2 ^ 10) false) = true →
      ∃ t, Machine.exec (.publishRemove rd) s = .next t ∧ t.iss.retired = true ∧
        regionValid (t.publishEntry v) = false)) ∧
  (∀ (rd ra : BitVec 6) (s s1 s2 s3 : State) (v a : Word) (ws : List Word), Gives (readS rd) s v s1 →
    Gives (readS ra) s1 a s2 → s.iss.ctx = 15 → Gives (tileRecord a 1 4) s2 ws s3 → publishOk ws = true →
    regionValid (s3.publishEntry v) = false →
    ∃ t, Machine.exec (.publishDefine rd ra) s = .next t ∧ t.iss.retired = true ∧
      t.publishEntry v = (ws.getD 0 0 &&& ~~~(wrap (2 ^ 62))) :: ws.drop 1) ∧
  (∀ (ra : BitVec 6) (k : BitVec 8) (s s1 : State) (a : Word) (who page : Option Nat), (self s).latch = .none →
    (if k = 0#8 ∨ k = 2#8 then Gives (readS ra) s a s1 else s1 = s ∧ a = 0) → k.toNat ≤ 3 →
    (2 ≤ k.toNat → s.iss.ctx = 15) → (k = 0#8 → a.toNat < 2 ^ 56) →
    who = (if k.toNat ≤ 1 then some (selfCore s).asid.toNat else if k = 2#8 then some (a.toNat % 2 ^ 13) else none) →
    page = (if k = 0#8 then some a.toNat else none) →
    s1.waitOver s.iss.core s.iss.ctx .written = true → (∀ p ∈ s.cores, p.2.nt = []) → s1.translationsDone who page = true →
    ∃ t, Machine.exec (.tlbinv ra k) s = .next t ∧ t.iss.retired = true ∧
      (∀ n, ∀ e ∈ (t.core n).utlb, ¬Removed who page e) ∧ ∀ d, ∀ e ∈ (t.die d).tlb, ¬Removed who page e) ∧
  (∀ (rd ra : BitVec 6) (s s1 s2 s3 : State) (a : Word) (e : TlbEntry) (pl : Place), Gives (readS ra) s a s1 →
    (a.toNat < 2 ^ 56 → s1.lookup s.iss.core (selfCore s).asid.toNat a.toNat = (.leaf e, s2) →
      s2.placeOf e (selfCore s).asid.toNat a.toNat .any = .ok pl →
      (rd ≠ 61 → e.covers (selfCore s).asid.toNat a.toNat = true → (∀ d, d < 4 → s2.canPin d e a.toNat = true) →
        (∀ d, d < 4 → ∀ y ∈ (s2.die d).tlb, y.covers (selfCore s).asid.toNat a.toNat = true →
          y.va = e.va ∧ y.size = e.size) →
        ∃ t, Machine.exec (.tlbpin rd ra 0) s = .next t ∧ t.iss.retired = true ∧ (self t).scalar rd.toNat = 0 ∧
          ∀ d, d < 4 → t.pins d (selfCore s).asid.toNat a.toNat = s2.pins d (selfCore s).asid.toNat a.toNat + 1) ∧
      ((∃ d, d < 4 ∧ s2.canPin d e a.toNat = false) → Gives (writeS rd 1) s2 () s3 →
        Machine.exec (.tlbpin rd ra 0) s = .next (retires s3))) ∧
    (s1.pins (s.iss.core / 1024) (selfCore s).asid.toNat a.toNat = 0 → Gives (writeS rd 2) s1 () s3 →
      Machine.exec (.tlbpin rd ra 1) s = .next (retires s3)) ∧
    (s1.pins (s.iss.core / 1024) (selfCore s).asid.toNat a.toNat ≠ 0 → rd ≠ 61 →
      ∃ t, Machine.exec (.tlbpin rd ra 1) s = .next t ∧ t.iss.retired = true ∧ (self t).scalar rd.toNat = 0 ∧
        ∀ d, t.pins d (selfCore s).asid.toNat a.toNat = s1.pins d (selfCore s).asid.toNat a.toNat - 1)) ∧
  (∀ (rd ra : BitVec 6) (s s1 s2 : State) (a v : Word) (map : Nat → List (Option Nat)), Gives (readS ra) s a s1 →
    (map = fun d => if s.fenced.getLsbD d then [] else (s.die d).coreMap) → Gives (writeS rd v) s1 () s2 →
    (v = (match (map (a.toNat / 2 ^ 10 % 4)).getD (a.toNat % 2 ^ 10) none with
        | some n => wrap (a.toNat / 2 ^ 10 % 4 * 2 ^ 24 + n * 2 ^ 14 : Nat)
        | none => wrap (-1)) → Machine.exec (.cmapRd rd ra 0) s = .next (retires s2)) ∧
    (∀ i : Nat, v = wrap i → s.enabled (a.toNat / 2 ^ 14 % 2 ^ 12) = true →
      (map (a.toNat / 2 ^ 24 % 4))[i]? = some (some (a.toNat / 2 ^ 14 % 2 ^ 10)) →
      (∀ j, j < i → (map (a.toNat / 2 ^ 24 % 4))[j]? ≠ some (some (a.toNat / 2 ^ 14 % 2 ^ 10))) →
      Machine.exec (.cmapRd rd ra 1) s = .next (retires s2)) ∧
    (v = wrap (-1) → (s.enabled (a.toNat / 2 ^ 14 % 2 ^ 12) = false ∨
        some (a.toNat / 2 ^ 14 % 2 ^ 10) ∉ map (a.toNat / 2 ^ 24 % 4)) →
      Machine.exec (.cmapRd rd ra 1) s = .next (retires s2)) ∧
    (v = wrap ((map (a.toNat % 4)).countP Option.isSome) → Machine.exec (.cmapRd rd ra 2) s = .next (retires s2))) ∧
  (∀ s : State, s.iss.ctx ≠ 15 → Machine.exec (.tlbinv 0 3) s = .next (s.takeTrap (illegal 6)) ∧
    Machine.exec (.publishRemove 0) s = .next (s.takeTrap (illegal 6)) ∧
    Machine.exec (.publishDefine 0 0) s = .next (s.takeTrap (illegal 6)) ∧
    ((self s).latch = .none → (self s).launchId = 0 →
      Machine.exec (.unbindh 0 0) s = .next (s.takeTrap (illegal 6)) ∧
      Machine.exec (.bindh 0 0 0) s = .next (s.takeTrap (illegal 6))))

/-- R368, R370, R372, R378, R380: the steps by which the tables change. BINDING_CHANGE_APPLY brings a change to a die's
Derrick, and then to a core that caches the table, and REGION_BINDING_APPLY one to a die; the change is over at the last
one. BINDING_TABLE_FETCH caches the table that a message needs, as the die's Derrick holds it; PUBLISH_EXCHANGE toggles
SEL; PAGE_WALK brings a leaf, from the die's TLB or from the tables, to the core's micro-TLB and to the die's TLB, unless
the set is full of pinned entries; CORE_MAP_REPLACE replaces a map, and the list is stored as given (a choice, log 102). -/
def Obligations.TableSteps : Prop :=
  (∀ (s : State) (e : Change) (bound : Tab Word), s.master.bindings = [e] → s.input.flag = false →
    s.input.core < 4096 → e.left = [s.input.core] → Tab.find (s.core s.input.core).bindCache e.lid = some bound →
    ∃ t, Machine.exec .bindingChangeApply s = .next t ∧ t.master.bindings = [] ∧
      Tab.find (t.core s.input.core).bindCache e.lid = some (Tab.put bound e.slot e.entry)) ∧
  (∀ (s : State) (e : Change) (bound : Tab Word) (rest : List Nat), s.master.bindings = [e] → s.input.flag = true →
    e.left = (4096 + s.input.die) :: rest → 4096 + s.input.die ∉ rest →
    Tab.find (s.die s.input.die).bindings e.lid = some bound →
    ∃ t, Machine.exec .bindingChangeApply s = .next t ∧
      t.master.bindings = (if rest = [] then [] else [{ e with left := rest }]) ∧
      Tab.find (t.die s.input.die).bindings e.lid = some (Tab.put bound e.slot e.entry)) ∧
  (∀ (s : State) (e : Change), s.master.bindings = [e] → s.input.flag = false →
    4096 + s.input.core / 1024 ∈ e.left → Machine.exec .bindingChangeApply s = .next s) ∧
  (∀ (s : State) (m : Msg) (rest : List Msg) (l : Launch), (s.core s.input.core).loInbox = m :: rest → m.kind = 0 →
    s.input.n = m.lid → s.launch? m.lid = some l → Tab.find (s.core s.input.core).bindCache m.lid = none →
    (s.core s.input.core).bindCache.length < 8 →
    ∃ t, Machine.exec .bindingTableFetch s = .next t ∧ Tab.find (t.core s.input.core).bindCache m.lid =
      some ((Tab.find (s.die (s.input.core / 1024)).bindings m.lid).getD l.bindings)) ∧
  (∀ (s : State) (e : Change), s.master.regionChanges = [e] → e.left = [s.input.die] →
    ∃ t, Machine.exec .regionBindingApply s = .next t ∧ t.master.regionChanges = [] ∧
      Tab.get [] (t.die s.input.die).regions e.slot = e.words) ∧
  (∀ (s : State) (e : Change) (rest : List Change), s.master.exchanges = e :: rest → e.slot = 1024 * s.input.die + s.input.n →
    ∃ t, Machine.exec .publishExchange s = .next t ∧ t.master.exchanges = rest ∧
      (Tab.get [] (t.die s.input.die).publish s.input.n).getD 0 0 =
        (Tab.get [] (s.die s.input.die).publish s.input.n).getD 0 0 ^^^ wrap (2 ^ 62)) ∧
  (∀ (s : State) (e : TlbEntry) (d asid va : Nat), d = s.input.core / 1024 → va = s.input.word.toNat →
    asid = (s.core s.input.core).asid.toNat →
    (∀ x ∈ (s.core s.input.core).utlb, x.covers asid va = false) →
    ((s.die d).tlb.find? (fun x => x.covers asid va) = some e ∨
      (∀ x ∈ (s.die d).tlb, x.covers asid va = false) ∧ (s.walk d asid va).1 = .leaf e) →
    ((s.die d).tlb.filter fun x => x.set == e.set && x.pins != 0).length < 8 →
    ∃ t, Machine.exec .pageWalk s = .next t ∧ e.covers asid va = true ∧
      { e with pins := 0 } ∈ (t.core s.input.core).utlb ∧ e ∈ (t.die d).tlb) ∧
  (∀ s : State, s.input.sites.length ≤ 1024 → (∀ e ∈ s.input.sites, ∀ n, e = some n → n < 1024) →
    ∃ t, Machine.exec .coreMapReplace s = .next t ∧ (t.die s.input.die).coreMap = s.input.sites)

namespace Sys2Proof.Claims

/-- A number held between two bounds (R201). -/
def clamp16 (i : Int) : Int := max (-32768) (min 32767 i)

/-- R373: a patch entry is legal. -/
abbrev PatchLegal (v : Nat) : Prop :=
  v / 2 ^ 30 % 4 = 0 ∧ ∀ i, i < 3 → v / 2 ^ (10 * i) % 2 ^ 9 < 0x105 ∨ v / 2 ^ (10 * i) % 2 ^ 9 = 0x1FF

/-- R209: the value that `iget` gives for a selector. -/
def igetTable (c : Cell) (b : Bench) (d : Nat) : List (Nat × Word) := [
  (0, wrap c.y.toInt), (1, wrap c.rs.toInt), (2, wrap c.scale.toNat), (3, wrap c.oc.toInt), (4, wrap c.octhr.toInt),
  (5, wrap c.cfg.toNat), (6, wrap c.latch.toNat), (7, wrap c.extin.toInt), (8, wrap c.dz.toNat), (9, wrap c.trig.toNat),
  (10, c.thdr), (11, wrap (b.domain d).dstate.toNat), (12, b.bstat)]

/-- R209: what `iset` makes of a cell for a selector, and when it may. -/
def isetTable (c : Cell) (v : Word) : List (Nat × Prop × Cell) := [
  (0, True, { c with y := v.setWidth 32 }),
  (1, (v.setWidth 32).toInt.natAbs < 2 ^ c.scale.toNat, { c with rs := v.setWidth 32 }),
  (2, 8 ≤ v.toNat % 32 ∧ c.rs.toInt.natAbs < 2 ^ (v.toNat % 32), { c with scale := v.setWidth 5 }),
  (3, True, { c with oc := v.setWidth 32 }), (4, True, { c with octhr := v.setWidth 32 }),
  (5, True, { c with cfg := v.setWidth 3, dz := 0, latch := 0 }),
  (6, ∀ i, i < 3 → v.toNat / 2 ^ (2 * i) % 4 ≠ 2, { c with latch := v.setWidth 6 }),
  (7, True, { c with extin := v.setWidth 16 }), (8, v.toNat % 4 ≠ 2, { c with dz := v.setWidth 2 })]

/-- The Bench of the core that holds the slot. -/
def bench (s : State) : Bench := (selfCore s).bench

/-- R208: no other context of the core has an `isave` or `irest` in progress. -/
def NoImage (s : State) : Prop := ∀ p ∈ (selfCore s).ctxs, p.1 = s.iss.ctx ∨ p.2.imaging = false

/-- R208: the instruction waits for that image, and the Bench stays as it is. -/
def WaitsForImage (i : Instr) (s : State) : Prop :=
  ∃ t, Machine.exec i s = .next t ∧ t.iss.retired = s.iss.retired ∧ (self t).state = .wait ∧
    (self t).waitOn = some .image ∧ bench t = bench s

/-- R211: no `istep` is under way, and of the domains only `d` may run. -/
def Alone (b : Bench) (d : Nat) : Prop :=
  ∀ e, e < 4 → (e ≠ d → (b.domain e).dstate ≠ 1) ∧ (b.domain e).stepper = none

end Sys2Proof.Claims

/-- R196 to R217, R373, R389, R413: the Bench's instructions, which wait while another context's `isave` or `irest` is in
progress: `iget` and `iset`, `iin`, `iclk`, `ipatch`, `ibind`, `isnap`, `isave` and `irest` of the own tile, and `istep`,
which asks for its ticks and gives their number when they are over. That the fault of `irest` names the first word that
fails, and word 0 where |RS| is too large, is the model's choice (log 57), and so is that command 2 of `iclk` stops a
FAULTED domain too (R413, log 106). -/
def Obligations.BenchInstructions : Prop :=
  (∀ (rd ra rb : BitVec 6) (k : BitVec 8) (s s1 s2 : State) (a b : Word), ¬NoImage s →
    (∀ i ∈ [Instr.iget rd ra, .iset ra rb, .iin ra rb, .iclk rd ra rb, .ipatch rd ra k, .ibind ra rb, .isnap ra rb,
        .isave ra, .irest ra], WaitsForImage i s) ∧
    ((self s).latch = .none → Gives (readS ra) s a s1 → Gives (readS rb) s1 b s2 →
      WaitsForImage (.istep rd ra rb) s)) ∧
  (∀ (rd ra : BitVec 6) (s s1 s2 : State) (a : Word), NoImage s → Gives (readS ra) s a s1 →
    ∀ p ∈ igetTable ((bench s).cell (a.toNat % 256)) (bench s) (a.toNat % 4), a.toNat / 2 ^ 8 % 16 = p.1 →
      Gives (writeS rd p.2) s1 () s2 → Machine.exec (.iget rd ra) s = .next (retires s2)) ∧
  (∀ (rd ra : BitVec 6) (s s1 : State) (a : Word), NoImage s → Gives (readS ra) s a s1 → 12 < a.toNat / 2 ^ 8 % 16 →
    Machine.exec (.iget rd ra) s = .next (s.takeTrap (illegal 4))) ∧
  (∀ (ra rb : BitVec 6) (s s1 s2 : State) (a v : Word) (n : Nat), NoImage s → Gives (readS ra) s a s1 →
    Gives (readS rb) s1 v s2 → n = a.toNat % 256 →
    (∀ p ∈ isetTable ((bench s).cell n) v, a.toNat / 2 ^ 8 % 16 = p.1 →
      (p.2.1 → ∃ t, Machine.exec (.iset ra rb) s = .next t ∧ t.iss.retired = true ∧ (bench t).cell n = p.2.2 ∧
        ∀ m, m ≠ n → (bench t).cell m = (bench s).cell m) ∧
      (¬p.2.1 → Machine.exec (.iset ra rb) s = .next (s.takeTrap (illegal 4)))) ∧
    (a.toNat / 2 ^ 8 % 16 = 12 → ∃ t, Machine.exec (.iset ra rb) s = .next t ∧ t.iss.retired = true ∧
      (bench t).bstat = (bench s).bstat &&& ~~~(v &&& 3)) ∧
    (9 ≤ a.toNat / 2 ^ 8 % 16 → a.toNat / 2 ^ 8 % 16 ≠ 12 →
      Machine.exec (.iset ra rb) s = .next (s.takeTrap (illegal 4)))) ∧
  (∀ (ra rb : BitVec 6) (s s1 s2 : State) (a b : Word), NoImage s → Gives (readS ra) s a s1 → Gives (readS rb) s1 b s2 →
    ∃ t, Machine.exec (.iin ra rb) s = .next t ∧ t.iss.retired = true ∧
      ((bench t).cell (a.toNat % 256)).extin.toInt =
        clamp16 (((bench s).cell (a.toNat % 256)).extin.toInt + b.toInt)) ∧
  (∀ (rd ra rb : BitVec 6) (s s1 s2 : State) (a v : Word), NoImage s → Gives (readS ra) s a s1 → Gives (readS rb) s1 v s2 →
    a.toNat < 4 → v.toNat < 2 ^ 33 → v.toNat / 4 % 2 ^ 14 = 0 → rd ≠ 0 → rd ≠ 61 →
    (v.toNat % 4 = 3 → 4 ≤ v.toNat / 2 ^ 16 ∧ v.toNat / 2 ^ 16 ≤ 65536) →
    ∃ t, Machine.exec (.iclk rd ra rb) s = .next t ∧ t.iss.retired = true ∧
      (self t).scalar rd.toNat = ((bench s).domain a.toNat).count ∧
      (v.toNat % 4 = 1 → ((bench t).domain a.toNat).dstate = 1) ∧
      (v.toNat % 4 = 2 → ((bench t).domain a.toNat).dstate = 0) ∧
      (v.toNat % 4 = 3 → ((bench t).domain a.toNat).divider = v.toNat / 2 ^ 16) ∧
      (v.toNat % 4 = 0 → bench t = bench s)) ∧
  (∀ (rd ra : BitVec 6) (k : BitVec 8) (s s1 : State) (a : Word), NoImage s → Gives (readS ra) s a s1 → rd ≠ 0 → rd ≠ 61 →
    (PatchLegal (a.toNat % 2 ^ 32) → ∃ t, Machine.exec (.ipatch rd ra k) s = .next t ∧ t.iss.retired = true ∧
      (self t).scalar rd.toNat = ((bench s).cell k.toNat).patch.setWidth 64 ∧
      ((bench t).cell k.toNat).patch = a.setWidth 32) ∧
    (¬PatchLegal (a.toNat % 2 ^ 32) → Machine.exec (.ipatch rd ra k) s = .next (s.takeTrap (illegal 4)))) ∧
  (∀ (ra rb : BitVec 6) (s s1 s2 : State) (a v : Word) (c : Cell) (mode : Nat), NoImage s → Gives (readS ra) s a s1 →
    Gives (readS rb) s1 v s2 → mode = a.toNat / 2 ^ 8 % 8 → mode ≤ 5 → v.toNat % 2 ^ 13 = 0 →
    c = (bench s).cell (a.toNat % 256) → c.armed = false →
    ∃ t, Machine.exec (.ibind ra rb) s = .next t ∧ t.iss.retired = true ∧
      ((bench t).cell (a.toNat % 256)).trig.toNat =
        (if mode = 0 then 0 else 32) + a.toNat / 2 ^ 11 % 4 * 8 + mode ∧
      ((bench t).cell (a.toNat % 256)).thdr = v ∧ ((bench t).cell (a.toNat % 256)).tlid = (self s).launchId ∧
      (mode ≠ 0 → (self s).launchId ≠ 0 → Tab.get 0 (selfCore t).delta (self s).launchId.toNat =
        Tab.get 0 (selfCore s).delta (self s).launchId.toNat + 1)) ∧
  (∀ (ra rb : BitVec 6) (s s1 s2 : State) (a v : Word) (f n off : Nat), NoImage s → Gives (readS ra) s a s1 →
    Gives (readS rb) s1 v s2 → f = v.toNat % 256 → n = v.toNat / 2 ^ 8 % 2 ^ 9 → 1 ≤ n → f + n ≤ 256 →
    a = ownTile off → off % 4 = 0 → InTile off (4 * n) → WriteClear s2 off (4 * n) → (selfCore s).tile.wf = true →
    ∃ t, Machine.exec (.isnap ra rb) s = .next t ∧ t.iss.retired = true ∧
      TileHas s t s.iss.core off ((List.range n).flatMap fun i => lowBytes 4
        (if v.getLsbD 24 then ((bench s).cell (f + i)).oc else ((bench s).cell (f + i)).y).toNat)) ∧
  (∀ (ra : BitVec 6) (s s1 : State) (a : Word) (off : Nat), NoImage s → (self s).latch = .none →
    Gives (readS ra) s a s1 → a = ownTile off →
    0x800 ≤ off → off + 10304 ≤ 2 ^ 20 → WriteClear s1 off 10304 → (selfCore s).tile.wf = true →
    (selfCore s).bad = [] →
    ∃ t, Machine.exec (.isave ra) s = .next t ∧ t.iss.retired = true ∧
      little (tileRun t s.iss.core off 8) = 1 ∧
      little (tileRun t s.iss.core (off + 56) 8) = (bench s).bstat.toNat ∧
      ∀ n, n < 256 →
        little (tileRun t s.iss.core (off + 64 + 32 * n) 8) =
          ((bench s).cell n).y.toNat + ((bench s).cell n).rs.toNat * 2 ^ 32 ∧
        little (tileRun t s.iss.core (off + 8256 + 8 * n) 8) = ((bench s).cell n).thdr.toNat) ∧
  (∀ (ra : BitVec 6) (s s1 s2 : State) (a : Word) (bs : List Byte), NoImage s → Gives (readS ra) s a s1 →
    Gives (readBytes 10304 a) s1 bs s2 → bs.length = 10304 →
    (imageFault (wordsOf 1288 bs) = none → ∃ t, Machine.exec (.irest ra) s = .next t ∧ t.iss.retired = true ∧
      (bench t).bstat.toNat = little ((bs.drop 56).take 8) ∧
      ∀ n, n < 256 → ((bench t).cell n).y.toNat + ((bench t).cell n).rs.toNat * 2 ^ 32 =
          little ((bs.drop (64 + 32 * n)).take 8) ∧
        ((bench t).cell n).thdr.toNat = little ((bs.drop (8256 + 8 * n)).take 8)) ∧
    (∀ i, imageFault (wordsOf 1288 bs) = some i →
      Machine.exec (.irest ra) s = .next (s.takeTrap { cause := 0x04, addr := a + wrap (8 * i : Nat), info := 4 }))) ∧
  (∀ (rd ra rb : BitVec 6) (s s1 s2 : State) (a n : Word) (d : Nat), Gives (readS ra) s a s1 →
    Gives (readS rb) s1 n s2 →
    (NoImage s → (self s).latch = .none → d = a.toNat % 4 → ((bench s).domain d).stepper = none →
      (1 ≤ n.toNat → n.toNat ≤ 65536 → a.toNat < 4 → ((bench s).domain d).dstate ≠ 1 → rd ≠ 61 →
        ∃ t, Machine.exec (.istep rd ra rb) s = .next t ∧ (self t).state = .wait ∧ (self t).latch = .asked ∧
          ((bench t).domain d).stepper = some s.iss.ctx ∧ ((bench t).domain d).stepLeft = n.toNat ∧
          ((bench t).domain d).stepDone = 0) ∧
      (n = 0 ∨ 65536 < n.toNat ∨ 4 ≤ a.toNat ∨ ((bench s).domain d).dstate = 1 →
        Machine.exec (.istep rd ra rb) s = .next (s.takeTrap (illegal 4)))) ∧
    ((self s).latch = .asked → d = a.toNat % 4 → ((bench s).domain d).stepLeft = 0 → rd ≠ 0 → rd ≠ 61 →
      ∃ t, Machine.exec (.istep rd ra rb) s = .next t ∧ t.iss.retired = true ∧
        (self t).scalar rd.toNat = wrap ((bench s).domain d).stepDone ∧ ((bench t).domain d).stepper = none))

/-- R199 to R207, R210, R216, R217, R341: a step of a cell adds its dy inputs to Y and dx times the new Y to RS, and emits
the whole units of 2^SCALE that RS has reached, so that no amount is lost; it overruns where Y leaves 32 bits or RS
reaches twice 2^SCALE. STEP_CLOCK_TICK ticks the running domain that is due and steps its cell, or makes the domain
FAULTED and enqueues the activation where the step overruns; it ticks a domain that an `istep` steps, too. BENCH_DEPOSIT
increments an external port before the ticks of its cycle; TRIGGER_QUEUE_TRANSFER passes the head of the trigger queue to the outbox. -/
def Obligations.BenchSteps : Prop :=
  (∀ (b : Bench) (c : Cell) (y r dz : Int), b.step c = .done y r dz →
    y = c.y.toInt + b.input c 1 + b.input c 2 ∧ r + dz * 2 ^ c.scale.toNat = c.rs.toInt + b.input c 0 * y ∧
    (dz = -1 ∨ dz = 0 ∨ dz = 1) ∧ r.natAbs < 2 ^ c.scale.toNat) ∧
  (∀ (b : Bench) (c : Cell) (n : Nat), b.step c = .overrun n →
    (n = 1 ∧ ¬(-(2 : Int) ^ 31 ≤ c.y.toInt + b.input c 1 + b.input c 2 ∧
      c.y.toInt + b.input c 1 + b.input c 2 < 2 ^ 31)) ∨
    (n = 0 ∧ 2 * 2 ^ c.scale.toNat ≤
      (c.rs.toInt + b.input c 0 * (c.y.toInt + b.input c 1 + b.input c 2)).natAbs)) ∧
  (∀ (s : State) (d : Nat) (b : Bench), b = (s.core s.input.core).bench → d < 4 → (b.domain d).dstate = 1 →
    Alone b d → (b.domain d).due ≤ (s.core s.input.core).cycle → s.tripped = false →
    ((∀ p ∈ b.cells, p.2.enabled = false) →
      ∃ t, Machine.exec .stepClockTick s = .next t ∧
        ((t.core s.input.core).bench.domain d).count = (b.domain d).count + 1 ∧
        ((t.core s.input.core).bench.domain d).due = (b.domain d).due + (b.domain d).divider) ∧
    ∀ (n : Nat) (c : Cell), b.cells = [(n, c)] → c.enabled = true → c.dom = d → c.armed = false →
      (∀ (y r dz : Int), b.step c = .done y r dz → ∃ t c', Machine.exec .stepClockTick s = .next t ∧
        (t.core s.input.core).bench.cell n = c' ∧ c'.y.toInt = y ∧ c'.rs = BitVec.ofInt 32 r ∧
        c'.oc = c.oc + BitVec.ofInt 32 dz ∧ increment c'.dz.toNat = dz ∧
        c'.extin.toInt = c.extin.toInt - c.extin.toInt.sign ∧
        ((t.core s.input.core).bench.domain d).count = (b.domain d).count + 1) ∧
      ∀ r, b.step c = .overrun r → ∃ t, Machine.exec .stepClockTick s = .next t ∧
        (t.core s.input.core).bench.cell n = c ∧ ((t.core s.input.core).bench.domain d).dstate = 2 ∧
        ((t.core s.input.core).bench.domain d).count = (b.domain d).count ∧
        (t.core s.input.core).activations =
          (s.core s.input.core).activations ++ [⟨0x12, none, 0, 0, wrap (n + 256 * d + 1024 * r : Nat)⟩]) ∧
  (∀ (s : State) (d m : Nat) (b : Bench), b = (s.core s.input.core).bench → d < 4 → (b.domain d).stepper.isSome = true →
    (∀ e, e < 4 → (b.domain e).dstate ≠ 1 ∧ (e ≠ d → (b.domain e).stepper = none)) → (b.domain d).stepLeft = m + 1 →
    (b.domain d).stepDue ≤ (s.core s.input.core).cycle → s.tripped = false → (∀ p ∈ b.cells, p.2.enabled = false) →
    ∃ t x, Machine.exec .stepClockTick s = .next t ∧ (t.core s.input.core).bench.domain d = x ∧
      x.count = (b.domain d).count + 1 ∧ x.stepLeft = m ∧ x.stepDone = (b.domain d).stepDone + 1 ∧
      x.stepDue = (s.core s.input.core).cycle + 4) ∧
  (∀ (s : State) (f : Flight) (w : Word), SinkFirst s f → f.msg.kind = 1 → f.msg.tag = 0xB000 → f.msg.payload = [w] →
    (s.core f.dest).bench.ticked = false →
    ∃ t, Machine.exec .benchDeposit s = .next t ∧
      ((t.core f.dest).bench.cell (w.toNat % 256)).extin.toInt =
        clamp16 (((s.core f.dest).bench.cell (w.toNat % 256)).extin.toInt + w.toInt / 2 ^ 32)) ∧
  (∀ (s : State) (held : Bool) (m : Msg) (rest : List (Bool × Msg)),
    (s.core s.input.core).bench.triggers = (held, m) :: rest → (s.core s.input.core).outbox.length < 16 →
    (m.isHi = true ∨ (s.core s.input.core).tipFull = false) → s.destinationOk m.hdr0 = true →
    ∃ t, Machine.exec .triggerQueueTransfer s = .next t ∧ (t.core s.input.core).bench.triggers = rest ∧
      (t.core s.input.core).outbox = (s.core s.input.core).outbox ++
        [{ msg := m, ctx := 15, node := nodeOf m.hdr0, dests := s.destsOf m.hdr0 }])

/-! ## Links, engines, mailbox, bring-up (R417 to R447), and the supervisor's records (R187 to R195, R223 to R225) -/

namespace Sys2Proof.Claims

/-- A packet has been given to a port: it waits for a flit, or is in one. -/
def Sent (s : State) (port : Nat) (p : Packet) : Prop :=
  ∃ f ∈ (s.port port).out ++ (s.port port).unacked, f.packet = p

/-- R424: port `n` sends flits, and the first of them carries the acknowledgement `ack` and the port's ASEQ: bits 27:26 and
37:28 of the link-layer field, its bytes 236 to 241. -/
def Acknowledges (s t : State) (n ack : Nat) : Prop :=
  ∃ b rest, (t.port n).wire = (s.port n).wire ++ b :: rest ∧
    little ((b.drop 236).take 6) / 2 ^ 26 % 4 = ack ∧
    little ((b.drop 236).take 6) / 2 ^ 28 % 2 ^ 10 = (t.port n).aseq % 2 ^ 10

/-- The response of a kind to a request packet (R425). -/
def responseTo (s : State) (q : Packet) (kind status : Nat) (data : List Byte) : Packet :=
  { kind, txid := q.txid, dst := q.src, src := s.node, len := data.length, word1 := wrap status, data }

end Sys2Proof.Claims

/-- R423, R424, R429, R430, R381: a flit that arrives in order passes its packet up, returns the slots that it names and
is acknowledged in the next flit; a bad one asks for a replay, and returns none. Where no packet waits, an idle or a
link-control flit carries the answer (the model's choice, log 36). A port retrains, resumes, or is declared down; a presence loss takes every port down; a lost node becomes
unreachable. -/
def Obligations.LinkSteps : Prop :=
  (∀ (s : State) (f : Flit), f = s.input.flit → s.input.n < 32 → (s.port s.input.n).up = true →
    (s.port s.input.n).training = false →
    (f.crcOk = true → f.ack = 0 → f.ftype = 1 → f.fseq < 1024 → f.fseq = ((s.port s.input.n).aseq + 1) % 1024 →
      (s.port s.input.n).aseq < 1024 → f.packet.ok = true → (s.port s.input.n).out = [] →
      ∃ t, Machine.exec .flitReceive s = .next t ∧ (t.port s.input.n).aseq = f.fseq ∧
        (t.port s.input.n).inbound = (s.port s.input.n).inbound ++ [f] ∧ Acknowledges s t s.input.n 1 ∧
        Tab.get 0 (t.port s.input.n).credits f.cvc = Tab.get 0 (s.port s.input.n).credits f.cvc + f.cred) ∧
    ((f.crcOk = false ∨ 3 ≤ f.ack ∨ 3 ≤ f.ftype) → (s.port s.input.n).out = [] →
      ∃ t, Machine.exec .flitReceive s = .next t ∧ Acknowledges s t s.input.n 2 ∧
        (t.port s.input.n).inbound = (s.port s.input.n).inbound ∧
        (t.port s.input.n).aseq = (s.port s.input.n).aseq ∧
        (t.port s.input.n).credits = (s.port s.input.n).credits)) ∧
  (∀ s : State, (s.port s.input.n).up = true → (s.port s.input.n).training = false →
    (s.input.flag = true ∨ (s.port s.input.n).wanted = true) →
    ∃ t, Machine.exec .retrain s = .next t ∧ (t.port s.input.n).training = true ∧
      ((s.port s.input.n).spareUsed = true → s.input.flag2 = true → (t.port s.input.n).broken = true)) ∧
  (∀ s : State, (s.port s.input.n).training = true →
    ((s.port s.input.n).broken = false → s.input.m ≤ 21600 →
      ∃ t, Machine.exec .linkResume s = .next t ∧ (t.port s.input.n).training = false) ∧
    ((s.port s.input.n).up = true → ∃ t, Machine.exec .linkDown s = .next t ∧ (t.port s.input.n).up = false)) ∧
  (∀ s : State, ∃ t, Machine.exec .presenceLoss s = .next t ∧ ∀ p, p < 32 → (t.port p).up = false) ∧
  (∀ (s : State) (n : Nat) (rest : List Nat), (s.port s.input.n).lost = n :: rest → n < 64 → n ≠ s.node →
    ∃ t, Machine.exec .lostNodeFlit s = .next t ∧ t.path n = 0 ∧ (t.port s.input.n).lost = rest)

/-- R379, R425 to R428, R269, R316: the requests of other nodes and the answers to this node's. A load of a peer is
answered with the bytes of its places; a store is confirmed, performed and reported; atomics and lock requests go to
their engines; a message of a live launch is counted at its destination's die (the model's choice of the place, log 27),
with the weight of a combining message, and enters the plane. A response ends its request with its status and data; the
confirmation of a store leaves it translated until it is done; data for a context that is being saved go into the spill
ring; a request without response ends with STATUS 5. -/
def Obligations.LinkRequests : Prop :=
  (∀ (s s1 s2 : State) (q : Packet) (pas : List Nat), Gives (takePacket s.input.n 2 0x10) s q s1 →
    Gives (ingressRefs (s.input.n / 8) q.asid q.va q.len .read) s1 (.ok pas) s2 → Gives (awaitStacks pas) s2 () s2 →
    (∀ pa ∈ pas, s2.badByte pa = false) →
    ∃ t, Machine.exec .ldreq s = .next t ∧ Sent t s.input.n (responseTo s q 0x20 0 (pas.map s2.hbmByte))) ∧
  (∀ (s s1 s2 : State) (q : Packet) (pas : List Nat), Gives (takePacket s.input.n 2 0x11) s q s1 → 1 ≤ q.len →
    Gives (ingressRefs (s.input.n / 8) q.asid q.va q.len .write) s1 (.ok pas) s2 → Gives (awaitStacks pas) s2 () s2 →
    pas.Nodup → pas.length = q.data.length → s2.hbm.wf = true → (∀ pa ∈ pas, stackOf pa ∉ s2.failedStacks) →
    ∃ t, Machine.exec .streq s = .next t ∧ Sent t s.input.n (responseTo s q 0x21 0 []) ∧
      Sent t s.input.n (responseTo s q 0x22 0 []) ∧ (∀ b ∈ pas.zip q.data, Memory.read t.hbm b.1 = b.2) ∧
      ∀ a, a ∉ pas → Memory.read t.hbm a = Memory.read s2.hbm a) ∧
  (∀ (s s1 s2 : State) (q : Packet) (pa op : Nat) (rest : List Nat), Gives (takePacket s.input.n 2 0x12) s q s1 →
    op = q.word1.toNat / 2 ^ 56 % 16 →
    Gives (ingressRefs (s.input.n / 8) q.asid q.va (if op = 10 then 4 else 8) .both) s1 (.ok (pa :: rest)) s2 →
    Gives (awaitStacks (pa :: rest)) s2 () s2 →
    ∃ t r, Machine.exec .amoreq s = .next t ∧ (Tab.get {} (t.die (engineOf pa).1).atomics (engineOf pa).2).queue =
        (Tab.get {} (s2.die (engineOf pa).1).atomics (engineOf pa).2).queue ++ [r] ∧
      r.pa = pa ∧ r.op = op ∧ r.node = some q.src ∧ r.txid = q.txid) ∧
  (∀ (s s1 s2 : State) (q : Packet) (pa : Nat) (rest : List Nat), Gives (takePacket s.input.n 2 0x13) s q s1 →
    Gives (ingressRefs (s.input.n / 8) q.asid (q.va / 8 * 8) 8 .both) s1 (.ok (pa :: rest)) s2 →
    Gives (awaitStacks (pa :: rest)) s2 () s2 →
    ∃ t r, Machine.exec .lockreq s = .next t ∧ t.locks = s2.locks ++ [r] ∧ r.pa = pa ∧ r.node = some q.src ∧
      r.release = q.word1.getLsbD 56 ∧ r.shared = q.word1.getLsbD 0) ∧
  (∀ (s s1 : State) (q : Packet) (k lid : Nat),
    Gives (takePacket s.input.n (if s.input.flag then 0 else 1) 1) s q s1 →
    s1.resolve q.message.hdr0 = some k → s1.fenced.getLsbD (k / 1024) = false →
    s1.importLid q.src q.message.lid = some lid → lid < 2 ^ 16 →
    ∃ t f, Machine.exec .msg s = .next t ∧ f.dest = k ∧ f.msg.lid = lid ∧ f.msg.payload = q.message.payload ∧
      f.counted = s1.live lid ∧
      (∀ l, Tab.get 0 (t.die (k / 1024)).derrick.delta l = Tab.get 0 (s1.die (k / 1024)).derrick.delta l +
        if l = lid ∧ lid ≠ 0 ∧ s1.live lid = true then
          (if q.message.kind = 4 then ((q.message.payload.getD 0 0).toNat / 2 ^ 24 % 256 + 1 : Nat) else 1)
        else 0) ∧
      t.hiFlights ++ t.loFlights = s1.hiFlights ++ (if f.msg.inHi then f :: s1.loFlights else s1.loFlights ++ [f])) ∧
  (∀ (i : Instr) (kind : Nat) (s s1 : State) (q : Packet) (r : Request) (data : List Byte),
    ((i = .ldrsp ∧ kind = 0x20 ∧ data = q.data ∧ s1.fetches r = false) ∨
     (i = .matrixFetchReply ∧ kind = 0x20 ∧ data = q.data ∧ ∃ k c id n, r.owner = .matrix k c id ∧ r.query.ask = .load n) ∨
     (i = .amorsp ∧ kind = 0x23 ∧ data = q.data) ∨
     (i = .lockrsp ∧ kind = 0x24 ∧ data = if q.word1.getLsbD 8 then [1] else []) ∨
     (i = .err ∧ kind = 0x2F ∧ data = [])) →
    Gives (takePacket s.input.n 3 kind) s q s1 → Tab.find s1.requests q.txid = some r → Tab.sorted s1.requests = true →
    s1.diverts r = none → r.translated = false → r.expects = true →
    ∃ t, Machine.exec i s = .next t ∧ Tab.find t.requests q.txid = none ∧
      t.answers = s1.answers ++ [(r.owner, r.query, { status := q.word1.toNat % 256, data })]) ∧
  (∀ (s s1 : State) (q : Packet) (r : Request) (k c n : Nat), Gives (takePacket s.input.n 3 0x20) s q s1 →
    Tab.find s1.requests q.txid = some r → Tab.sorted s1.requests = true → r.owner = .ctx k c →
    r.query.ask = .load n → (s1.ctx k c).state = .saving → q.word1.toNat % 256 = 0 →
    ∃ t, Machine.exec .matrixFetchReply s = .next t ∧ Tab.find t.requests q.txid = none ∧
      (t.core k).spill = (s1.core k).spill ++
        [(c, { addr := wrap r.query.va, error := false, data := q.data })]) ∧
  (∀ (s s1 : State) (q : Packet) (r : Request), Gives (takePacket s.input.n 3 0x21) s q s1 →
    Tab.find s1.requests q.txid = some r → q.word1.toNat % 256 = 0 → r.query.ask ≠ .confirm → r.translated = false →
    r.expects = true → r.late = false →
    ∃ t, Machine.exec .stxlt s = .next t ∧ Tab.find t.requests q.txid = some { r with translated := true } ∧
      t.answers = s1.answers ++ [(r.owner, r.query, { status := 0 })]) ∧
  (∀ (s s1 : State) (q : Packet) (r : Request), Gives (takePacket s.input.n 3 0x22) s q s1 →
    Tab.find s1.requests q.txid = some r → Tab.sorted s1.requests = true → q.word1.toNat % 256 = 0 →
    r.translated = true →
    ∃ t, Machine.exec .stdone s = .next t ∧ Tab.find t.requests q.txid = none ∧ t.answers = s1.answers) ∧
  (∀ (s : State) (r : Request), Tab.find s.requests s.input.n = some r → Tab.sorted s.requests = true →
    s.diverts r = none → r.translated = false → r.expects = true →
    ∃ t, Machine.exec .requestTimeout s = .next t ∧ Tab.find t.requests s.input.n = none ∧
      t.answers = s.answers ++ [(r.owner, r.query, { status := 5 })])

/-- R362 to R365, R398, R431, R440 to R442: `uew.build` writes a request image to the tile, and `uew.post` enters it in its
die's queue and gives its number; a RECV of one peer takes the lowest message number that no RECV has (its order beyond
the wrap is the model's choice, log 109). A SEND or WRITE hands its next data to the port; a READ asks its peer; a complete
RECV raises its counter. A data packet at its expected PSN is placed and acknowledged; an acknowledgement that covers
all a request sent completes it; a packet whose timeout runs out is sent again. -/
def Obligations.NetworkEngines : Prop :=
  (∀ (rd ra rb : BitVec 6) (s s1 s2 s3 : State) (v a w0 : Word) (off : Nat), Gives (readS rd) s v s1 →
    Gives (readS ra) s1 a s2 → Gives (readS rb) s2 w0 s3 → a = ownTile off → off % 64 = 0 → InTile off 64 →
    ueWordOk w0 = true → v.toNat < 2 ^ 56 → WriteClear s3 off 64 →
    (selfCore s).tile.wf = true →
    ∃ t, Machine.exec (.uewBuild rd ra rb) s = .next t ∧ t.iss.retired = true ∧
      TileHas s t s.iss.core off (lowBytes 8 w0.toNat ++ lowBytes 8 v.toNat ++ List.replicate 48 0)) ∧
  (∀ (rd ra : BitVec 6) (s s1 s2 : State) (a : Word) (bs : List Byte) (ws : List Word) (d : Nat),
    Gives (readS ra) s a s1 → ueSpot a = true → Gives (readBytes 64 a) s1 bs s2 → ws = wordsOf 8 bs →
    ueImageOk ws = true → d = s.iss.core / 1024 →
    s2.waitOver s.iss.core s.iss.ctx (.engine d (ueOp (ws.getD 0 0) == 3)) = true →
    (∀ e ∈ (selfCore s2).nt, e.holds s.iss.ctx = false) → s2.waitOver s.iss.core s.iss.ctx .written = true →
    rd ≠ 0 → rd ≠ 61 →
    (ueOp (ws.getD 0 0) ≠ 3 → ∃ t q, Machine.exec (.uewPost rd ra) s = .next t ∧ t.iss.retired = true ∧
      (self t).scalar rd.toNat = wrap (s2.die d).engine.sendNum ∧
      (t.die d).engine.sendQ = (s2.die d).engine.sendQ ++ [q] ∧ q.num = (s2.die d).engine.sendNum ∧
      q.w0 = ws.getD 0 0 ∧ q.va = (ws.getD 1 0).toNat ∧ q.asid = (selfCore s).asid.toNat) ∧
    (ueOp (ws.getD 0 0) = 3 → uePeer (ws.getD 0 0) = 0xFFF → ∃ t q, Machine.exec (.uewPost rd ra) s = .next t ∧
      t.iss.retired = true ∧ (self t).scalar rd.toNat = wrap (s2.die d).engine.recvNum ∧
      (t.die d).engine.recvQ = (s2.die d).engine.recvQ ++ [q] ∧ q.num = (s2.die d).engine.recvNum ∧
      q.w0 = ws.getD 0 0) ∧
    (∀ (e : Engine) (m : Nat), ueOp (ws.getD 0 0) = 3 → uePeer (ws.getD 0 0) ≠ 0xFFF → e = (s2.die d).engine →
      e.recvNum < 2 ^ 32 → (∀ r ∈ e.recvQ, r.num ≠ e.recvNum) → m = (e.peer (uePeer (ws.getD 0 0))).freeMsg →
      ∃ t q, Machine.exec (.uewPost rd ra) s = .next t ∧ t.iss.retired = true ∧
        (self t).scalar rd.toNat = wrap e.recvNum ∧ (t.die d).engine.recvQ = e.recvQ ++ [q] ∧ q.num = e.recvNum ∧
        q.w0 = ws.getD 0 0 ∧ q.message = some (uePeer (ws.getD 0 0), m) ∧
        ((e.peer (uePeer (ws.getD 0 0))).assigned = [] →
          ((t.die d).engine.peer (uePeer (ws.getD 0 0))).freeMsg = (m + 1) % 2 ^ 32 ∧
          ((t.die d).engine.peer (uePeer (ws.getD 0 0))).assigned = []))) ∧
  (∀ (i : Instr) (kind : UeKind) (s s1 : State) (e : Engine) (q : UeRequest) (bs : List Byte),
    ((i = .ueSend ∧ ueOp q.w0 = 0 ∧ kind = .send) ∨ (i = .ueWrite ∧ ueOp q.w0 = 1 ∧ kind = .write)) →
    e = (s.die s.input.die).engine → e.sendQ[s.input.n]? = some q → s.ready.getLsbD (44 + s.input.die) = true →
    e.turnOf q = true → e.allows q = true → q.sent < ueLen q.w0 →
    Gives (engineRead s.input.die (.send q.num) q.asid (q.va + q.sent) (min 4096 (ueLen q.w0 - q.sent))) s (some bs) s1 →
    ∃ t p, Machine.exec i s = .next t ∧ (t.die s.input.die).engine.packets = (s1.die s.input.die).engine.packets ++ [p] ∧
      p.kind = kind ∧ p.data = bs ∧ p.total = ueLen q.w0 ∧
      p.offset = (if kind = .write then q.offset else 0) + q.sent ∧
      p.psn = (Tab.get {} (s1.die s.input.die).engine.nums (uePeer q.w0)).txPsn) ∧
  (∀ (s : State) (e : Engine) (q : UeRequest), s.input.flag = false → e = (s.die s.input.die).engine →
    e.sendQ[s.input.n]? = some q → ueOp q.w0 = 2 → s.ready.getLsbD (44 + s.input.die) = true → e.turnOf q = true →
    e.allows q = true → q.sent = 0 →
    ∃ t p, Machine.exec .ueRead s = .next t ∧ (t.die s.input.die).engine.packets = e.packets ++ [p] ∧
      p.kind = .readRequest ∧ p.key = q.key ∧ p.offset = q.offset ∧ p.total = ueLen q.w0) ∧
  (∀ (s : State) (e : Engine) (q : UeRequest) (n : Nat), e = (s.die s.input.die).engine →
    e.recvQ[s.input.n]? = some q → q.total = some n → n ≤ q.placed →
    (Tab.get 0 e.counters (ueCnt q.w0)).toNat % 2 ^ 48 + 1 < 2 ^ 48 →
    ∃ t, Machine.exec .ueRecv s = .next t ∧
      (t.die s.input.die).engine.recvQ = e.recvQ.filter (fun r => r.num != q.num) ∧
      Tab.get 0 (t.die s.input.die).engine.counters (ueCnt q.w0) = Tab.get 0 e.counters (ueCnt q.w0) + 1) ∧
  (∀ (s s1 : State) (e : Engine) (p : UePacket) (q : UeRequest) (peer : Nat), s.input.die < 4 → p = s.input.uePacket →
    e = (s.die s.input.die).engine → p.kind = .send → p.wellFormed = true → e.sender p = some peer →
    p.psn = (e.peer peer).rxPsn → (e.peer peer).rxAbove = [] → e.recvQ = [q] → q.message = some (peer, p.message) →
    p.total ≤ ueLen q.w0 →
    Gives (engineWrite s.input.die (.place peer p.psn) q.asid (q.va + p.offset) p.data)
      (s.modDie s.input.die fun y => { y with engine := e.bump 1 }) true s1 →
    ∃ t a, Machine.exec .ueDataPacket s = .next t ∧
      (t.die s.input.die).engine.recvQ =
        [{ q with placed := q.placed + p.data.length, total := some p.total }] ∧
      (t.die s.input.die).engine.acks = (s1.die s.input.die).engine.acks ++ [a] ∧ a.peer = peer ∧
      a.cumulative = (p.psn + 1) % 2 ^ 32) ∧
  (∀ (s : State) (e : Engine) (f : UeFlight) (q : UeRequest), s.input.die < 4 → e = (s.die s.input.die).engine →
    e.peerValid s.input.ueAck.peer = true → s.input.ueAck.refused = [] → e.flights = [f] →
    f.peer = s.input.ueAck.peer → (f.psn + 1) % 2 ^ 32 = s.input.ueAck.cumulative → f.psn < 2 ^ 32 → e.sendQ = [q] →
    uePeer q.w0 = f.peer → q.psns = [f.psn] → ueOp q.w0 ≠ 2 → ueLen q.w0 ≤ q.sent →
    (Tab.get 0 e.counters (ueCnt q.w0)).toNat % 2 ^ 48 + 1 < 2 ^ 48 →
    ∃ t, Machine.exec .ueAcknowledgement s = .next t ∧ (t.die s.input.die).engine.sendQ = [] ∧
      (t.die s.input.die).engine.flights = [] ∧
      Tab.get 0 (t.die s.input.die).engine.counters (ueCnt q.w0) = Tab.get 0 e.counters (ueCnt q.w0) + 1) ∧
  (∀ (s : State) (e : Engine) (f : UeFlight), e = (s.die s.input.die).engine →
    e.flights.find? (fun f => f.peer == s.input.n && f.psn == s.input.m) = some f → f.tries < 8 →
    ∃ t, Machine.exec .ueRetransmitTimeout s = .next t ∧
      (t.die s.input.die).engine.packets = e.packets ++ [f.packet] ∧
      { f with tries := f.tries + 1, passed := 0 } ∈ (t.die s.input.die).engine.flights)

namespace Sys2Proof.Claims

/-- R419, R422: the head command `ws` of the mailbox can be applied, and has an operation. -/
abbrev CommandReady (s : State) (ws : List Word) (op : Nat) : Prop :=
  s.fenced.getLsbD 0 = false ∧ s.mailbox.commands.head? = some ws ∧ s.mailbox.ringRoom = true ∧ s.mailbox.done = [] ∧
  (ws.getD 0 0).toNat % 256 = op

/-- R420: bits 31:16 of the first word are zero. -/
abbrev CommandClean (ws : List Word) : Prop := (ws.getD 0 0).toNat / 2 ^ 16 % 2 ^ 16 = 0

/-- R420, R422: the completion of a command: it has a record where bit 8 asks for one or the operation always has one, and
a vector where bit 9 asks for one. -/
def completionFor (ws : List Word) (status : Nat) (result : Word) : List Completion :=
  let w := (ws.getD 0 0).toNat
  let record := w.testBit 8 || (3 ≤ w % 256 && w % 256 ≤ 8)
  if record || w.testBit 9 then
    [{ op := w % 256, seq := BitVec.ofNat 32 (w / 2 ^ 32), status := status, result := result,
       vector := if w.testBit 9 then some (w / 2 ^ 10 % 64) else none, record := record }]
  else []

/-- R419, R422: the head command of `s` has been applied with a status and a result. -/
def Applied (s t : State) (ws : List Word) (status : Nat) (result : Word) : Prop :=
  t.mailbox.commands = s.mailbox.commands.drop 1 ∧ t.mailbox.applied = s.mailbox.applied + 1 ∧
  t.mailbox.done = s.mailbox.done ++ completionFor ws status result

/-- R421: the operations of the mailbox. -/
def operationTable : List (Instr × Nat) := [
  (.writei, 1), (.writed, 2), (.read, 3), (.mailboxLaunch, 4), (.mailboxCancel, 5), (.qready, 6), (.qmeas, 7), (.qcnt, 8),
  (.asidset, 9), (.importEntry, 10), (.ueset, 11), (.mailboxNop, 12)]

/-- R421, R422: the command writes `data` to device memory under an ASID: once every page is confirmed the parts are stored,
and with the last the command is done; a page that is not confirmed ends it with status 2. -/
def DeviceWrite (i : Instr) (s : State) (ws : List Word) (asid : Nat) (data : List Byte) : Prop :=
  (∀ (s1 s2 : State) (refs : List ByteRef) (r : Option Nat),
    Gives (spanConfirm (dieMmu 0 asid) .mailbox asid (ws.getD 2 0).toNat data.length) s (.ok refs) s1 →
    Gives (needStacks refs) s1 () s1 → (∀ pa ∈ refPas refs, stackOf pa ∉ s1.failedStacks) →
    Gives (storeAscending .mailbox asid refs data 0 (nodeRuns refs)) s1 r s2 →
    (∀ st, r = some st → ∃ t, Machine.exec i s = .next t ∧ Applied s2 t ws (if st ≠ 0 then 4 else 0) (wrap data.length)) ∧
    (r = none → Machine.exec i s = .next s2)) ∧
  ∀ (s1 : State) (e : Nat × Nat),
    Gives (spanConfirm (dieMmu 0 asid) .mailbox asid (ws.getD 2 0).toNat data.length) s (.error e) s1 →
    ∃ t, Machine.exec i s = .next t ∧ Applied s1 t ws 2 0

/-- A 64-bit word of a record, from its bytes. -/
def recordWord (bs : List Byte) (off : Nat) : Word := wrap (little ((bs.drop off).take 8))

/-- R172, R224, R366, R374, R381, R393, R433: what management may write. -/
def MayManage (s : State) (w : MgmtWrite) : Prop :=
  match w with
  | .nothing => False
  | .region i ws => i < 4096 ∧ ws.length = 4 ∧ regionOk ws = true
  | .publish d n ws => d < 4 ∧ n < 1024 ∧ ws.length = 4 ∧ publishOk ws = true
  | .asid i e => i < 8192 ∧ asidEntryOk e = true
  | .route n e => n < 64 ∧ routeOk e = true
  | .node n => n < 64
  | .jobStart asid => asid < 8192
  | .coreAsid k _ => s.enabled k = true
  | .measured c image => 1 ≤ c ∧ c ≤ 3 ∧ s.log.length < 64 ∧ s.ready.getLsbD 53 = true ∧ image.verified = true
  | .jobSwitch k asid prio => s.enabled k = true ∧ asid < 8192 ∧ prio < 4
  | .stepClock _ => True

/-- What the state `t` holds after that write in `s`. -/
def Managed (s t : State) (w : MgmtWrite) : Prop :=
  match w with
  | .nothing => False
  | .region i ws => Tab.get [] t.master.regions i = ws
  | .publish d n ws => Tab.get [] (t.die d).publish n = ws
  | .asid i e => Tab.get 0 t.asids i = e
  | .route n e => Tab.get 0 t.routes n = e
  | .node n => t.node = n ∧ (Tab.get 0 t.routes n).toNat / 2 ^ 62 = 3
  | .jobStart asid => ∃ i ∈ t.master.items, i.cls = 6 ∧ i.asid = asid ∧ i.done = false
  | .coreAsid k asid => (t.core k).asid = BitVec.ofNat 13 asid
  | .measured c image => t.log = s.log ++ [{ component := c, image := image }]
  | .jobSwitch k asid prio => (t.core k).activations =
      (s.core k).activations ++ [⟨0x13, none, 0, 0, wrap (asid + prio * 2 ^ 16 : Nat)⟩]
  | .stepClock mhz => t.clock = mhz

end Sys2Proof.Claims

/-- R187 to R195, R223 to R225, R180, R181, R184: the supervisor's records and a core's errors. FORCED_SAVE begins a full
save of a context whose pre-emption has been pending for 65536 cycles; SAVE_COMPLETE writes its record, marks the slot
and frees the context, or raises a machine check of source 3; RESTORE_START makes a context of a record READY with the
registers it names, or reports status 3 for a misaligned address; JOBSW_SAVE stops the domains and writes the core
record, or ends with ERR and the core as it was, and JOBSW_RESTORE reads it; a bank is marked failed; a scrubbed stripe keeps only
what cannot be corrected; a soft error of a register is a machine check of source 2; a machine check is forwarded as it is
enqueued; a core reset frees every context and starts a stopped core. The model's choices: a soft error of a context that
is FREE, TRAPPED or SAVING is enqueued at once (log 41); the failure of a second bank has source 1 and address 0 (log 42);
the reserved bits of a restored PREC and PC are dropped, and its LEN is kept whatever it is (log 77). -/
def Obligations.RecordsAndErrors : Prop :=
  (∀ (s : State) (k c n : Nat), k = s.input.core → c = s.input.ctx → c < 15 → (s.core k).preq.getLsbD c = true →
    (s.core k).saveMap ≠ 0xFFFF → ((s.ctx k c).state = .ready ∨ (s.ctx k c).state = .wait) →
    (s.ctx k c).latch = .none → (s.ctx k c).waitOn ≠ some .allResults → (s.ctx k c).checks = [] →
    (s.ctx k c).gang = .alone → (s.core k).stopped = false → s.spillRoom k c = true →
    (∀ a ∈ s.answers, a.1 ≠ .ctx k c) → (s.ctx k c).preqSince = some n → n + 65536 ≤ (s.core k).cycle →
    ∃ t, Machine.exec .forcedSave s = .next t ∧ (t.ctx k c).state = .saving ∧
      (t.ctx k c).save = some { index := none, forced := true } ∧ (t.ctx k c).pc = (s.ctx k c).pc ∧
      (t.ctx k c).s = (s.ctx k c).s) ∧
  (∀ (s s1 : State) (k c n : Nat) (job : SaveJob) (a : Word), k = s.input.core → c = s.input.ctx → c < 15 →
    (s.ctx k c).save = some job → (s.ctx k c).state = .saving → s.saveReady k c = true →
    (∀ x ∈ (s.core k).activations, x.cause ≠ 0x10) → n < 16 → (s.core k).saveMap.getLsbD n = false →
    (∀ j, j < n → (s.core k).saveMap.getLsbD j = true) → a = (s.core k).saveBase + wrap (0x4000 * n : Nat) →
    a.toNat < 2 ^ 56 →
    (∀ (s2 s3 : State) (m : LiveMap), Gives (spanPages (coreMmu k (s.core k).asid.toNat) .write a.toNat 4) s none s1 →
      Gives (liveMap k c job) s1 m s2 →
      Gives (writeSegments (coreMmu k (s.core k).asid.toNat) (.core k) (s.core k).asid.toNat a.toNat
        (s.recordSegments k c m)) s2 none s3 →
      ∃ t, Machine.exec .saveComplete s = .next t ∧ (t.ctx k c).state = .free ∧
        (t.core k).saveMap.getLsbD n = true ∧ (t.core k).preq.getLsbD c = false) ∧
    (∀ bad kind : Nat, Gives (spanPages (coreMmu k (s.core k).asid.toNat) .write a.toNat 4) s (some (bad, kind)) s1 →
      ∃ t, Machine.exec .saveComplete s = .next t ∧ (t.core k).activations = (s1.core k).activations ++
        [⟨0x10, some c, (s.ctx k c).pc, wrap bad, 3⟩] ∧ t.ctx k c = s1.ctx k c ∧
        t.reports = s1.reports ++ [.machineCheck k 0x10 3])) ∧
  (∀ (s : State) (k c n : Nat) (m : LiveMap), m.s.testBit n = true → n < 60 →
    (0xC0 + 8 * n, lowBytes 8 ((s.ctx k c).scalar n).toNat) ∈ s.recordSegments k c m) ∧
  (∀ (s s1 s2 : State) (k c : Nat) (a : Word) (bs : List Byte), k = s.input.core → (s.core k).restoring = some a →
    (a.toNat % 2 ^ 14 = 0 → a.toNat < 2 ^ 56 →
      Gives (spanPages (coreMmu k (s.core k).asid.toNat) .read a.toNat 4) s none s1 →
      Gives (readRecord k a.toNat 0x4000) s1 (some bs) s2 →
      (recordWord bs 0).getLsbD 63 = true → (recordWord bs 0).toNat % 256 = 1 →
      recordWord bs 0x28 = (s2.core k).asid.setWidth 64 → (recordWord bs 0).getLsbD 10 = false →
      (recordWord bs 0).getLsbD 11 = false → (recordWord bs 0x80).getLsbD 63 = false → (s2.core k).spoil = [] →
      c < 12 → (s2.ctx k c).state = .free → (∀ b, b < c → (s2.ctx k b).state ≠ .free) →
      ∃ t, Machine.exec .restoreStart s = .next t ∧ (t.core k).restoring = none ∧ (t.core k).restoreStat = 0 ∧
        (t.core k).restoreCtx.toNat = c ∧ (t.ctx k c).state = .ready ∧ (t.ctx k c).pc = recordWord bs 0x40 &&& ~~~1#64 ∧
        (t.ctx k c).prec = recordWord bs 0x48 &&& 0x1F#64 ∧
        ∀ r, 0 < r → r < 60 → (t.ctx k c).scalar r =
          if (recordWord bs 0x10).getLsbD r then recordWord bs (0xC0 + 8 * r) else 0) ∧
    (a.toNat % 2 ^ 14 ≠ 0 → ∃ t, Machine.exec .restoreStart s = .next t ∧ (t.core k).restoring = none ∧
      (t.core k).restoreStat = 3 ∧ ∀ b, t.ctx k b = s.ctx k b)) ∧
  (∀ (s s1 : State) (k : Nat), k = s.input.core → (s.core k).jobBusy = true → (s.core k).jobsw = 1 →
    ((∀ p ∈ (s.core k).ctxs, p.1 < 15 → p.2.state = .free) → (s.core k).matrix = [] → (s.core k).copies = [] →
      (s.core k).stores = [] →
      ((s.core k).jobSent = false → ((s.core k).saveBase + 0x40000).toNat < 2 ^ 56 →
        ∀ refs, Gives (spanConfirm (coreMmu k (s.core k).asid.toNat) (.core k) (s.core k).asid.toNat
            ((s.core k).saveBase + 0x40000).toNat (s.core k).record.length) s (.ok refs) s1 →
          Gives (needStacks refs) s1 () s1 → nodeRuns refs = [] → (refPas refs).Nodup → s1.hbm.wf = true →
          ∃ t, Machine.exec .jobswSave s = .next t ∧ (t.core k).jobBusy = (s1.core k).jobBusy ∧
            (t.core k).jobSent = true ∧ (∀ d, d < 4 → ((t.core k).bench.domain d).dstate ≠ 1) ∧
            ∀ b ∈ localPairs refs (s.core k).record, Memory.read t.hbm b.1 = b.2) ∧
      ((s.core k).jobSent = false → ((s.core k).saveBase + 0x40000).toNat < 2 ^ 56 →
        ∀ e, Gives (spanConfirm (coreMmu k (s.core k).asid.toNat) (.core k) (s.core k).asid.toNat
            ((s.core k).saveBase + 0x40000).toNat (s.core k).record.length) s (.error e) s1 →
          ∃ t, Machine.exec .jobswSave s = .next t ∧ (t.core k).jobBusy = false ∧ (t.core k).jobErr = true ∧
            (t.core k).bench = (s1.core k).bench) ∧
      ((s.core k).jobSent = true → (∀ r ∈ s.requests, r.2.owner ≠ .core k) →
        ∃ t, Machine.exec .jobswSave s = .next t ∧ (t.core k).jobBusy = false ∧ (t.core k).jobErr = false)) ∧
    ((∃ p ∈ (s.core k).ctxs, p.1 < 15 ∧ p.2.state ≠ .free) →
      ∃ t, Machine.exec .jobswSave s = .next t ∧ (t.core k).jobBusy = false ∧ (t.core k).jobErr = true)) ∧
  (∀ (s s1 : State) (k : Nat) (bs : List Byte) (a b : Plane), k = s.input.core → (s.core k).jobBusy = true →
    (s.core k).jobsw = 2 → ((s.core k).saveBase + 0x40000).toNat < 2 ^ 56 →
    Gives (readRecord k ((s.core k).saveBase + 0x40000).toNat coreRecordBytes) s (some bs) s1 →
    recordWord bs 8 = (s.core k).asid.setWidth 64 → imageFault (wordsOf 1288 (bs.drop 0x40)) = none →
    Plane.ofImage ((bs.drop 0x8000).take 0x440) = some a → Plane.ofImage ((bs.drop 0x8440).take 0x440) = some b →
    ∃ t, Machine.exec .jobswRestore s = .next t ∧ (t.core k).jobBusy = false ∧ (t.core k).jobErr = false ∧
      (t.core k).tags = recordWord bs 0 ∧ (t.core k).active = a ∧ (t.core k).shadow = b) ∧
  (∀ (s : State) (k : Nat), k = s.input.core → s.enabled k = true → s.input.flag = true → s.input.n < 18 →
    ((s.core k).bank.getLsbD 7 = false → ∃ t, Machine.exec .bankFailureMark s = .next t ∧
      (t.core k).bank.toNat = 128 + s.input.n ∧ (t.core k).activations = (s.core k).activations) ∧
    ((s.core k).bank.getLsbD 7 = true → (s.core k).bank.toNat % 32 ≠ s.input.n →
      ∃ t, Machine.exec .bankFailureMark s = .next t ∧ t.reports = s.reports ++ [.machineCheck k 0x10 1, .bankFailure k] ∧
        (t.core k).activations = (s.core k).activations ++ [⟨0x10, none, 0, 0, 1⟩])) ∧
  (∀ (s : State) (k : Nat), k = s.input.core → s.input.n < 8192 → ∃ t, Machine.exec .scrubStripe s = .next t ∧
    (t.core k).tile = (s.core k).tile ∧
    ∀ b, b ∈ (t.core k).bad ↔ b ∈ (s.core k).bad ∧
      ¬(b.stripe = s.input.n ∧ (s.core k).wrongSymbols (128 * s.input.n + b.position) < 2)) ∧
  (∀ (s : State) (k c : Nat), k = s.input.core → c = s.input.ctx → s.enabled k = true → c < 16 →
    ((s.ctx k c).state ≠ .free → (s.ctx k c).state ≠ .trapped → (s.ctx k c).state ≠ .saving →
      ∃ t, Machine.exec .registerSoftError s = .next t ∧
      (t.ctx k c).checks = (s.ctx k c).checks ++ [(2, 0)]) ∧
    ((s.ctx k c).state = .free ∨ (s.ctx k c).state = .trapped ∨ (s.ctx k c).state = .saving →
      ∃ t, Machine.exec .registerSoftError s = .next t ∧
      (t.core k).activations = (s.core k).activations ++ [⟨0x10, some c, 0, 0, 2⟩])) ∧
  (∀ (s : State) (k : Nat), k = s.input.core → s.enabled k = true → ∃ t, Machine.exec .coreReset s = .next t ∧
    (t.core k).stopped = false ∧ (t.core k).activations = [] ∧ (t.core k).tags = 0 ∧
    (∀ c, t.ctx k c = Ctx.reset) ∧ ∀ j, j ≠ k → t.core j = s.core j)

/-- R416 to R422, R428, R431, R433, R447: the mailbox. A write of the command window enters its queue, or sets MALF or OVF;
the host's registers and its MSI-X table are written; the head command is applied and its completion made: WRITEI and
WRITED write device memory, READ reads it to the host, LAUNCH and CANCEL ask the master and give its answer, QREADY and
QMEAS answer, and QCNT does for a counter of an engine (class 1), ASIDSET, IMPORT and UESET write their tables, NOP does
nothing; a command with reserved bits ends malformed. A completion is posted as its record, and its vector is signalled or
stays pending. The model's choices: the layout of BAR2 (log 88); an operation that R421 does not list ends as malformed, in
MAILBOX_NOP (log 38); the bits above 16 of a written CQSIZE are discarded before its value is looked at (log 99). -/
def Obligations.HostCommands : Prop :=
  (∀ s : State, s.fenced.getLsbD 0 = false →
    (s.input.flag = true → s.input.words.length = 8 → s.ready.getLsbD 52 = true → s.mailbox.commands.length < 256 →
      ∃ t, Machine.exec .commandWindowWrite s = .next t ∧
        t.mailbox.commands = s.mailbox.commands ++ [s.input.words]) ∧
    (s.input.flag = true → s.input.words.length = 8 →
      (s.ready.getLsbD 52 = false ∨ s.mailbox.commands.length = 256) →
      ∃ t, Machine.exec .commandWindowWrite s = .next t ∧ t.mailbox.ovf = true ∧
        t.mailbox.commands = s.mailbox.commands) ∧
    (s.input.flag = false → ∃ t, Machine.exec .commandWindowWrite s = .next t ∧ t.mailbox.malf = true ∧
      t.mailbox.commands = s.mailbox.commands) ∧
    (s.input.flag = false → s.input.n = 0x1008 → ∃ t, Machine.exec .hostRegisterWrite s = .next t ∧
      t.mailbox.malf = (s.mailbox.malf && !s.input.word.getLsbD 1) ∧
      t.mailbox.ovf = (s.mailbox.ovf && !s.input.word.getLsbD 0)) ∧
    (s.input.flag = false → s.input.n = 0x1010 → s.mailbox.commands = [] → ∃ t, Machine.exec .hostRegisterWrite s = .next t ∧
      t.mailbox.cqBase.toNat = s.input.word.toNat / 4096 * 4096 ∧ t.mailbox.records = 0) ∧
    (s.input.flag = false → s.input.n = 0x1018 → s.mailbox.commands = [] → ∃ t, Machine.exec .hostRegisterWrite s = .next t ∧
      (∀ i, 6 ≤ i → i ≤ 16 → s.input.word.toNat % 2 ^ 17 = 2 ^ i → t.mailbox.cqSize = 2 ^ i) ∧
      ((∀ i, 6 ≤ i → i ≤ 16 → s.input.word.toNat % 2 ^ 17 ≠ 2 ^ i) → t.mailbox.cqSize = 64)) ∧
    (s.input.flag = false → (s.input.n = 0x1010 ∨ s.input.n = 0x1018) → s.mailbox.commands ≠ [] →
      ∃ t, Machine.exec .hostRegisterWrite s = .next t ∧ t.mailbox.malf = true ∧
        t.mailbox.cqBase = s.mailbox.cqBase ∧ t.mailbox.cqSize = s.mailbox.cqSize) ∧
    (s.input.flag = false → s.input.n = 0x1020 → ∃ t, Machine.exec .hostRegisterWrite s = .next t ∧
      t.mailbox.cqHead = s.input.word.setWidth 32) ∧
    (∀ v e, s.input.flag = true → v < 64 → e = Tab.get {} s.mailbox.vectors v →
      (s.input.n = 16 * v → ∃ t, Machine.exec .hostRegisterWrite s = .next t ∧
        Tab.get {} t.mailbox.vectors v = { e with address := s.input.word }) ∧
      (s.input.n = 16 * v + 8 → ∃ t, Machine.exec .hostRegisterWrite s = .next t ∧
        Tab.get {} t.mailbox.vectors v =
          { e with data := s.input.word.setWidth 32, masked := s.input.word.getLsbD 32 } ∧
        (s.mailbox.pending.getLsbD v = true → s.input.word.getLsbD 32 = false →
          t.mailbox.pending.getLsbD v = false ∧
          t.mailbox.posts = s.mailbox.posts ++ [.msix v e.address (s.input.word.setWidth 32)])))) ∧
  (∀ p ∈ operationTable, ∀ (s : State) (ws : List Word), CommandReady s ws p.2 → ¬CommandClean ws →
    ∃ t, Machine.exec p.1 s = .next t ∧ Applied s t ws 1 0) ∧
  (∀ (s : State) (ws : List Word) (op : Nat), CommandReady s ws op → (op = 0 ∨ 12 < op) →
    ∃ t, Machine.exec .mailboxNop s = .next t ∧ Applied s t ws 1 0) ∧
  (∀ (s : State) (ws : List Word) (n asid : Nat) (data : List Byte), CommandReady s ws 1 → CommandClean ws →
    asid < 2 ^ 13 → (ws.getD 1 0).toNat = n * 2 ^ 16 + asid → 1 ≤ n → n ≤ 40 → (ws.getD 2 0).toNat < 15 * 2 ^ 60 →
    data = (ws.drop 3).flatMap (fun w => lowBytes 8 w.toNat) → (∀ b ∈ data.drop n, b = 0) →
    DeviceWrite .writei s ws asid (data.take n)) ∧
  (∀ (s : State) (ws : List Word), CommandReady s ws 2 → CommandClean ws → (ws.getD 1 0).toNat < 2 ^ 13 →
    (ws.getD 2 0).toNat < 15 * 2 ^ 60 → 1 ≤ (ws.getD 4 0).toNat → (ws.getD 4 0).toNat ≤ 2 ^ 31 →
    (∀ w ∈ ws.drop 5, w = 0) →
    (s.input.flag = true → s.input.bytes.length = (ws.getD 4 0).toNat →
      DeviceWrite .writed s ws (ws.getD 1 0).toNat s.input.bytes) ∧
    (s.input.flag = false → ∃ t, Machine.exec .writed s = .next t ∧ Applied s t ws 3 0)) ∧
  (∀ (s s1 : State) (ws : List Word), CommandReady s ws 3 → CommandClean ws →
    (ws.getD 1 0).toNat < 2 ^ 13 → (ws.getD 2 0).toNat < 15 * 2 ^ 60 → 1 ≤ (ws.getD 4 0).toNat →
    (ws.getD 4 0).toNat ≤ 2 ^ 31 → (∀ w ∈ ws.drop 5, w = 0) →
    (∀ (bs : List Byte) (bad : Bool),
      Gives (spanRead (dieMmu 0 (ws.getD 1 0).toNat) .mailbox (ws.getD 1 0).toNat s.hbmByte (ws.getD 4 0).toNat
        (ws.getD 2 0).toNat) s (.ok (bs, bad)) s1 →
      ∃ t, Machine.exec .read s = .next t ∧ Applied s1 t ws (if bad then 4 else 0) (ws.getD 4 0) ∧
        t.mailbox.posts = s1.mailbox.posts ++ [.write (ws.getD 3 0).toNat bs]) ∧
    (∀ e, Gives (spanRead (dieMmu 0 (ws.getD 1 0).toNat) .mailbox (ws.getD 1 0).toNat s.hbmByte (ws.getD 4 0).toNat
        (ws.getD 2 0).toNat) s (.error e) s1 →
      ∃ t, Machine.exec .read s = .next t ∧ Applied s1 t ws 2 0 ∧ t.mailbox.posts = s1.mailbox.posts)) ∧
  (∀ (s s1 : State) (ws : List Word) (d : List Byte), CommandReady s ws 4 → CommandClean ws →
    (ws.getD 1 0).toNat < 2 ^ 13 → (ws.getD 2 0).toNat < 15 * 2 ^ 60 → (ws.getD 2 0).toNat % 64 = 0 → ws.getD 3 0 = 0 →
    (∀ w ∈ ws.drop 4, w = 0) →
    (∀ w, s.mailbox.latch = .answered w → ∃ t, Machine.exec .mailboxLaunch s = .next t ∧ Applied s t ws 0 w) ∧
    (s.mailbox.latch = .none → s.mailbox.taken = false → s.ready.getLsbD (48 + s.master.die) = true →
      Gives (mailboxRead (ws.getD 1 0).toNat (ws.getD 2 0).toNat 128) s (.ok d) s1 →
      ∃ t q, Machine.exec .mailboxLaunch s = .next t ∧ t.mailbox.taken = true ∧
        t.master.requests = s1.master.requests ++ [q] ∧ q.mailbox = true ∧ q.cancel = none ∧
        q.asid = (ws.getD 1 0).toNat ∧ q.desc = wordsOf 16 d)) ∧
  (∀ (s : State) (ws : List Word), CommandReady s ws 5 → CommandClean ws → (ws.getD 1 0).toNat < 2 ^ 13 →
    nameOk (ws.getD 2 0) true = true → 2 ≤ (ws.getD 2 0).toNat / 2 ^ 60 → (∀ w ∈ ws.drop 3, w = 0) →
    (∀ w, s.mailbox.latch = .answered w → ∃ t, Machine.exec .mailboxCancel s = .next t ∧ Applied s t ws 0 w) ∧
    (s.mailbox.latch = .none → s.mailbox.taken = false → s.ready.getLsbD (48 + s.master.die) = true →
      ∃ t q, Machine.exec .mailboxCancel s = .next t ∧ t.mailbox.taken = true ∧
        t.master.requests = s.master.requests ++ [q] ∧ q.mailbox = true ∧ q.cancel = some (ws.getD 2 0) ∧
        q.asid = (ws.getD 1 0).toNat)) ∧
  (∀ (s : State) (ws : List Word), CommandReady s ws 6 → CommandClean ws → (∀ w ∈ ws.drop 1, w = 0) →
    ∃ t, Machine.exec .qready s = .next t ∧ Applied s t ws 0 (s.ready.setWidth 64)) ∧
  (∀ (s : State) (ws : List Word), CommandReady s ws 7 → CommandClean ws → (ws.getD 1 0).toNat < 64 →
    (∀ w ∈ ws.drop 7, w = 0) →
    (s.log[(ws.getD 1 0).toNat]? = none → ∃ t, Machine.exec .qmeas s = .next t ∧ Applied s t ws 0 1) ∧
    (∀ m, s.log[(ws.getD 1 0).toNat]? = some m → s.ready.getLsbD 53 = true →
      ∃ t data, Machine.exec .qmeas s = .next t ∧ Applied s t ws 0 0 ∧
        t.mailbox.posts = s.mailbox.posts ++ [.write (ws.getD 6 0).toNat data] ∧ data.length = 192 ∧
        data.take 2 = lowBytes 2 m.component ∧ (data.drop 8).take 64 = lowBytes 64 m.image.digest.toNat)) ∧
  (∀ (s : State) (ws : List Word) (d i : Nat), CommandReady s ws 8 → CommandClean ws → (ws.getD 1 0).toNat < 2 ^ 13 →
    (∀ w ∈ ws.drop 3, w = 0) → d < 4 → i < 256 → (ws.getD 2 0).toNat = 2 ^ 60 + d * 2 ^ 8 + i →
    s.ready.getLsbD (44 + d) = true →
    ∃ t, Machine.exec .qcnt s = .next t ∧ Applied s t ws 0 (Tab.get 0 (s.die d).engine.counters i)) ∧
  (∀ (s : State) (ws : List Word), CommandReady s ws 9 → CommandClean ws → (ws.getD 1 0).toNat < 2 ^ 13 →
    (ws.getD 2 0).toNat % 2 ^ 12 = 0 → (ws.getD 2 0).getLsbD 39 = false → (ws.getD 2 0).toNat / 2 ^ 42 % 2 ^ 21 = 0 →
    (∀ w ∈ ws.drop 3, w = 0) → (∀ d, d < 4 → s.fenced.getLsbD d = false → s.ready.getLsbD d = true) →
    ∃ t, Machine.exec .asidset s = .next t ∧ Applied s t ws 0 0 ∧
      Tab.get 0 t.asids (ws.getD 1 0).toNat = ws.getD 2 0) ∧
  (∀ (s : State) (ws : List Word), CommandReady s ws 10 → CommandClean ws → (ws.getD 1 0).toNat < 2 ^ 8 →
    (ws.getD 2 0).toNat / 2 ^ 22 % 2 ^ 10 = 0 → (ws.getD 2 0).toNat / 2 ^ 48 % 2 ^ 15 = 0 → (∀ w ∈ ws.drop 3, w = 0) →
    (∀ d, d < 4 → s.fenced.getLsbD d = false → s.ready.getLsbD d = true) →
    ∃ t, Machine.exec .importEntry s = .next t ∧ Applied s t ws 0 0 ∧
      Tab.get 0 t.imports (ws.getD 1 0).toNat = ws.getD 2 0) ∧
  (∀ (s : State) (ws : List Word) (d : Nat), CommandReady s ws 11 → CommandClean ws → d < 4 →
    s.ready.getLsbD d = true → (ws.getD 2 0).toNat < 2 ^ 12 →
    ((ws.getD 1 0).toNat = d * 2 ^ 8 → (ws.getD 3 0).toNat < 2 ^ 48 → (ws.getD 6 0).toNat < 2 ^ 18 →
      (ws.getD 7 0).toNat % 2 ^ 63 = 0 → ∃ t, Machine.exec .ueset s = .next t ∧ Applied s t ws 0 0 ∧
      Tab.get [] (t.die d).engine.peers (ws.getD 2 0).toNat = ws) ∧
    ((ws.getD 1 0).toNat = d * 2 ^ 8 + 2 ^ 12 → (ws.getD 3 0).toNat / 2 ^ 13 % 8 = 0 →
      (ws.getD 3 0).toNat / 2 ^ 18 % 2 ^ 45 = 0 → (∀ w ∈ ws.drop 6, w = 0) →
      ∃ t, Machine.exec .ueset s = .next t ∧ Applied s t ws 0 0 ∧
      Tab.get [] (t.die d).engine.keys (ws.getD 2 0).toNat = ws)) ∧
  (∀ (s : State) (ws : List Word), CommandReady s ws 12 → CommandClean ws → (∀ w ∈ ws.drop 1, w = 0) →
    ∃ t, Machine.exec .mailboxNop s = .next t ∧ Applied s t ws 0 0) ∧
  (∀ (s : State) (c : Completion) (rest : List Completion) (n : Nat), s.fenced.getLsbD 0 = false →
    s.mailbox.done = c :: rest → s.requests = [] → s.mailbox.ringRoom = true → n = s.mailbox.records →
    ∃ t, Machine.exec .completionRecord s = .next t ∧ t.mailbox.done = rest ∧
      (c.record = true → t.mailbox.records = n + 1) ∧ t.mailbox.posts = s.mailbox.posts ++
        (if c.record then [HostPost.write (s.mailbox.cqBase.toNat + 32 * (n % s.mailbox.cqSize))
          (lowBytes 8 ((if n / s.mailbox.cqSize % 2 = 0 then 2 ^ 63 else 0) + c.status * 256 + c.op) ++
           lowBytes 8 c.seq.toNat ++ lowBytes 8 c.result.toNat ++ List.replicate 8 0)] else []) ++
        (match c.vector with
          | none => []
          | some v => if (Tab.get {} s.mailbox.vectors v).masked then [] else
              [.msix v (Tab.get {} s.mailbox.vectors v).address (Tab.get {} s.mailbox.vectors v).data]) ∧
      ∀ v, c.vector = some v → v < 64 →
        t.mailbox.pending.getLsbD v = (Tab.get {} s.mailbox.vectors v).masked)

/-- R115, R366, R380, R384, R393, R432 to R434: bring-up and management. A power-on measures the management firmware and
starts it, or reports it; a device reset leaves HBM and the log, with every context FREE; a function becomes ready once
the firmware it needs is measured, a die with its core map, and a stack that fails never; management writes the tables;
the clock steps down and trips; SPDM requests are answered. The model's choices: which bytes the answers hold is free
(log 11); a power-on clears HBM, whose bytes then read 0, and the log, and a device reset leaves HBM, the log and the fuses
(log 39, log 2); which measured component a function's readiness needs (log 71). -/
def Obligations.BringUp : Prop :=
  (∀ s : State,
    (s.input.firmware.verified = true → ∃ t, Machine.exec .powerOn s = .next t ∧
      t.log = [{ component := 0, image := s.input.firmware }] ∧ (∀ i, i < 54 → t.ready.getLsbD i = decide (i = 53)) ∧
      t.hbm = [] ∧ ∀ k c, (t.ctx k c).state = .free) ∧
    (s.input.firmware.verified = false → ∃ t, Machine.exec .powerOn s = .next t ∧ t.ready = 0 ∧ t.log = [] ∧
      t.reports = [.firmwareFailed])) ∧
  (∀ s : State, ∃ t, Machine.exec .deviceReset s = .next t ∧ t.ready = 0 ∧ t.hbm = s.hbm ∧ t.log = s.log ∧
    t.fused = s.fused ∧ ∀ k c, t.ctx k c = State.reset.ctx k c) ∧
  (∀ (s : State) (n : Nat), n = s.input.n → n < 54 → s.ready.getLsbD n = false → s.failedStacks = [] →
    (n < 12 ∨ (12 ≤ n ∧ n < 44 ∧ ∃ m ∈ s.log, m.component = 3) ∨ (44 ≤ n ∧ n < 48 ∧ ∃ m ∈ s.log, m.component = 2) ∨
      (48 ≤ n ∧ n < 52 ∧ ∃ m ∈ s.log, m.component = 1) ∨
      (n = 52 ∧ s.ready.getLsbD 0 = true ∧ s.ready.getLsbD 48 = true ∧ s.ready.getLsbD 53 = true) ∨
      (n = 53 ∧ ∃ m ∈ s.log, m.component = 0)) →
    (s.input.flag = decide (44 ≤ n ∧ n < 48) → ∃ t, Machine.exec .functionReady s = .next t ∧
      t.ready.getLsbD n = true ∧
      (∀ m, m ≠ n → t.ready.getLsbD m = s.ready.getLsbD m) ∧
      (n < 4 → (t.die n).coreMap = ((List.range 1024).filter fun i => s.enabled (1024 * n + i)).map some)) ∧
    (s.input.flag = true → 4 ≤ n → n < 12 → ∃ t, Machine.exec .functionReady s = .next t ∧
      t.ready = s.ready ∧ t.failedStacks = [n - 4])) ∧
  (∀ s : State, MayManage s s.input.mgmt → ∃ t, Machine.exec .managementTableWrite s = .next t ∧
    Managed s t s.input.mgmt) ∧
  (∀ s : State, ∃ t, Machine.exec .thermalStepDown s = .next t ∧ t.clock = s.clock - 100) ∧
  (∀ s : State, ∃ t, Machine.exec .thermalTrip s = .next t ∧ t.tripped = true ∧
    t.reports = s.reports ++ [.thermalTrip]) ∧
  (∀ s : State, s.ready.getLsbD 53 = true →
    (∃ t, Machine.exec .getVersion s = .next t ∧ t.reports = s.reports ++ [.spdm [0x12, 0x13]]) ∧
    (∃ t data, Machine.exec .getCapabilities s = .next t ∧ t.reports = s.reports ++ [.spdm data] ∧ data.length = 4) ∧
    (∃ t data, Machine.exec .negotiateAlgorithms s = .next t ∧ t.reports = s.reports ++ [.spdm data] ∧
      t.spdmReady = (s.input.flag && s.input.flag2)) ∧
    (s.spdmReady = true →
      (∃ t, Machine.exec .getDigests s = .next t ∧
        t.reports = s.reports ++ [.spdm (lowBytes 64 (Config.sha512 (Config.certificates ())).toNat)]) ∧
      (∃ t, Machine.exec .getCertificate s = .next t ∧ t.reports = s.reports ++ [.spdm (Config.certificates ())]) ∧
      (∃ t, Machine.exec .challenge s = .next t ∧ t.reports = s.reports ++
        [.spdm (lowBytes 64 (Config.signature (lowBytes 32 s.input.nonce.toNat ++
          lowBytes 64 (Config.sha512 (Config.certificates ())).toNat)).toNat)]) ∧
      ∀ m, s.log[s.input.n]? = some m → ∃ t data, Machine.exec .getMeasurements s = .next t ∧
        t.reports = s.reports ++ [.spdm data] ∧ data.length = 192 ∧ data.take 2 = lowBytes 2 m.component))
end

