-- ==== Sys2Proof/Laws/Tab.lean ====
section
/-! SUPPORT. What tables do: a key reads back what was put there, other keys are untouched, and the rising order of
keys is kept. -/

namespace Sys2Proof.Machine

variable {α : Type}

theorem Tab.get_below (d : α) (m : Tab α) (b k : Nat) (h : Tab.above b m = true) (hk : k ≤ b) : Tab.get d m k = d := by
  cases m with
  | nil => rfl
  | cons p m =>
    simp only [Tab.above, Bool.and_eq_true, decide_eq_true_eq] at h
    simp only [Tab.get]
    rw [if_pos (by omega)]

@[simp] theorem Tab.get_put_same (d : α) (m : Tab α) (k : Nat) (v : α) : Tab.get d (Tab.put m k v) k = v := by
  induction m with
  | nil => simp [Tab.put, Tab.get]
  | cons p m ih =>
    simp only [Tab.put]
    split
    · simp [Tab.get]
    · split
      · simp [Tab.get]
      · simp only [Tab.get]
        rw [if_neg (by assumption), if_neg (by assumption)]
        exact ih

theorem Tab.get_put_other (d : α) (m : Tab α) (k j : Nat) (v : α) (h : j ≠ k) :
    Tab.get d (Tab.put m k v) j = Tab.get d m j := by
  induction m with
  | nil => simp only [Tab.put, Tab.get]; split <;> simp
  | cons p m ih =>
    simp only [Tab.put]
    split
    · rename_i hk
      simp only [Tab.get, if_neg h]
      split
      · rw [if_pos (by omega)]
      · rfl
    · split
      · rename_i hk
        subst hk
        simp only [Tab.get]
        rw [if_neg h, if_neg h]
      · simp only [Tab.get, ih]

theorem Tab.get_put (d : α) (m : Tab α) (k j : Nat) (v : α) :
    Tab.get d (Tab.put m k v) j = if j = k then v else Tab.get d m j := by
  by_cases h : j = k
  · subst h; simp
  · simp [h, Tab.get_put_other]

theorem Tab.above_mono (a b : Nat) (m : Tab α) (h : Tab.above b m = true) (hab : a ≤ b) : Tab.above a m = true := by
  cases m with
  | nil => rfl
  | cons p m =>
    simp only [Tab.above, Bool.and_eq_true, decide_eq_true_eq] at h ⊢
    exact ⟨by omega, h.2⟩

theorem Tab.above_put (b : Nat) (m : Tab α) (k : Nat) (v : α) (h : Tab.above b m = true) (hk : b < k) :
    Tab.above b (Tab.put m k v) = true := by
  induction m generalizing b with
  | nil => simp [Tab.put, Tab.above, hk]
  | cons p m ih =>
    simp only [Tab.above, Bool.and_eq_true, decide_eq_true_eq] at h
    simp only [Tab.put]
    split
    · simp only [Tab.above, Bool.and_eq_true, decide_eq_true_eq]; exact ⟨hk, by assumption, h.2⟩
    · split
      · simp only [Tab.above, Bool.and_eq_true, decide_eq_true_eq]
        exact ⟨hk, by rename_i e; subst e; exact h.2⟩
      · simp only [Tab.above, Bool.and_eq_true, decide_eq_true_eq]
        exact ⟨h.1, ih _ h.2 (by omega)⟩

theorem Tab.sorted_put (m : Tab α) (k : Nat) (v : α) (h : Tab.sorted m = true) : Tab.sorted (Tab.put m k v) = true := by
  cases m with
  | nil => rfl
  | cons p m =>
    simp only [Tab.sorted] at h
    simp only [Tab.put]
    split
    · simp only [Tab.sorted, Tab.above, Bool.and_eq_true, decide_eq_true_eq]; exact ⟨by assumption, h⟩
    · split
      · rename_i e; subst e; exact h
      · exact Tab.above_put _ _ _ _ h (by omega)

theorem Tab.above_del (b : Nat) (m : Tab α) (k : Nat) (h : Tab.above b m = true) : Tab.above b (Tab.del m k) = true := by
  induction m generalizing b with
  | nil => rfl
  | cons p m ih =>
    have h' := h
    simp only [Tab.above, Bool.and_eq_true, decide_eq_true_eq] at h
    simp only [Tab.del]
    split
    · exact h'
    · split
      · exact Tab.above_mono _ _ _ h.2 (by omega)
      · simp only [Tab.above, Bool.and_eq_true, decide_eq_true_eq]
        exact ⟨h.1, ih _ h.2⟩

theorem Tab.sorted_del (m : Tab α) (k : Nat) (h : Tab.sorted m = true) : Tab.sorted (Tab.del m k) = true := by
  cases m with
  | nil => rfl
  | cons p m =>
    have h' := h
    simp only [Tab.sorted] at h
    simp only [Tab.del]
    split
    · exact h'
    · split
      · cases m with
        | nil => rfl
        | cons q m =>
          simp only [Tab.above, Bool.and_eq_true] at h
          exact h.2
      · exact Tab.above_del _ _ _ h

theorem Tab.get_del (d : α) (m : Tab α) (k j : Nat) (h : Tab.sorted m = true) :
    Tab.get d (Tab.del m k) j = if j = k then d else Tab.get d m j := by
  induction m with
  | nil => simp [Tab.del, Tab.get]
  | cons p m ih =>
    simp only [Tab.sorted] at h
    simp only [Tab.del]
    have hs : Tab.sorted m = true := by
      cases m with
      | nil => rfl
      | cons q m => simp only [Tab.above, Bool.and_eq_true] at h; exact h.2
    split
    · rename_i hk
      split
      · rename_i e
        subst e
        simp [Tab.get, hk]
      · rfl
    · split
      · rename_i e
        subst e
        split
        · rename_i e
          subst e
          exact Tab.get_below d m _ _ h (by omega)
        · rename_i hne
          simp only [Tab.get, if_neg hne]
          split
          · exact Tab.get_below d m _ _ h (by omega)
          · rfl
      · rename_i hk1 hk2
        simp only [Tab.get]
        rw [ih hs]
        split_ifs <;> first | rfl | omega

theorem Tab.mem_put (m : Tab α) (k : Nat) (v : α) (q : Nat × α) (h : q ∈ Tab.put m k v) : q = (k, v) ∨ q ∈ m := by
  induction m with
  | nil => simpa [Tab.put] using h
  | cons p m ih =>
    simp only [Tab.put] at h
    split at h
    · simpa using h
    · split at h
      · rcases List.mem_cons.1 h with h | h
        · exact .inl h
        · exact .inr (List.mem_cons_of_mem _ h)
      · rcases List.mem_cons.1 h with h | h
        · exact .inr (h ▸ List.mem_cons_self ..)
        · rcases ih h with h | h
          · exact .inl h
          · exact .inr (List.mem_cons_of_mem _ h)

theorem Tab.mem_del (m : Tab α) (k : Nat) (q : Nat × α) (h : q ∈ Tab.del m k) : q ∈ m := by
  induction m with
  | nil => exact h
  | cons p m ih =>
    simp only [Tab.del] at h
    split at h
    · exact h
    · split at h
      · exact List.mem_cons_of_mem _ h
      · rcases List.mem_cons.1 h with h | h
        · exact h ▸ List.mem_cons_self ..
        · exact List.mem_cons_of_mem _ (ih h)

theorem Tab.get_mem (d : α) (m : Tab α) (k : Nat) : Tab.get d m k = d ∨ (k, Tab.get d m k) ∈ m := by
  induction m with
  | nil => exact .inl rfl
  | cons p m ih =>
    simp only [Tab.get]
    split
    · exact .inl rfl
    · split
      · rename_i e; subst e; exact .inr (List.mem_cons_self ..)
      · rcases ih with h | h
        · exact .inl h
        · exact .inr (List.mem_cons_of_mem _ h)

end Sys2Proof.Machine
end

