-- ==== Sys2Proof/Laws/Memory.lean ====
section
/-! SUPPORT. Byte memory: a byte read after a write, and the canonical form that every operation on memory keeps. -/

namespace Sys2Proof.Machine

/-! ## The canonical form -/

theorem Memory.wf_iff (m : Memory) : m.wf = true ↔ Tab.sorted m = true ∧ ∀ c ∈ m, c.2 ≠ 0#8 := by
  simp [Memory.wf]

theorem Memory.wf_nil : Memory.wf [] = true := rfl

theorem Memory.wf_write (m : Memory) (a : Nat) (b : Byte) (h : m.wf = true) : (m.write a b).wf = true := by
  rw [Memory.wf_iff] at h ⊢
  simp only [Memory.write]
  split
  · exact ⟨Tab.sorted_del _ _ h.1, fun c hc => h.2 c (Tab.mem_del _ _ _ hc)⟩
  · refine ⟨Tab.sorted_put _ _ _ h.1, fun c hc => ?_⟩
    rcases Tab.mem_put _ _ _ _ hc with e | hm
    · subst e; assumption
    · exact h.2 c hm

/-! ## A byte read after a write -/

theorem Memory.read_write (m : Memory) (a c : Nat) (b : Byte) (h : m.wf = true) :
    (m.write a b).read c = if c = a then b else m.read c := by
  rw [Memory.wf_iff] at h
  simp only [Memory.write, Memory.read]
  split
  · rename_i e
    subst e
    exact Tab.get_del _ _ _ _ h.1
  · exact Tab.get_put _ _ _ _ _

theorem Memory.read_write_same (m : Memory) (a : Nat) (b : Byte) (h : m.wf = true) : (m.write a b).read a = b := by
  rw [Memory.read_write m a a b h, if_pos rfl]

theorem Memory.read_write_other (m : Memory) (a c : Nat) (b : Byte) (h : m.wf = true) (hc : c ≠ a) :
    (m.write a b).read c = m.read c := by
  rw [Memory.read_write m a c b h, if_neg hc]

/-! ## Tiles -/

theorem Core.wf_writeTile (x : Core) (off : Nat) (b : Byte) (h : x.tile.wf = true) :
    (x.writeTile off b).tile.wf = true := by
  simp only [Core.writeTile]
  split
  · exact h
  · exact Memory.wf_write _ _ _ h

theorem Core.wf_writeTileBytes (x : Core) (off : Nat) (bs : List Byte) (h : x.tile.wf = true) :
    (x.writeTileBytes off bs).tile.wf = true := by
  induction bs generalizing x off with
  | nil => exact h
  | cons b bs ih =>
    simp only [Core.writeTileBytes]
    apply ih
    split
    · exact Core.wf_writeTile _ _ _ h
    · exact h

theorem Core.read_writeTile (x : Core) (off a : Nat) (b : Byte) (h : x.tile.wf = true) (hi : identityAt off = false) :
    (x.writeTile off b).tile.read a = if a = off then b else x.tile.read a := by
  simp only [Core.writeTile, hi]
  exact Memory.read_write _ _ _ _ h

theorem Core.writeTile_identity (x : Core) (off : Nat) (b : Byte) (hi : identityAt off = true) :
    x.writeTile off b = x := by
  simp [Core.writeTile, hi]

/-! ## HBM -/

theorem State.hbm_modDie (s : State) (d : Nat) (f : Die → Die) : (s.modDie d f).hbm = s.hbm := rfl

theorem State.hbm_clearPoison (s : State) (bs : List (Nat × Byte)) : (s.clearPoison bs).hbm = s.hbm := by
  unfold State.clearPoison
  split <;> rfl

theorem State.hbm_touch (s : State) (pa : Nat) (allocate : Bool) : (s.touch pa allocate).hbm = s.hbm := by
  unfold State.touch
  split_ifs <;> rfl

theorem State.hbm_coolLine (s : State) (pa : Nat) : (s.coolLine pa).hbm = s.hbm := by
  have both : ∀ (b : Bool) (t u : State), t.hbm = s.hbm → u.hbm = s.hbm → (if b then t else u).hbm = s.hbm := by
    intro b t u ht hu
    cases b
    · exact hu
    · exact ht
  exact both _ _ _ rfl rfl

theorem State.wf_writeHbm (s : State) (bs : List (Nat × Byte)) (allocate : Bool) (h : s.hbm.wf = true) :
    (s.writeHbm bs allocate).hbm.wf = true := by
  have step : ∀ (l : List (Nat × Byte)) (t : State), t.hbm.wf = true →
      (l.foldl (fun s b =>
        let s := (s.touch b.1 allocate).coolLine b.1
        if s.failedStacks.contains (stackOf b.1) then s else { s with hbm := s.hbm.write b.1 b.2 }) t).hbm.wf = true := by
    intro l
    induction l with
    | nil => intro t ht; exact ht
    | cons b l ih =>
      intro t ht
      simp only [List.foldl_cons]
      apply ih
      split
      · rw [State.hbm_coolLine, State.hbm_touch]; exact ht
      · exact Memory.wf_write _ _ _ (by rw [State.hbm_coolLine, State.hbm_touch]; exact ht)
  simp only [State.writeHbm]
  exact step _ _ (by rw [State.hbm_clearPoison]; exact h)

end Sys2Proof.Machine
end

