-- ==== Sys2Proof/Laws/State.lean ====
section
/-! SUPPORT. What each update of the state leaves and sets, one lemma a field: each is true by unfolding the update, so
that no later proof has to. -/

namespace Sys2Proof.Machine

/-! ## A core replaced -/

@[simp] theorem State.setCore_dies (s : State) (k : Nat) (x : Core) : (s.setCore k x).dies = s.dies := rfl
@[simp] theorem State.setCore_hbm (s : State) (k : Nat) (x : Core) : (s.setCore k x).hbm = s.hbm := rfl
@[simp] theorem State.setCore_poison (s : State) (k : Nat) (x : Core) : (s.setCore k x).poison = s.poison := rfl
@[simp] theorem State.setCore_ready (s : State) (k : Nat) (x : Core) : (s.setCore k x).ready = s.ready := rfl
@[simp] theorem State.setCore_failedStacks (s : State) (k : Nat) (x : Core) : (s.setCore k x).failedStacks = s.failedStacks := rfl
@[simp] theorem State.setCore_fused (s : State) (k : Nat) (x : Core) : (s.setCore k x).fused = s.fused := rfl
@[simp] theorem State.setCore_node (s : State) (k : Nat) (x : Core) : (s.setCore k x).node = s.node := rfl
@[simp] theorem State.setCore_asids (s : State) (k : Nat) (x : Core) : (s.setCore k x).asids = s.asids := rfl
@[simp] theorem State.setCore_routes (s : State) (k : Nat) (x : Core) : (s.setCore k x).routes = s.routes := rfl
@[simp] theorem State.setCore_fenced (s : State) (k : Nat) (x : Core) : (s.setCore k x).fenced = s.fenced := rfl
@[simp] theorem State.setCore_master (s : State) (k : Nat) (x : Core) : (s.setCore k x).master = s.master := rfl
@[simp] theorem State.setCore_hiFlights (s : State) (k : Nat) (x : Core) : (s.setCore k x).hiFlights = s.hiFlights := rfl
@[simp] theorem State.setCore_loFlights (s : State) (k : Nat) (x : Core) : (s.setCore k x).loFlights = s.loFlights := rfl
@[simp] theorem State.setCore_routers (s : State) (k : Nat) (x : Core) : (s.setCore k x).routers = s.routers := rfl
@[simp] theorem State.setCore_tokens (s : State) (k : Nat) (x : Core) : (s.setCore k x).tokens = s.tokens := rfl
@[simp] theorem State.setCore_locks (s : State) (k : Nat) (x : Core) : (s.setCore k x).locks = s.locks := rfl
@[simp] theorem State.setCore_retries (s : State) (k : Nat) (x : Core) : (s.setCore k x).retries = s.retries := rfl
@[simp] theorem State.setCore_requests (s : State) (k : Nat) (x : Core) : (s.setCore k x).requests = s.requests := rfl
@[simp] theorem State.setCore_nextTx (s : State) (k : Nat) (x : Core) : (s.setCore k x).nextTx = s.nextTx := rfl
@[simp] theorem State.setCore_answers (s : State) (k : Nat) (x : Core) : (s.setCore k x).answers = s.answers := rfl
@[simp] theorem State.setCore_ports (s : State) (k : Nat) (x : Core) : (s.setCore k x).ports = s.ports := rfl
@[simp] theorem State.setCore_imports (s : State) (k : Nat) (x : Core) : (s.setCore k x).imports = s.imports := rfl
@[simp] theorem State.setCore_mailbox (s : State) (k : Nat) (x : Core) : (s.setCore k x).mailbox = s.mailbox := rfl
@[simp] theorem State.setCore_log (s : State) (k : Nat) (x : Core) : (s.setCore k x).log = s.log := rfl
@[simp] theorem State.setCore_clock (s : State) (k : Nat) (x : Core) : (s.setCore k x).clock = s.clock := rfl
@[simp] theorem State.setCore_tripped (s : State) (k : Nat) (x : Core) : (s.setCore k x).tripped = s.tripped := rfl
@[simp] theorem State.setCore_reports (s : State) (k : Nat) (x : Core) : (s.setCore k x).reports = s.reports := rfl
@[simp] theorem State.setCore_spdmReady (s : State) (k : Nat) (x : Core) : (s.setCore k x).spdmReady = s.spdmReady := rfl
@[simp] theorem State.setCore_drawn (s : State) (k : Nat) (x : Core) : (s.setCore k x).drawn = s.drawn := rfl
@[simp] theorem State.setCore_iss (s : State) (k : Nat) (x : Core) : (s.setCore k x).iss = s.iss := rfl
@[simp] theorem State.setCore_input (s : State) (k : Nat) (x : Core) : (s.setCore k x).input = s.input := rfl
@[simp] theorem State.setCore_agenda (s : State) (k : Nat) (x : Core) : (s.setCore k x).agenda = s.agenda := rfl

/-! ## A core changed -/

@[simp] theorem State.modCore_dies (s : State) (k : Nat) (g : Core → Core) : (s.modCore k g).dies = s.dies := rfl
@[simp] theorem State.modCore_hbm (s : State) (k : Nat) (g : Core → Core) : (s.modCore k g).hbm = s.hbm := rfl
@[simp] theorem State.modCore_poison (s : State) (k : Nat) (g : Core → Core) : (s.modCore k g).poison = s.poison := rfl
@[simp] theorem State.modCore_ready (s : State) (k : Nat) (g : Core → Core) : (s.modCore k g).ready = s.ready := rfl
@[simp] theorem State.modCore_failedStacks (s : State) (k : Nat) (g : Core → Core) : (s.modCore k g).failedStacks = s.failedStacks := rfl
@[simp] theorem State.modCore_fused (s : State) (k : Nat) (g : Core → Core) : (s.modCore k g).fused = s.fused := rfl
@[simp] theorem State.modCore_node (s : State) (k : Nat) (g : Core → Core) : (s.modCore k g).node = s.node := rfl
@[simp] theorem State.modCore_asids (s : State) (k : Nat) (g : Core → Core) : (s.modCore k g).asids = s.asids := rfl
@[simp] theorem State.modCore_routes (s : State) (k : Nat) (g : Core → Core) : (s.modCore k g).routes = s.routes := rfl
@[simp] theorem State.modCore_fenced (s : State) (k : Nat) (g : Core → Core) : (s.modCore k g).fenced = s.fenced := rfl
@[simp] theorem State.modCore_master (s : State) (k : Nat) (g : Core → Core) : (s.modCore k g).master = s.master := rfl
@[simp] theorem State.modCore_hiFlights (s : State) (k : Nat) (g : Core → Core) : (s.modCore k g).hiFlights = s.hiFlights := rfl
@[simp] theorem State.modCore_loFlights (s : State) (k : Nat) (g : Core → Core) : (s.modCore k g).loFlights = s.loFlights := rfl
@[simp] theorem State.modCore_routers (s : State) (k : Nat) (g : Core → Core) : (s.modCore k g).routers = s.routers := rfl
@[simp] theorem State.modCore_tokens (s : State) (k : Nat) (g : Core → Core) : (s.modCore k g).tokens = s.tokens := rfl
@[simp] theorem State.modCore_locks (s : State) (k : Nat) (g : Core → Core) : (s.modCore k g).locks = s.locks := rfl
@[simp] theorem State.modCore_retries (s : State) (k : Nat) (g : Core → Core) : (s.modCore k g).retries = s.retries := rfl
@[simp] theorem State.modCore_requests (s : State) (k : Nat) (g : Core → Core) : (s.modCore k g).requests = s.requests := rfl
@[simp] theorem State.modCore_nextTx (s : State) (k : Nat) (g : Core → Core) : (s.modCore k g).nextTx = s.nextTx := rfl
@[simp] theorem State.modCore_answers (s : State) (k : Nat) (g : Core → Core) : (s.modCore k g).answers = s.answers := rfl
@[simp] theorem State.modCore_ports (s : State) (k : Nat) (g : Core → Core) : (s.modCore k g).ports = s.ports := rfl
@[simp] theorem State.modCore_imports (s : State) (k : Nat) (g : Core → Core) : (s.modCore k g).imports = s.imports := rfl
@[simp] theorem State.modCore_mailbox (s : State) (k : Nat) (g : Core → Core) : (s.modCore k g).mailbox = s.mailbox := rfl
@[simp] theorem State.modCore_log (s : State) (k : Nat) (g : Core → Core) : (s.modCore k g).log = s.log := rfl
@[simp] theorem State.modCore_clock (s : State) (k : Nat) (g : Core → Core) : (s.modCore k g).clock = s.clock := rfl
@[simp] theorem State.modCore_tripped (s : State) (k : Nat) (g : Core → Core) : (s.modCore k g).tripped = s.tripped := rfl
@[simp] theorem State.modCore_reports (s : State) (k : Nat) (g : Core → Core) : (s.modCore k g).reports = s.reports := rfl
@[simp] theorem State.modCore_spdmReady (s : State) (k : Nat) (g : Core → Core) : (s.modCore k g).spdmReady = s.spdmReady := rfl
@[simp] theorem State.modCore_drawn (s : State) (k : Nat) (g : Core → Core) : (s.modCore k g).drawn = s.drawn := rfl
@[simp] theorem State.modCore_iss (s : State) (k : Nat) (g : Core → Core) : (s.modCore k g).iss = s.iss := rfl
@[simp] theorem State.modCore_input (s : State) (k : Nat) (g : Core → Core) : (s.modCore k g).input = s.input := rfl
@[simp] theorem State.modCore_agenda (s : State) (k : Nat) (g : Core → Core) : (s.modCore k g).agenda = s.agenda := rfl

/-! ## A context replaced or changed -/

@[simp] theorem State.setCtx_dies (s : State) (k c : Nat) (t : Ctx) : (s.setCtx k c t).dies = s.dies := rfl
@[simp] theorem State.setCtx_hbm (s : State) (k c : Nat) (t : Ctx) : (s.setCtx k c t).hbm = s.hbm := rfl
@[simp] theorem State.setCtx_poison (s : State) (k c : Nat) (t : Ctx) : (s.setCtx k c t).poison = s.poison := rfl
@[simp] theorem State.setCtx_ready (s : State) (k c : Nat) (t : Ctx) : (s.setCtx k c t).ready = s.ready := rfl
@[simp] theorem State.setCtx_failedStacks (s : State) (k c : Nat) (t : Ctx) : (s.setCtx k c t).failedStacks = s.failedStacks := rfl
@[simp] theorem State.setCtx_fused (s : State) (k c : Nat) (t : Ctx) : (s.setCtx k c t).fused = s.fused := rfl
@[simp] theorem State.setCtx_node (s : State) (k c : Nat) (t : Ctx) : (s.setCtx k c t).node = s.node := rfl
@[simp] theorem State.setCtx_asids (s : State) (k c : Nat) (t : Ctx) : (s.setCtx k c t).asids = s.asids := rfl
@[simp] theorem State.setCtx_routes (s : State) (k c : Nat) (t : Ctx) : (s.setCtx k c t).routes = s.routes := rfl
@[simp] theorem State.setCtx_fenced (s : State) (k c : Nat) (t : Ctx) : (s.setCtx k c t).fenced = s.fenced := rfl
@[simp] theorem State.setCtx_master (s : State) (k c : Nat) (t : Ctx) : (s.setCtx k c t).master = s.master := rfl
@[simp] theorem State.setCtx_hiFlights (s : State) (k c : Nat) (t : Ctx) : (s.setCtx k c t).hiFlights = s.hiFlights := rfl
@[simp] theorem State.setCtx_loFlights (s : State) (k c : Nat) (t : Ctx) : (s.setCtx k c t).loFlights = s.loFlights := rfl
@[simp] theorem State.setCtx_routers (s : State) (k c : Nat) (t : Ctx) : (s.setCtx k c t).routers = s.routers := rfl
@[simp] theorem State.setCtx_tokens (s : State) (k c : Nat) (t : Ctx) : (s.setCtx k c t).tokens = s.tokens := rfl
@[simp] theorem State.setCtx_locks (s : State) (k c : Nat) (t : Ctx) : (s.setCtx k c t).locks = s.locks := rfl
@[simp] theorem State.setCtx_retries (s : State) (k c : Nat) (t : Ctx) : (s.setCtx k c t).retries = s.retries := rfl
@[simp] theorem State.setCtx_requests (s : State) (k c : Nat) (t : Ctx) : (s.setCtx k c t).requests = s.requests := rfl
@[simp] theorem State.setCtx_nextTx (s : State) (k c : Nat) (t : Ctx) : (s.setCtx k c t).nextTx = s.nextTx := rfl
@[simp] theorem State.setCtx_answers (s : State) (k c : Nat) (t : Ctx) : (s.setCtx k c t).answers = s.answers := rfl
@[simp] theorem State.setCtx_ports (s : State) (k c : Nat) (t : Ctx) : (s.setCtx k c t).ports = s.ports := rfl
@[simp] theorem State.setCtx_imports (s : State) (k c : Nat) (t : Ctx) : (s.setCtx k c t).imports = s.imports := rfl
@[simp] theorem State.setCtx_mailbox (s : State) (k c : Nat) (t : Ctx) : (s.setCtx k c t).mailbox = s.mailbox := rfl
@[simp] theorem State.setCtx_log (s : State) (k c : Nat) (t : Ctx) : (s.setCtx k c t).log = s.log := rfl
@[simp] theorem State.setCtx_clock (s : State) (k c : Nat) (t : Ctx) : (s.setCtx k c t).clock = s.clock := rfl
@[simp] theorem State.setCtx_tripped (s : State) (k c : Nat) (t : Ctx) : (s.setCtx k c t).tripped = s.tripped := rfl
@[simp] theorem State.setCtx_reports (s : State) (k c : Nat) (t : Ctx) : (s.setCtx k c t).reports = s.reports := rfl
@[simp] theorem State.setCtx_spdmReady (s : State) (k c : Nat) (t : Ctx) : (s.setCtx k c t).spdmReady = s.spdmReady := rfl
@[simp] theorem State.setCtx_drawn (s : State) (k c : Nat) (t : Ctx) : (s.setCtx k c t).drawn = s.drawn := rfl
@[simp] theorem State.setCtx_iss (s : State) (k c : Nat) (t : Ctx) : (s.setCtx k c t).iss = s.iss := rfl
@[simp] theorem State.setCtx_input (s : State) (k c : Nat) (t : Ctx) : (s.setCtx k c t).input = s.input := rfl
@[simp] theorem State.setCtx_agenda (s : State) (k c : Nat) (t : Ctx) : (s.setCtx k c t).agenda = s.agenda := rfl
@[simp] theorem State.modCtx_dies (s : State) (k c : Nat) (g : Ctx → Ctx) : (s.modCtx k c g).dies = s.dies := rfl
@[simp] theorem State.modCtx_hbm (s : State) (k c : Nat) (g : Ctx → Ctx) : (s.modCtx k c g).hbm = s.hbm := rfl
@[simp] theorem State.modCtx_poison (s : State) (k c : Nat) (g : Ctx → Ctx) : (s.modCtx k c g).poison = s.poison := rfl
@[simp] theorem State.modCtx_ready (s : State) (k c : Nat) (g : Ctx → Ctx) : (s.modCtx k c g).ready = s.ready := rfl
@[simp] theorem State.modCtx_failedStacks (s : State) (k c : Nat) (g : Ctx → Ctx) : (s.modCtx k c g).failedStacks = s.failedStacks := rfl
@[simp] theorem State.modCtx_fused (s : State) (k c : Nat) (g : Ctx → Ctx) : (s.modCtx k c g).fused = s.fused := rfl
@[simp] theorem State.modCtx_node (s : State) (k c : Nat) (g : Ctx → Ctx) : (s.modCtx k c g).node = s.node := rfl
@[simp] theorem State.modCtx_asids (s : State) (k c : Nat) (g : Ctx → Ctx) : (s.modCtx k c g).asids = s.asids := rfl
@[simp] theorem State.modCtx_routes (s : State) (k c : Nat) (g : Ctx → Ctx) : (s.modCtx k c g).routes = s.routes := rfl
@[simp] theorem State.modCtx_fenced (s : State) (k c : Nat) (g : Ctx → Ctx) : (s.modCtx k c g).fenced = s.fenced := rfl
@[simp] theorem State.modCtx_master (s : State) (k c : Nat) (g : Ctx → Ctx) : (s.modCtx k c g).master = s.master := rfl
@[simp] theorem State.modCtx_hiFlights (s : State) (k c : Nat) (g : Ctx → Ctx) : (s.modCtx k c g).hiFlights = s.hiFlights := rfl
@[simp] theorem State.modCtx_loFlights (s : State) (k c : Nat) (g : Ctx → Ctx) : (s.modCtx k c g).loFlights = s.loFlights := rfl
@[simp] theorem State.modCtx_routers (s : State) (k c : Nat) (g : Ctx → Ctx) : (s.modCtx k c g).routers = s.routers := rfl
@[simp] theorem State.modCtx_tokens (s : State) (k c : Nat) (g : Ctx → Ctx) : (s.modCtx k c g).tokens = s.tokens := rfl
@[simp] theorem State.modCtx_locks (s : State) (k c : Nat) (g : Ctx → Ctx) : (s.modCtx k c g).locks = s.locks := rfl
@[simp] theorem State.modCtx_retries (s : State) (k c : Nat) (g : Ctx → Ctx) : (s.modCtx k c g).retries = s.retries := rfl
@[simp] theorem State.modCtx_requests (s : State) (k c : Nat) (g : Ctx → Ctx) : (s.modCtx k c g).requests = s.requests := rfl
@[simp] theorem State.modCtx_nextTx (s : State) (k c : Nat) (g : Ctx → Ctx) : (s.modCtx k c g).nextTx = s.nextTx := rfl
@[simp] theorem State.modCtx_answers (s : State) (k c : Nat) (g : Ctx → Ctx) : (s.modCtx k c g).answers = s.answers := rfl
@[simp] theorem State.modCtx_ports (s : State) (k c : Nat) (g : Ctx → Ctx) : (s.modCtx k c g).ports = s.ports := rfl
@[simp] theorem State.modCtx_imports (s : State) (k c : Nat) (g : Ctx → Ctx) : (s.modCtx k c g).imports = s.imports := rfl
@[simp] theorem State.modCtx_mailbox (s : State) (k c : Nat) (g : Ctx → Ctx) : (s.modCtx k c g).mailbox = s.mailbox := rfl
@[simp] theorem State.modCtx_log (s : State) (k c : Nat) (g : Ctx → Ctx) : (s.modCtx k c g).log = s.log := rfl
@[simp] theorem State.modCtx_clock (s : State) (k c : Nat) (g : Ctx → Ctx) : (s.modCtx k c g).clock = s.clock := rfl
@[simp] theorem State.modCtx_tripped (s : State) (k c : Nat) (g : Ctx → Ctx) : (s.modCtx k c g).tripped = s.tripped := rfl
@[simp] theorem State.modCtx_reports (s : State) (k c : Nat) (g : Ctx → Ctx) : (s.modCtx k c g).reports = s.reports := rfl
@[simp] theorem State.modCtx_spdmReady (s : State) (k c : Nat) (g : Ctx → Ctx) : (s.modCtx k c g).spdmReady = s.spdmReady := rfl
@[simp] theorem State.modCtx_drawn (s : State) (k c : Nat) (g : Ctx → Ctx) : (s.modCtx k c g).drawn = s.drawn := rfl
@[simp] theorem State.modCtx_iss (s : State) (k c : Nat) (g : Ctx → Ctx) : (s.modCtx k c g).iss = s.iss := rfl
@[simp] theorem State.modCtx_input (s : State) (k c : Nat) (g : Ctx → Ctx) : (s.modCtx k c g).input = s.input := rfl
@[simp] theorem State.modCtx_agenda (s : State) (k c : Nat) (g : Ctx → Ctx) : (s.modCtx k c g).agenda = s.agenda := rfl

/-! ## A die changed -/

@[simp] theorem State.modDie_cores (s : State) (d : Nat) (g : Die → Die) : (s.modDie d g).cores = s.cores := rfl
@[simp] theorem State.modDie_hbm (s : State) (d : Nat) (g : Die → Die) : (s.modDie d g).hbm = s.hbm := rfl
@[simp] theorem State.modDie_poison (s : State) (d : Nat) (g : Die → Die) : (s.modDie d g).poison = s.poison := rfl
@[simp] theorem State.modDie_ready (s : State) (d : Nat) (g : Die → Die) : (s.modDie d g).ready = s.ready := rfl
@[simp] theorem State.modDie_failedStacks (s : State) (d : Nat) (g : Die → Die) : (s.modDie d g).failedStacks = s.failedStacks := rfl
@[simp] theorem State.modDie_fused (s : State) (d : Nat) (g : Die → Die) : (s.modDie d g).fused = s.fused := rfl
@[simp] theorem State.modDie_node (s : State) (d : Nat) (g : Die → Die) : (s.modDie d g).node = s.node := rfl
@[simp] theorem State.modDie_asids (s : State) (d : Nat) (g : Die → Die) : (s.modDie d g).asids = s.asids := rfl
@[simp] theorem State.modDie_routes (s : State) (d : Nat) (g : Die → Die) : (s.modDie d g).routes = s.routes := rfl
@[simp] theorem State.modDie_fenced (s : State) (d : Nat) (g : Die → Die) : (s.modDie d g).fenced = s.fenced := rfl
@[simp] theorem State.modDie_master (s : State) (d : Nat) (g : Die → Die) : (s.modDie d g).master = s.master := rfl
@[simp] theorem State.modDie_hiFlights (s : State) (d : Nat) (g : Die → Die) : (s.modDie d g).hiFlights = s.hiFlights := rfl
@[simp] theorem State.modDie_loFlights (s : State) (d : Nat) (g : Die → Die) : (s.modDie d g).loFlights = s.loFlights := rfl
@[simp] theorem State.modDie_routers (s : State) (d : Nat) (g : Die → Die) : (s.modDie d g).routers = s.routers := rfl
@[simp] theorem State.modDie_tokens (s : State) (d : Nat) (g : Die → Die) : (s.modDie d g).tokens = s.tokens := rfl
@[simp] theorem State.modDie_locks (s : State) (d : Nat) (g : Die → Die) : (s.modDie d g).locks = s.locks := rfl
@[simp] theorem State.modDie_retries (s : State) (d : Nat) (g : Die → Die) : (s.modDie d g).retries = s.retries := rfl
@[simp] theorem State.modDie_requests (s : State) (d : Nat) (g : Die → Die) : (s.modDie d g).requests = s.requests := rfl
@[simp] theorem State.modDie_nextTx (s : State) (d : Nat) (g : Die → Die) : (s.modDie d g).nextTx = s.nextTx := rfl
@[simp] theorem State.modDie_answers (s : State) (d : Nat) (g : Die → Die) : (s.modDie d g).answers = s.answers := rfl
@[simp] theorem State.modDie_ports (s : State) (d : Nat) (g : Die → Die) : (s.modDie d g).ports = s.ports := rfl
@[simp] theorem State.modDie_imports (s : State) (d : Nat) (g : Die → Die) : (s.modDie d g).imports = s.imports := rfl
@[simp] theorem State.modDie_mailbox (s : State) (d : Nat) (g : Die → Die) : (s.modDie d g).mailbox = s.mailbox := rfl
@[simp] theorem State.modDie_log (s : State) (d : Nat) (g : Die → Die) : (s.modDie d g).log = s.log := rfl
@[simp] theorem State.modDie_clock (s : State) (d : Nat) (g : Die → Die) : (s.modDie d g).clock = s.clock := rfl
@[simp] theorem State.modDie_tripped (s : State) (d : Nat) (g : Die → Die) : (s.modDie d g).tripped = s.tripped := rfl
@[simp] theorem State.modDie_reports (s : State) (d : Nat) (g : Die → Die) : (s.modDie d g).reports = s.reports := rfl
@[simp] theorem State.modDie_spdmReady (s : State) (d : Nat) (g : Die → Die) : (s.modDie d g).spdmReady = s.spdmReady := rfl
@[simp] theorem State.modDie_drawn (s : State) (d : Nat) (g : Die → Die) : (s.modDie d g).drawn = s.drawn := rfl
@[simp] theorem State.modDie_iss (s : State) (d : Nat) (g : Die → Die) : (s.modDie d g).iss = s.iss := rfl
@[simp] theorem State.modDie_input (s : State) (d : Nat) (g : Die → Die) : (s.modDie d g).input = s.input := rfl
@[simp] theorem State.modDie_agenda (s : State) (d : Nat) (g : Die → Die) : (s.modDie d g).agenda = s.agenda := rfl

/-! ## A context of a core replaced -/

@[simp] theorem Core.setCtx_cycle (x : Core) (c : Nat) (t : Ctx) : (x.setCtx c t).cycle = x.cycle := rfl
@[simp] theorem Core.setCtx_nextHi (x : Core) (c : Nat) (t : Ctx) : (x.setCtx c t).nextHi = x.nextHi := rfl
@[simp] theorem Core.setCtx_nextLo (x : Core) (c : Nat) (t : Ctx) : (x.setCtx c t).nextLo = x.nextLo := rfl
@[simp] theorem Core.setCtx_seq (x : Core) (c : Nat) (t : Ctx) : (x.setCtx c t).seq = x.seq := rfl
@[simp] theorem Core.setCtx_stopped (x : Core) (c : Nat) (t : Ctx) : (x.setCtx c t).stopped = x.stopped := rfl
@[simp] theorem Core.setCtx_tile (x : Core) (c : Nat) (t : Ctx) : (x.setCtx c t).tile = x.tile := rfl
@[simp] theorem Core.setCtx_tags (x : Core) (c : Nat) (t : Ctx) : (x.setCtx c t).tags = x.tags := rfl
@[simp] theorem Core.setCtx_tagCount (x : Core) (c : Nat) (t : Ctx) : (x.setCtx c t).tagCount = x.tagCount := rfl
@[simp] theorem Core.setCtx_tvec (x : Core) (c : Nat) (t : Ctx) : (x.setCtx c t).tvec = x.tvec := rfl
@[simp] theorem Core.setCtx_flt (x : Core) (c : Nat) (t : Ctx) : (x.setCtx c t).flt = x.flt := rfl
@[simp] theorem Core.setCtx_fltpc (x : Core) (c : Nat) (t : Ctx) : (x.setCtx c t).fltpc = x.fltpc := rfl
@[simp] theorem Core.setCtx_fltaddr (x : Core) (c : Nat) (t : Ctx) : (x.setCtx c t).fltaddr = x.fltaddr := rfl
@[simp] theorem Core.setCtx_fltinfo (x : Core) (c : Nat) (t : Ctx) : (x.setCtx c t).fltinfo = x.fltinfo := rfl
@[simp] theorem Core.setCtx_ctxsel (x : Core) (c : Nat) (t : Ctx) : (x.setCtx c t).ctxsel = x.ctxsel := rfl
@[simp] theorem Core.setCtx_preq (x : Core) (c : Nat) (t : Ctx) : (x.setCtx c t).preq = x.preq := rfl
@[simp] theorem Core.setCtx_saveBase (x : Core) (c : Nat) (t : Ctx) : (x.setCtx c t).saveBase = x.saveBase := rfl
@[simp] theorem Core.setCtx_saveMap (x : Core) (c : Nat) (t : Ctx) : (x.setCtx c t).saveMap = x.saveMap := rfl
@[simp] theorem Core.setCtx_slotRects (x : Core) (c : Nat) (t : Ctx) : (x.setCtx c t).slotRects = x.slotRects := rfl
@[simp] theorem Core.setCtx_restoreStat (x : Core) (c : Nat) (t : Ctx) : (x.setCtx c t).restoreStat = x.restoreStat := rfl
@[simp] theorem Core.setCtx_restoreCtx (x : Core) (c : Nat) (t : Ctx) : (x.setCtx c t).restoreCtx = x.restoreCtx := rfl
@[simp] theorem Core.setCtx_restoreAddr (x : Core) (c : Nat) (t : Ctx) : (x.setCtx c t).restoreAddr = x.restoreAddr := rfl
@[simp] theorem Core.setCtx_restoring (x : Core) (c : Nat) (t : Ctx) : (x.setCtx c t).restoring = x.restoring := rfl
@[simp] theorem Core.setCtx_command (x : Core) (c : Nat) (t : Ctx) : (x.setCtx c t).command = x.command := rfl
@[simp] theorem Core.setCtx_jobsw (x : Core) (c : Nat) (t : Ctx) : (x.setCtx c t).jobsw = x.jobsw := rfl
@[simp] theorem Core.setCtx_jobBusy (x : Core) (c : Nat) (t : Ctx) : (x.setCtx c t).jobBusy = x.jobBusy := rfl
@[simp] theorem Core.setCtx_jobErr (x : Core) (c : Nat) (t : Ctx) : (x.setCtx c t).jobErr = x.jobErr := rfl
@[simp] theorem Core.setCtx_asid (x : Core) (c : Nat) (t : Ctx) : (x.setCtx c t).asid = x.asid := rfl
@[simp] theorem Core.setCtx_activations (x : Core) (c : Nat) (t : Ctx) : (x.setCtx c t).activations = x.activations := rfl
@[simp] theorem Core.setCtx_bank (x : Core) (c : Nat) (t : Ctx) : (x.setCtx c t).bank = x.bank := rfl
@[simp] theorem Core.setCtx_bad (x : Core) (c : Nat) (t : Ctx) : (x.setCtx c t).bad = x.bad := rfl
@[simp] theorem Core.setCtx_corrected (x : Core) (c : Nat) (t : Ctx) : (x.setCtx c t).corrected = x.corrected := rfl
@[simp] theorem Core.setCtx_fillLid (x : Core) (c : Nat) (t : Ctx) : (x.setCtx c t).fillLid = x.fillLid := rfl
@[simp] theorem Core.setCtx_fillLen (x : Core) (c : Nat) (t : Ctx) : (x.setCtx c t).fillLen = x.fillLen := rfl
@[simp] theorem Core.setCtx_icache (x : Core) (c : Nat) (t : Ctx) : (x.setCtx c t).icache = x.icache := rfl
@[simp] theorem Core.setCtx_jobSent (x : Core) (c : Nat) (t : Ctx) : (x.setCtx c t).jobSent = x.jobSent := rfl
@[simp] theorem Core.setCtx_nt (x : Core) (c : Nat) (t : Ctx) : (x.setCtx c t).nt = x.nt := rfl
@[simp] theorem Core.setCtx_stores (x : Core) (c : Nat) (t : Ctx) : (x.setCtx c t).stores = x.stores := rfl
@[simp] theorem Core.setCtx_copies (x : Core) (c : Nat) (t : Ctx) : (x.setCtx c t).copies = x.copies := rfl
@[simp] theorem Core.setCtx_lanes (x : Core) (c : Nat) (t : Ctx) : (x.setCtx c t).lanes = x.lanes := rfl
@[simp] theorem Core.setCtx_cb (x : Core) (c : Nat) (t : Ctx) : (x.setCtx c t).cb = x.cb := rfl
@[simp] theorem Core.setCtx_active (x : Core) (c : Nat) (t : Ctx) : (x.setCtx c t).active = x.active := rfl
@[simp] theorem Core.setCtx_shadow (x : Core) (c : Nat) (t : Ctx) : (x.setCtx c t).shadow = x.shadow := rfl
@[simp] theorem Core.setCtx_acc16 (x : Core) (c : Nat) (t : Ctx) : (x.setCtx c t).acc16 = x.acc16 := rfl
@[simp] theorem Core.setCtx_matrix (x : Core) (c : Nat) (t : Ctx) : (x.setCtx c t).matrix = x.matrix := rfl
@[simp] theorem Core.setCtx_replies (x : Core) (c : Nat) (t : Ctx) : (x.setCtx c t).replies = x.replies := rfl
@[simp] theorem Core.setCtx_bench (x : Core) (c : Nat) (t : Ctx) : (x.setCtx c t).bench = x.bench := rfl
@[simp] theorem Core.setCtx_hiInbox (x : Core) (c : Nat) (t : Ctx) : (x.setCtx c t).hiInbox = x.hiInbox := rfl
@[simp] theorem Core.setCtx_loInbox (x : Core) (c : Nat) (t : Ctx) : (x.setCtx c t).loInbox = x.loInbox := rfl
@[simp] theorem Core.setCtx_park (x : Core) (c : Nat) (t : Ctx) : (x.setCtx c t).park = x.park := rfl
@[simp] theorem Core.setCtx_outbox (x : Core) (c : Nat) (t : Ctx) : (x.setCtx c t).outbox = x.outbox := rfl
@[simp] theorem Core.setCtx_spoil (x : Core) (c : Nat) (t : Ctx) : (x.setCtx c t).spoil = x.spoil := rfl
@[simp] theorem Core.setCtx_spill (x : Core) (c : Nat) (t : Ctx) : (x.setCtx c t).spill = x.spill := rfl
@[simp] theorem Core.setCtx_tipHi (x : Core) (c : Nat) (t : Ctx) : (x.setCtx c t).tipHi = x.tipHi := rfl
@[simp] theorem Core.setCtx_tipLo (x : Core) (c : Nat) (t : Ctx) : (x.setCtx c t).tipLo = x.tipLo := rfl
@[simp] theorem Core.setCtx_tipPark (x : Core) (c : Nat) (t : Ctx) : (x.setCtx c t).tipPark = x.tipPark := rfl
@[simp] theorem Core.setCtx_sc (x : Core) (c : Nat) (t : Ctx) : (x.setCtx c t).sc = x.sc := rfl
@[simp] theorem Core.setCtx_delta (x : Core) (c : Nat) (t : Ctx) : (x.setCtx c t).delta = x.delta := rfl
@[simp] theorem Core.setCtx_cross (x : Core) (c : Nat) (t : Ctx) : (x.setCtx c t).cross = x.cross := rfl
@[simp] theorem Core.setCtx_filter (x : Core) (c : Nat) (t : Ctx) : (x.setCtx c t).filter = x.filter := rfl
@[simp] theorem Core.setCtx_bindCache (x : Core) (c : Nat) (t : Ctx) : (x.setCtx c t).bindCache = x.bindCache := rfl
@[simp] theorem Core.setCtx_slots (x : Core) (c : Nat) (t : Ctx) : (x.setCtx c t).slots = x.slots := rfl
@[simp] theorem Core.setCtx_utlb (x : Core) (c : Nat) (t : Ctx) : (x.setCtx c t).utlb = x.utlb := rfl
@[simp] theorem Core.setCtx_perf (x : Core) (c : Nat) (t : Ctx) : (x.setCtx c t).perf = x.perf := rfl

/-! ## A counter of a core -/

@[simp] theorem Core.bump_ctxs (x : Core) (g i n : Nat) : (x.bump g i n).ctxs = x.ctxs := rfl
@[simp] theorem Core.bump_cycle (x : Core) (g i n : Nat) : (x.bump g i n).cycle = x.cycle := rfl
@[simp] theorem Core.bump_nextHi (x : Core) (g i n : Nat) : (x.bump g i n).nextHi = x.nextHi := rfl
@[simp] theorem Core.bump_nextLo (x : Core) (g i n : Nat) : (x.bump g i n).nextLo = x.nextLo := rfl
@[simp] theorem Core.bump_seq (x : Core) (g i n : Nat) : (x.bump g i n).seq = x.seq := rfl
@[simp] theorem Core.bump_stopped (x : Core) (g i n : Nat) : (x.bump g i n).stopped = x.stopped := rfl
@[simp] theorem Core.bump_tile (x : Core) (g i n : Nat) : (x.bump g i n).tile = x.tile := rfl
@[simp] theorem Core.bump_tags (x : Core) (g i n : Nat) : (x.bump g i n).tags = x.tags := rfl
@[simp] theorem Core.bump_tagCount (x : Core) (g i n : Nat) : (x.bump g i n).tagCount = x.tagCount := rfl
@[simp] theorem Core.bump_tvec (x : Core) (g i n : Nat) : (x.bump g i n).tvec = x.tvec := rfl
@[simp] theorem Core.bump_flt (x : Core) (g i n : Nat) : (x.bump g i n).flt = x.flt := rfl
@[simp] theorem Core.bump_fltpc (x : Core) (g i n : Nat) : (x.bump g i n).fltpc = x.fltpc := rfl
@[simp] theorem Core.bump_fltaddr (x : Core) (g i n : Nat) : (x.bump g i n).fltaddr = x.fltaddr := rfl
@[simp] theorem Core.bump_fltinfo (x : Core) (g i n : Nat) : (x.bump g i n).fltinfo = x.fltinfo := rfl
@[simp] theorem Core.bump_ctxsel (x : Core) (g i n : Nat) : (x.bump g i n).ctxsel = x.ctxsel := rfl
@[simp] theorem Core.bump_preq (x : Core) (g i n : Nat) : (x.bump g i n).preq = x.preq := rfl
@[simp] theorem Core.bump_saveBase (x : Core) (g i n : Nat) : (x.bump g i n).saveBase = x.saveBase := rfl
@[simp] theorem Core.bump_saveMap (x : Core) (g i n : Nat) : (x.bump g i n).saveMap = x.saveMap := rfl
@[simp] theorem Core.bump_slotRects (x : Core) (g i n : Nat) : (x.bump g i n).slotRects = x.slotRects := rfl
@[simp] theorem Core.bump_restoreStat (x : Core) (g i n : Nat) : (x.bump g i n).restoreStat = x.restoreStat := rfl
@[simp] theorem Core.bump_restoreCtx (x : Core) (g i n : Nat) : (x.bump g i n).restoreCtx = x.restoreCtx := rfl
@[simp] theorem Core.bump_restoreAddr (x : Core) (g i n : Nat) : (x.bump g i n).restoreAddr = x.restoreAddr := rfl
@[simp] theorem Core.bump_restoring (x : Core) (g i n : Nat) : (x.bump g i n).restoring = x.restoring := rfl
@[simp] theorem Core.bump_command (x : Core) (g i n : Nat) : (x.bump g i n).command = x.command := rfl
@[simp] theorem Core.bump_jobsw (x : Core) (g i n : Nat) : (x.bump g i n).jobsw = x.jobsw := rfl
@[simp] theorem Core.bump_jobBusy (x : Core) (g i n : Nat) : (x.bump g i n).jobBusy = x.jobBusy := rfl
@[simp] theorem Core.bump_jobErr (x : Core) (g i n : Nat) : (x.bump g i n).jobErr = x.jobErr := rfl
@[simp] theorem Core.bump_asid (x : Core) (g i n : Nat) : (x.bump g i n).asid = x.asid := rfl
@[simp] theorem Core.bump_activations (x : Core) (g i n : Nat) : (x.bump g i n).activations = x.activations := rfl
@[simp] theorem Core.bump_bank (x : Core) (g i n : Nat) : (x.bump g i n).bank = x.bank := rfl
@[simp] theorem Core.bump_bad (x : Core) (g i n : Nat) : (x.bump g i n).bad = x.bad := rfl
@[simp] theorem Core.bump_corrected (x : Core) (g i n : Nat) : (x.bump g i n).corrected = x.corrected := rfl
@[simp] theorem Core.bump_fillLid (x : Core) (g i n : Nat) : (x.bump g i n).fillLid = x.fillLid := rfl
@[simp] theorem Core.bump_fillLen (x : Core) (g i n : Nat) : (x.bump g i n).fillLen = x.fillLen := rfl
@[simp] theorem Core.bump_icache (x : Core) (g i n : Nat) : (x.bump g i n).icache = x.icache := rfl
@[simp] theorem Core.bump_jobSent (x : Core) (g i n : Nat) : (x.bump g i n).jobSent = x.jobSent := rfl
@[simp] theorem Core.bump_nt (x : Core) (g i n : Nat) : (x.bump g i n).nt = x.nt := rfl
@[simp] theorem Core.bump_stores (x : Core) (g i n : Nat) : (x.bump g i n).stores = x.stores := rfl
@[simp] theorem Core.bump_copies (x : Core) (g i n : Nat) : (x.bump g i n).copies = x.copies := rfl
@[simp] theorem Core.bump_lanes (x : Core) (g i n : Nat) : (x.bump g i n).lanes = x.lanes := rfl
@[simp] theorem Core.bump_cb (x : Core) (g i n : Nat) : (x.bump g i n).cb = x.cb := rfl
@[simp] theorem Core.bump_active (x : Core) (g i n : Nat) : (x.bump g i n).active = x.active := rfl
@[simp] theorem Core.bump_shadow (x : Core) (g i n : Nat) : (x.bump g i n).shadow = x.shadow := rfl
@[simp] theorem Core.bump_acc16 (x : Core) (g i n : Nat) : (x.bump g i n).acc16 = x.acc16 := rfl
@[simp] theorem Core.bump_matrix (x : Core) (g i n : Nat) : (x.bump g i n).matrix = x.matrix := rfl
@[simp] theorem Core.bump_replies (x : Core) (g i n : Nat) : (x.bump g i n).replies = x.replies := rfl
@[simp] theorem Core.bump_bench (x : Core) (g i n : Nat) : (x.bump g i n).bench = x.bench := rfl
@[simp] theorem Core.bump_hiInbox (x : Core) (g i n : Nat) : (x.bump g i n).hiInbox = x.hiInbox := rfl
@[simp] theorem Core.bump_loInbox (x : Core) (g i n : Nat) : (x.bump g i n).loInbox = x.loInbox := rfl
@[simp] theorem Core.bump_park (x : Core) (g i n : Nat) : (x.bump g i n).park = x.park := rfl
@[simp] theorem Core.bump_outbox (x : Core) (g i n : Nat) : (x.bump g i n).outbox = x.outbox := rfl
@[simp] theorem Core.bump_spoil (x : Core) (g i n : Nat) : (x.bump g i n).spoil = x.spoil := rfl
@[simp] theorem Core.bump_spill (x : Core) (g i n : Nat) : (x.bump g i n).spill = x.spill := rfl
@[simp] theorem Core.bump_tipHi (x : Core) (g i n : Nat) : (x.bump g i n).tipHi = x.tipHi := rfl
@[simp] theorem Core.bump_tipLo (x : Core) (g i n : Nat) : (x.bump g i n).tipLo = x.tipLo := rfl
@[simp] theorem Core.bump_tipPark (x : Core) (g i n : Nat) : (x.bump g i n).tipPark = x.tipPark := rfl
@[simp] theorem Core.bump_sc (x : Core) (g i n : Nat) : (x.bump g i n).sc = x.sc := rfl
@[simp] theorem Core.bump_delta (x : Core) (g i n : Nat) : (x.bump g i n).delta = x.delta := rfl
@[simp] theorem Core.bump_cross (x : Core) (g i n : Nat) : (x.bump g i n).cross = x.cross := rfl
@[simp] theorem Core.bump_filter (x : Core) (g i n : Nat) : (x.bump g i n).filter = x.filter := rfl
@[simp] theorem Core.bump_bindCache (x : Core) (g i n : Nat) : (x.bump g i n).bindCache = x.bindCache := rfl
@[simp] theorem Core.bump_slots (x : Core) (g i n : Nat) : (x.bump g i n).slots = x.slots := rfl
@[simp] theorem Core.bump_utlb (x : Core) (g i n : Nat) : (x.bump g i n).utlb = x.utlb := rfl

/-! ## Registers of a context -/

@[simp] theorem Ctx.setHandle_state (t : Ctx) (r : Nat) (v : HandleBits) : (t.setHandle r v).state = t.state := rfl
@[simp] theorem Ctx.setHandle_hi (t : Ctx) (r : Nat) (v : HandleBits) : (t.setHandle r v).hi = t.hi := rfl
@[simp] theorem Ctx.setHandle_imaging (t : Ctx) (r : Nat) (v : HandleBits) : (t.setHandle r v).imaging = t.imaging := rfl
@[simp] theorem Ctx.setHandle_pc (t : Ctx) (r : Nat) (v : HandleBits) : (t.setHandle r v).pc = t.pc := rfl
@[simp] theorem Ctx.setHandle_s (t : Ctx) (r : Nat) (v : HandleBits) : (t.setHandle r v).s = t.s := rfl
@[simp] theorem Ctx.setHandle_ldq (t : Ctx) (r : Nat) (v : HandleBits) : (t.setHandle r v).ldq = t.ldq := rfl
@[simp] theorem Ctx.setHandle_stq (t : Ctx) (r : Nat) (v : HandleBits) : (t.setHandle r v).stq = t.stq := rfl
@[simp] theorem Ctx.setHandle_pool (t : Ctx) (r : Nat) (v : HandleBits) : (t.setHandle r v).pool = t.pool := rfl
@[simp] theorem Ctx.setHandle_prec (t : Ctx) (r : Nat) (v : HandleBits) : (t.setHandle r v).prec = t.prec := rfl
@[simp] theorem Ctx.setHandle_rmode (t : Ctx) (r : Nat) (v : HandleBits) : (t.setHandle r v).rmode = t.rmode := rfl
@[simp] theorem Ctx.setHandle_satf (t : Ctx) (r : Nat) (v : HandleBits) : (t.setHandle r v).satf = t.satf := rfl
@[simp] theorem Ctx.setHandle_oob (t : Ctx) (r : Nat) (v : HandleBits) : (t.setHandle r v).oob = t.oob := rfl
@[simp] theorem Ctx.setHandle_hdr0 (t : Ctx) (r : Nat) (v : HandleBits) : (t.setHandle r v).hdr0 = t.hdr0 := rfl
@[simp] theorem Ctx.setHandle_hdr1 (t : Ctx) (r : Nat) (v : HandleBits) : (t.setHandle r v).hdr1 = t.hdr1 := rfl
@[simp] theorem Ctx.setHandle_launchId (t : Ctx) (r : Nat) (v : HandleBits) : (t.setHandle r v).launchId = t.launchId := rfl
@[simp] theorem Ctx.setHandle_barRect (t : Ctx) (r : Nat) (v : HandleBits) : (t.setHandle r v).barRect = t.barRect := rfl
@[simp] theorem Ctx.setHandle_barPh (t : Ctx) (r : Nat) (v : HandleBits) : (t.setHandle r v).barPh = t.barPh := rfl
@[simp] theorem Ctx.setHandle_windows (t : Ctx) (r : Nat) (v : HandleBits) : (t.setHandle r v).windows = t.windows := rfl
@[simp] theorem Ctx.setHandle_pending (t : Ctx) (r : Nat) (v : HandleBits) : (t.setHandle r v).pending = t.pending := rfl
@[simp] theorem Ctx.setHandle_nextId (t : Ctx) (r : Nat) (v : HandleBits) : (t.setHandle r v).nextId = t.nextId := rfl
@[simp] theorem Ctx.setHandle_repeating (t : Ctx) (r : Nat) (v : HandleBits) : (t.setHandle r v).repeating = t.repeating := rfl
@[simp] theorem Ctx.setHandle_repi (t : Ctx) (r : Nat) (v : HandleBits) : (t.setHandle r v).repi = t.repi := rfl
@[simp] theorem Ctx.setHandle_gang (t : Ctx) (r : Nat) (v : HandleBits) : (t.setHandle r v).gang = t.gang := rfl
@[simp] theorem Ctx.setHandle_gangLid (t : Ctx) (r : Nat) (v : HandleBits) : (t.setHandle r v).gangLid = t.gangLid := rfl
@[simp] theorem Ctx.setHandle_waitOn (t : Ctx) (r : Nat) (v : HandleBits) : (t.setHandle r v).waitOn = t.waitOn := rfl
@[simp] theorem Ctx.setHandle_latch (t : Ctx) (r : Nat) (v : HandleBits) : (t.setHandle r v).latch = t.latch := rfl
@[simp] theorem Ctx.setHandle_deadline (t : Ctx) (r : Nat) (v : HandleBits) : (t.setHandle r v).deadline = t.deadline := rfl
@[simp] theorem Ctx.setHandle_acc (t : Ctx) (r : Nat) (v : HandleBits) : (t.setHandle r v).acc = t.acc := rfl
@[simp] theorem Ctx.setHandle_staging (t : Ctx) (r : Nat) (v : HandleBits) : (t.setHandle r v).staging = t.staging := rfl
@[simp] theorem Ctx.setHandle_replay (t : Ctx) (r : Nat) (v : HandleBits) : (t.setHandle r v).replay = t.replay := rfl
@[simp] theorem Ctx.setHandle_checks (t : Ctx) (r : Nat) (v : HandleBits) : (t.setHandle r v).checks = t.checks := rfl
@[simp] theorem Ctx.setHandle_unit (t : Ctx) (r : Nat) (v : HandleBits) : (t.setHandle r v).unit = t.unit := rfl
@[simp] theorem Ctx.setHandle_preqSince (t : Ctx) (r : Nat) (v : HandleBits) : (t.setHandle r v).preqSince = t.preqSince := rfl
@[simp] theorem Ctx.setHandle_save (t : Ctx) (r : Nat) (v : HandleBits) : (t.setHandle r v).save = t.save := rfl
@[simp] theorem Ctx.setFloat_state (t : Ctx) (n v : Nat) : (t.setFloat n v).state = t.state := rfl
@[simp] theorem Ctx.setFloat_hi (t : Ctx) (n v : Nat) : (t.setFloat n v).hi = t.hi := rfl
@[simp] theorem Ctx.setFloat_imaging (t : Ctx) (n v : Nat) : (t.setFloat n v).imaging = t.imaging := rfl
@[simp] theorem Ctx.setFloat_pc (t : Ctx) (n v : Nat) : (t.setFloat n v).pc = t.pc := rfl
@[simp] theorem Ctx.setFloat_s (t : Ctx) (n v : Nat) : (t.setFloat n v).s = t.s := rfl
@[simp] theorem Ctx.setFloat_ldq (t : Ctx) (n v : Nat) : (t.setFloat n v).ldq = t.ldq := rfl
@[simp] theorem Ctx.setFloat_stq (t : Ctx) (n v : Nat) : (t.setFloat n v).stq = t.stq := rfl
@[simp] theorem Ctx.setFloat_prec (t : Ctx) (n v : Nat) : (t.setFloat n v).prec = t.prec := rfl
@[simp] theorem Ctx.setFloat_rmode (t : Ctx) (n v : Nat) : (t.setFloat n v).rmode = t.rmode := rfl
@[simp] theorem Ctx.setFloat_satf (t : Ctx) (n v : Nat) : (t.setFloat n v).satf = t.satf := rfl
@[simp] theorem Ctx.setFloat_oob (t : Ctx) (n v : Nat) : (t.setFloat n v).oob = t.oob := rfl
@[simp] theorem Ctx.setFloat_hdr0 (t : Ctx) (n v : Nat) : (t.setFloat n v).hdr0 = t.hdr0 := rfl
@[simp] theorem Ctx.setFloat_hdr1 (t : Ctx) (n v : Nat) : (t.setFloat n v).hdr1 = t.hdr1 := rfl
@[simp] theorem Ctx.setFloat_launchId (t : Ctx) (n v : Nat) : (t.setFloat n v).launchId = t.launchId := rfl
@[simp] theorem Ctx.setFloat_barRect (t : Ctx) (n v : Nat) : (t.setFloat n v).barRect = t.barRect := rfl
@[simp] theorem Ctx.setFloat_barPh (t : Ctx) (n v : Nat) : (t.setFloat n v).barPh = t.barPh := rfl
@[simp] theorem Ctx.setFloat_h (t : Ctx) (n v : Nat) : (t.setFloat n v).h = t.h := rfl
@[simp] theorem Ctx.setFloat_windows (t : Ctx) (n v : Nat) : (t.setFloat n v).windows = t.windows := rfl
@[simp] theorem Ctx.setFloat_pending (t : Ctx) (n v : Nat) : (t.setFloat n v).pending = t.pending := rfl
@[simp] theorem Ctx.setFloat_nextId (t : Ctx) (n v : Nat) : (t.setFloat n v).nextId = t.nextId := rfl
@[simp] theorem Ctx.setFloat_repeating (t : Ctx) (n v : Nat) : (t.setFloat n v).repeating = t.repeating := rfl
@[simp] theorem Ctx.setFloat_repi (t : Ctx) (n v : Nat) : (t.setFloat n v).repi = t.repi := rfl
@[simp] theorem Ctx.setFloat_gang (t : Ctx) (n v : Nat) : (t.setFloat n v).gang = t.gang := rfl
@[simp] theorem Ctx.setFloat_gangLid (t : Ctx) (n v : Nat) : (t.setFloat n v).gangLid = t.gangLid := rfl
@[simp] theorem Ctx.setFloat_waitOn (t : Ctx) (n v : Nat) : (t.setFloat n v).waitOn = t.waitOn := rfl
@[simp] theorem Ctx.setFloat_latch (t : Ctx) (n v : Nat) : (t.setFloat n v).latch = t.latch := rfl
@[simp] theorem Ctx.setFloat_deadline (t : Ctx) (n v : Nat) : (t.setFloat n v).deadline = t.deadline := rfl
@[simp] theorem Ctx.setFloat_acc (t : Ctx) (n v : Nat) : (t.setFloat n v).acc = t.acc := rfl
@[simp] theorem Ctx.setFloat_staging (t : Ctx) (n v : Nat) : (t.setFloat n v).staging = t.staging := rfl
@[simp] theorem Ctx.setFloat_replay (t : Ctx) (n v : Nat) : (t.setFloat n v).replay = t.replay := rfl
@[simp] theorem Ctx.setFloat_checks (t : Ctx) (n v : Nat) : (t.setFloat n v).checks = t.checks := rfl
@[simp] theorem Ctx.setFloat_unit (t : Ctx) (n v : Nat) : (t.setFloat n v).unit = t.unit := rfl
@[simp] theorem Ctx.setFloat_preqSince (t : Ctx) (n v : Nat) : (t.setFloat n v).preqSince = t.preqSince := rfl
@[simp] theorem Ctx.setFloat_save (t : Ctx) (n v : Nat) : (t.setFloat n v).save = t.save := rfl
@[simp] theorem Ctx.setScalar_state (t : Ctx) (r : Nat) (v : Word) : (t.setScalar r v).state = t.state := by
  unfold Ctx.setScalar; split <;> rfl
@[simp] theorem Ctx.setScalar_hi (t : Ctx) (r : Nat) (v : Word) : (t.setScalar r v).hi = t.hi := by
  unfold Ctx.setScalar; split <;> rfl
@[simp] theorem Ctx.setScalar_imaging (t : Ctx) (r : Nat) (v : Word) : (t.setScalar r v).imaging = t.imaging := by
  unfold Ctx.setScalar; split <;> rfl
@[simp] theorem Ctx.setScalar_pc (t : Ctx) (r : Nat) (v : Word) : (t.setScalar r v).pc = t.pc := by
  unfold Ctx.setScalar; split <;> rfl
@[simp] theorem Ctx.setScalar_ldq (t : Ctx) (r : Nat) (v : Word) : (t.setScalar r v).ldq = t.ldq := by
  unfold Ctx.setScalar; split <;> rfl
@[simp] theorem Ctx.setScalar_stq (t : Ctx) (r : Nat) (v : Word) : (t.setScalar r v).stq = t.stq := by
  unfold Ctx.setScalar; split <;> rfl
@[simp] theorem Ctx.setScalar_pool (t : Ctx) (r : Nat) (v : Word) : (t.setScalar r v).pool = t.pool := by
  unfold Ctx.setScalar; split <;> rfl
@[simp] theorem Ctx.setScalar_prec (t : Ctx) (r : Nat) (v : Word) : (t.setScalar r v).prec = t.prec := by
  unfold Ctx.setScalar; split <;> rfl
@[simp] theorem Ctx.setScalar_rmode (t : Ctx) (r : Nat) (v : Word) : (t.setScalar r v).rmode = t.rmode := by
  unfold Ctx.setScalar; split <;> rfl
@[simp] theorem Ctx.setScalar_satf (t : Ctx) (r : Nat) (v : Word) : (t.setScalar r v).satf = t.satf := by
  unfold Ctx.setScalar; split <;> rfl
@[simp] theorem Ctx.setScalar_oob (t : Ctx) (r : Nat) (v : Word) : (t.setScalar r v).oob = t.oob := by
  unfold Ctx.setScalar; split <;> rfl
@[simp] theorem Ctx.setScalar_hdr0 (t : Ctx) (r : Nat) (v : Word) : (t.setScalar r v).hdr0 = t.hdr0 := by
  unfold Ctx.setScalar; split <;> rfl
@[simp] theorem Ctx.setScalar_hdr1 (t : Ctx) (r : Nat) (v : Word) : (t.setScalar r v).hdr1 = t.hdr1 := by
  unfold Ctx.setScalar; split <;> rfl
@[simp] theorem Ctx.setScalar_launchId (t : Ctx) (r : Nat) (v : Word) : (t.setScalar r v).launchId = t.launchId := by
  unfold Ctx.setScalar; split <;> rfl
@[simp] theorem Ctx.setScalar_barRect (t : Ctx) (r : Nat) (v : Word) : (t.setScalar r v).barRect = t.barRect := by
  unfold Ctx.setScalar; split <;> rfl
@[simp] theorem Ctx.setScalar_barPh (t : Ctx) (r : Nat) (v : Word) : (t.setScalar r v).barPh = t.barPh := by
  unfold Ctx.setScalar; split <;> rfl
@[simp] theorem Ctx.setScalar_h (t : Ctx) (r : Nat) (v : Word) : (t.setScalar r v).h = t.h := by
  unfold Ctx.setScalar; split <;> rfl
@[simp] theorem Ctx.setScalar_windows (t : Ctx) (r : Nat) (v : Word) : (t.setScalar r v).windows = t.windows := by
  unfold Ctx.setScalar; split <;> rfl
@[simp] theorem Ctx.setScalar_pending (t : Ctx) (r : Nat) (v : Word) : (t.setScalar r v).pending = t.pending := by
  unfold Ctx.setScalar; split <;> rfl
@[simp] theorem Ctx.setScalar_nextId (t : Ctx) (r : Nat) (v : Word) : (t.setScalar r v).nextId = t.nextId := by
  unfold Ctx.setScalar; split <;> rfl
@[simp] theorem Ctx.setScalar_repeating (t : Ctx) (r : Nat) (v : Word) : (t.setScalar r v).repeating = t.repeating := by
  unfold Ctx.setScalar; split <;> rfl
@[simp] theorem Ctx.setScalar_repi (t : Ctx) (r : Nat) (v : Word) : (t.setScalar r v).repi = t.repi := by
  unfold Ctx.setScalar; split <;> rfl
@[simp] theorem Ctx.setScalar_gang (t : Ctx) (r : Nat) (v : Word) : (t.setScalar r v).gang = t.gang := by
  unfold Ctx.setScalar; split <;> rfl
@[simp] theorem Ctx.setScalar_gangLid (t : Ctx) (r : Nat) (v : Word) : (t.setScalar r v).gangLid = t.gangLid := by
  unfold Ctx.setScalar; split <;> rfl
@[simp] theorem Ctx.setScalar_waitOn (t : Ctx) (r : Nat) (v : Word) : (t.setScalar r v).waitOn = t.waitOn := by
  unfold Ctx.setScalar; split <;> rfl
@[simp] theorem Ctx.setScalar_latch (t : Ctx) (r : Nat) (v : Word) : (t.setScalar r v).latch = t.latch := by
  unfold Ctx.setScalar; split <;> rfl
@[simp] theorem Ctx.setScalar_deadline (t : Ctx) (r : Nat) (v : Word) : (t.setScalar r v).deadline = t.deadline := by
  unfold Ctx.setScalar; split <;> rfl
@[simp] theorem Ctx.setScalar_acc (t : Ctx) (r : Nat) (v : Word) : (t.setScalar r v).acc = t.acc := by
  unfold Ctx.setScalar; split <;> rfl
@[simp] theorem Ctx.setScalar_staging (t : Ctx) (r : Nat) (v : Word) : (t.setScalar r v).staging = t.staging := by
  unfold Ctx.setScalar; split <;> rfl
@[simp] theorem Ctx.setScalar_replay (t : Ctx) (r : Nat) (v : Word) : (t.setScalar r v).replay = t.replay := by
  unfold Ctx.setScalar; split <;> rfl
@[simp] theorem Ctx.setScalar_checks (t : Ctx) (r : Nat) (v : Word) : (t.setScalar r v).checks = t.checks := by
  unfold Ctx.setScalar; split <;> rfl
@[simp] theorem Ctx.setScalar_unit (t : Ctx) (r : Nat) (v : Word) : (t.setScalar r v).unit = t.unit := by
  unfold Ctx.setScalar; split <;> rfl
@[simp] theorem Ctx.setScalar_preqSince (t : Ctx) (r : Nat) (v : Word) : (t.setScalar r v).preqSince = t.preqSince := by
  unfold Ctx.setScalar; split <;> rfl
@[simp] theorem Ctx.setScalar_save (t : Ctx) (r : Nat) (v : Word) : (t.setScalar r v).save = t.save := by
  unfold Ctx.setScalar; split <;> rfl

/-! ## Reading back -/

@[simp] theorem State.core_setCore (s : State) (k : Nat) (x : Core) : (s.setCore k x).core k = x :=
  Tab.get_put_same _ _ _ _

theorem State.core_setCore_other (s : State) (k j : Nat) (x : Core) (h : j ≠ k) : (s.setCore k x).core j = s.core j :=
  Tab.get_put_other _ _ _ _ _ h

@[simp] theorem State.core_modCore (s : State) (k : Nat) (g : Core → Core) : (s.modCore k g).core k = g (s.core k) :=
  Tab.get_put_same _ _ _ _

theorem State.core_modCore_other (s : State) (k j : Nat) (g : Core → Core) (h : j ≠ k) :
    (s.modCore k g).core j = s.core j := Tab.get_put_other _ _ _ _ _ h

@[simp] theorem Core.ctx_setCtx (x : Core) (c : Nat) (t : Ctx) : (x.setCtx c t).ctx c = t := Tab.get_put_same _ _ _ _

theorem Core.ctx_setCtx_other (x : Core) (c d : Nat) (t : Ctx) (h : d ≠ c) : (x.setCtx c t).ctx d = x.ctx d :=
  Tab.get_put_other _ _ _ _ _ h

@[simp] theorem Core.bump_ctx (x : Core) (g i n c : Nat) : (x.bump g i n).ctx c = x.ctx c := rfl

@[simp] theorem State.core_setCtx (s : State) (k c : Nat) (t : Ctx) : (s.setCtx k c t).core k = (s.core k).setCtx c t :=
  Tab.get_put_same _ _ _ _

theorem State.core_setCtx_other (s : State) (k j c : Nat) (t : Ctx) (h : j ≠ k) : (s.setCtx k c t).core j = s.core j :=
  Tab.get_put_other _ _ _ _ _ h

@[simp] theorem State.ctx_setCtx (s : State) (k c : Nat) (t : Ctx) : (s.setCtx k c t).ctx k c = t := by
  simp [State.ctx]

theorem State.ctx_setCtx_other (s : State) (k c j d : Nat) (t : Ctx) (h : j ≠ k ∨ d ≠ c) :
    (s.setCtx k c t).ctx j d = s.ctx j d := by
  by_cases e : j = k
  · subst e
    simp only [State.ctx, State.core_setCtx]
    exact Core.ctx_setCtx_other _ _ _ _ (h.resolve_left (fun hn => hn rfl))
  · simp only [State.ctx, State.core_setCtx_other _ _ _ _ _ e]

@[simp] theorem State.ctx_modCtx (s : State) (k c : Nat) (g : Ctx → Ctx) : (s.modCtx k c g).ctx k c = g (s.ctx k c) :=
  State.ctx_setCtx _ _ _ _

theorem State.ctx_modCtx_other (s : State) (k c j d : Nat) (g : Ctx → Ctx) (h : j ≠ k ∨ d ≠ c) :
    (s.modCtx k c g).ctx j d = s.ctx j d := State.ctx_setCtx_other _ _ _ _ _ _ h

@[simp] theorem State.core_modCtx (s : State) (k c : Nat) (g : Ctx → Ctx) :
    (s.modCtx k c g).core k = (s.core k).setCtx c (g (s.ctx k c)) := State.core_setCtx _ _ _ _

theorem State.core_modCtx_other (s : State) (k j c : Nat) (g : Ctx → Ctx) (h : j ≠ k) :
    (s.modCtx k c g).core j = s.core j := State.core_setCtx_other _ _ _ _ _ h

@[simp] theorem State.die_modDie (s : State) (d : Nat) (g : Die → Die) : (s.modDie d g).die d = g (s.die d) :=
  Tab.get_put_same _ _ _ _

theorem State.die_modDie_other (s : State) (d e : Nat) (g : Die → Die) (h : e ≠ d) : (s.modDie d g).die e = s.die e :=
  Tab.get_put_other _ _ _ _ _ h

@[simp] theorem Ctx.scalar_zero (t : Ctx) : t.scalar 0 = 0 := rfl

@[simp] theorem Ctx.setScalar_zero (t : Ctx) (v : Word) : t.setScalar 0 v = t := rfl

theorem Ctx.scalar_setScalar (t : Ctx) (r q : Nat) (v : Word) (h : r ≠ 0) :
    (t.setScalar r v).scalar q = if q = r then v else t.scalar q := by
  simp only [Ctx.setScalar, if_neg h, Ctx.scalar, Tab.get_put]
  by_cases e : q = r
  · subst e; simp [h]
  · simp [e]

theorem Ctx.handle_setHandle (t : Ctx) (r q : Nat) (v : HandleBits) :
    (t.setHandle r v).handle q = if q = r then v else t.handle q := Tab.get_put _ _ _ _ _

end Sys2Proof.Machine
end

