-- ==== Sys2Proof/Laws/Ops.lean ====
section
/-! SUPPORT. What the shared operations answer, once each: running a meaning, reading and writing scalar registers,
retiring, waiting and taking an exception. -/

namespace Sys2Proof.Machine

/-! ## Running a meaning -/

theorem M.run_pure {α : Type} (a : α) (s : State) : (pure a : M α).run s = .ok (a, s) := rfl

theorem M.run_bind_ok {α β : Type} {m : M α} {f : α → M β} {s s' : State} {a : α} (h : m.run s = .ok (a, s')) :
    (m >>= f).run s = (f a).run s' := by
  simp only [StateT.run_bind, h]; rfl

theorem M.run_bind_error {α β : Type} {m : M α} {f : α → M β} {s : State} {e : Stop} (h : m.run s = .error e) :
    (m >>= f).run s = .error e := by
  simp only [StateT.run_bind, h]; rfl

theorem M.run_get (s : State) : (get : M State).run s = .ok (s, s) := rfl

theorem M.run_set (t s : State) : (set t : M PUnit).run s = .ok ((), t) := rfl

theorem M.run_modify (f : State → State) (s : State) : (modify f : M PUnit).run s = .ok ((), f s) := rfl

theorem M.run_raise {α : Type} (t : Trap) (s : State) : (raise t : M α).run s = .error (.trap t) := rfl

theorem M.run_pause {α : Type} (w : WaitOn) (s : State) : (pause w : M α).run s = .error (.wait w) := rfl

theorem runM_ok {body : M Unit} {s s' : State} {u : Unit} (h : body.run s = .ok (u, s')) : runM body s = .next s' := by
  simp only [runM, h]

theorem runM_error {body : M Unit} {s : State} {e : Stop} (h : body.run s = .error e) :
    runM body s = .next (e.outcome s) := by
  simp only [runM, h]

theorem runM_next (body : M Unit) (s : State) : ∃ t, runM body s = .next t := by
  unfold runM; split <;> exact ⟨_, rfl⟩

theorem runEvent_ok {body : M Unit} {s s' : State} {u : Unit} (h : body.run s = .ok (u, s')) :
    runEvent body s = .next s' := by
  simp only [runEvent, h]

theorem runEvent_wait {body : M Unit} {s : State} {w : WaitOn} (h : body.run s = .error (.wait w)) :
    runEvent body s = .next s := by
  simp only [runEvent, h]

theorem runEvent_next (body : M Unit) (s : State) : ∃ t, runEvent body s = .next t := by
  unfold runEvent; split <;> exact ⟨_, rfl⟩

/-! ## The holder of the slot -/

theorem here_run (s : State) : here.run s = .ok ((s.iss.core, s.iss.ctx), s) := rfl

theorem myCtx_run (s : State) : myCtx.run s = .ok (s.ctx s.iss.core s.iss.ctx, s) := rfl

theorem myCore_run (s : State) : myCore.run s = .ok (s.core s.iss.core, s) := rfl

theorem modMyCtx_run (f : Ctx → Ctx) (s : State) :
    (modMyCtx f).run s = .ok ((), s.modCtx s.iss.core s.iss.ctx f) := rfl

theorem modMyCore_run (f : Core → Core) (s : State) :
    (modMyCore f).run s = .ok ((), s.modCore s.iss.core f) := rfl

theorem draw_run (s : State) : draw.run s = .ok (s.drawn, { s with drawn := s.drawn + 1 }) := rfl

/-! ## Scalar registers -/

/-- A field other than 60 reads the register and changes nothing (R115, R116). -/
theorem readS_run (r : BitVec 6) (s : State) (h : r ≠ 60#6) :
    (readS r).run s = .ok ((s.ctx s.iss.core s.iss.ctx).scalar r.toNat, s) := by
  simp only [readS, if_neg h]; rfl

/-- A read of 60 takes the head of the load-data queue (R119). -/
theorem readS_head (s : State) (e : LoadEntry) (rest : List LoadEntry) (v : Word)
    (hq : (s.ctx s.iss.core s.iss.ctx).ldq = e :: rest) (hv : e.value = some v) :
    (readS 60#6).run s = .ok (v, s.modCtx s.iss.core s.iss.ctx fun t => { t with ldq := rest }) := by
  have h : popLoad.run s = .ok (v, s.modCtx s.iss.core s.iss.ctx fun t => { t with ldq := rest }) := by
    unfold popLoad
    rw [M.run_bind_ok (myCtx_run s)]
    simp only [hq, hv]
    rfl
  simpa [readS] using h

/-- A read of 60 with an empty queue is the illegal-operand fault with subcode 1 (R119). -/
theorem readS_empty (s : State) (hq : (s.ctx s.iss.core s.iss.ctx).ldq = []) :
    (readS 60#6).run s = .error (.trap { cause := 0x04, info := word 1 }) := by
  have h : popLoad.run s = .error (.trap { cause := 0x04, info := word 1 }) := by
    unfold popLoad
    rw [M.run_bind_ok (myCtx_run s)]
    simp only [hq]
    rfl
  simpa [readS] using h

/-- A read of 60 whose head has not arrived waits for it (R119). -/
theorem readS_reserved (s : State) (e : LoadEntry) (rest : List LoadEntry)
    (hq : (s.ctx s.iss.core s.iss.ctx).ldq = e :: rest) (hv : e.value = none) :
    (readS 60#6).run s = .error (.wait .ldqHead) := by
  have h : popLoad.run s = .error (.wait .ldqHead) := by
    unfold popLoad
    rw [M.run_bind_ok (myCtx_run s)]
    simp only [hq, hv]
    rfl
  simpa [readS] using h

/-- A field other than 61 writes the register; a write of s0 is discarded (R116). -/
theorem writeS_run (r : BitVec 6) (v : Word) (s : State) (h : r ≠ 61#6) :
    (writeS r v).run s = .ok ((), s.modCtx s.iss.core s.iss.ctx fun t => t.setScalar r.toNat v) := by
  simp only [writeS, if_neg h]; rfl

/-- A write of 61 pushes onto the store-data queue (R120). -/
theorem writeS_push (v : Word) (s : State) (h : (s.ctx s.iss.core s.iss.ctx).pushed < 16) :
    (writeS 61#6 v).run s = .ok ((), s.modCtx s.iss.core s.iss.ctx fun t => { t with stq := t.stq ++ [v] }) := by
  have h' : (pushStore v).run s = .ok ((), s.modCtx s.iss.core s.iss.ctx fun t => { t with stq := t.stq ++ [v] }) := by
    unfold pushStore
    rw [M.run_bind_ok (myCtx_run s), if_pos h]
    rfl
  simpa [writeS] using h'

/-- A push onto a full store-data queue is the illegal-operand fault with subcode 3 (R120). -/
theorem writeS_full (v : Word) (s : State) (h : ¬(s.ctx s.iss.core s.iss.ctx).pushed < 16) :
    (writeS 61#6 v).run s = .error (.trap { cause := 0x04, info := word 3 }) := by
  have h' : (pushStore v).run s = .error (.trap { cause := 0x04, info := word 3 }) := by
    unfold pushStore
    rw [M.run_bind_ok (myCtx_run s), if_neg h]
    rfl
  simpa [writeS] using h'

/-! ## Retiring -/

theorem retireTo_run (next : Word) (s : State) : (retireTo next).run s = .ok ((), s.retiredTo next) := rfl

theorem retire_run (s : State) : retire.run s = .ok ((), s.retiredTo s.iss.next) := rfl

@[simp] theorem State.retiredTo_hbm (s : State) (next : Word) : (s.retiredTo next).hbm = s.hbm := by
  simp only [State.retiredTo]; split <;> rfl

@[simp] theorem State.retiredTo_dies (s : State) (next : Word) : (s.retiredTo next).dies = s.dies := by
  simp only [State.retiredTo]; split <;> rfl

@[simp] theorem State.retiredTo_retired (s : State) (next : Word) : (s.retiredTo next).iss.retired = true := rfl

theorem State.retiredTo_core (s : State) (next : Word) :
    (s.retiredTo next).core s.iss.core =
      ((s.core s.iss.core).setCtx s.iss.ctx ((s.ctx s.iss.core s.iss.ctx).retired next s.iss.forwarded)).bump 0 1 1 := by
  have two : ((s.modCtx s.iss.core s.iss.ctx fun t => t.retired next s.iss.forwarded).modCore s.iss.core
      fun x => x.bump 0 1 1).core s.iss.core =
      ((s.core s.iss.core).setCtx s.iss.ctx ((s.ctx s.iss.core s.iss.ctx).retired next s.iss.forwarded)).bump 0 1 1 := by
    rw [State.core_modCore, State.core_modCtx]
  simp only [State.retiredTo]
  split <;> exact two

theorem State.retiredTo_core_other (s : State) (next : Word) (k : Nat) (h : k ≠ s.iss.core) :
    (s.retiredTo next).core k = s.core k := by
  have two : ((s.modCtx s.iss.core s.iss.ctx fun t => t.retired next s.iss.forwarded).modCore s.iss.core
      fun x => x.bump 0 1 1).core k = s.core k := by
    rw [State.core_modCore_other _ _ _ _ h, State.core_modCtx_other _ _ _ _ _ h]
  simp only [State.retiredTo]
  split <;> exact two

/-! ## Stopping -/

@[simp] theorem State.enterWait_hbm (s : State) (w : WaitOn) : (s.enterWait w).hbm = s.hbm := rfl

@[simp] theorem State.enterWait_dies (s : State) (w : WaitOn) : (s.enterWait w).dies = s.dies := rfl

@[simp] theorem State.enterWait_iss (s : State) (w : WaitOn) : (s.enterWait w).iss = s.iss := rfl

end Sys2Proof.Machine
end

