-- ==== Sys2Proof/Laws/Spans.lean ====
section
/-! SUPPORT. What a span does whose pages all lie in this package (R378, R425): reading it gives the bytes of its places
and changes nothing but the memory-side caches; writing it succeeds. -/

namespace Sys2Proof.Machine

theorem State.touch_cores (s : State) (pa : Nat) (b : Bool) : (s.touch pa b).cores = s.cores := by
  unfold State.touch
  split <;> rfl

/-- The memory-side caches lie outside the cores. -/
theorem State.touchAll_cores (s : State) (b : Bool) (pas : List Nat) : (s.touchAll b pas).cores = s.cores := by
  unfold State.touchAll
  induction (pas.map (· / 64)).eraseDups generalizing s with
  | nil => rfl
  | cons l ls ih => rw [List.foldl_cons, ih, State.touch_cores]

theorem State.touchAll_core (s : State) (b : Bool) (pas : List Nat) (k : Nat) : (s.touchAll b pas).core k = s.core k := by
  unfold State.core
  rw [State.touchAll_cores]

/-- The translator maps the `n` bytes from `va` on to those from `pa` on, and its tables do not move. -/
def Maps (tr : Translator) (acc : Access) (s : State) (va pa n : Nat) : Prop :=
  va % 4096 = pa % 4096 ∧ ∀ a, va ≤ a → a < va + n → (tr a acc).run s = .ok (.ok (.here (a - va + pa)), s)

/-- The references of the bytes of the package from `pa` on. -/
def hbmRefs (pa n : Nat) : List ByteRef := (upFrom pa n).map ByteRef.hbm

theorem spanRefs_maps {tr : Translator} {acc : Access} {s : State} {va pa N : Nat} (h : Maps tr acc s va pa N) (n : Nat) :
    ∀ a last, va ≤ a → a + n ≤ va + N →
      (last = none ∨ ∃ b, va ≤ b ∧ last = some (b / 4096, .here (b - va + pa))) →
      (spanRefs tr acc last n a).run s = .ok ((hbmRefs (a - va + pa) n, none), s) := by
  induction n with
  | zero => intro a last _ _ _; rfl
  | succ n ih =>
    intro a last h1 h2 h3
    have hm := h.1
    have e2 : a + 1 - va + pa = a - va + pa + 1 := by omega
    have rest : ∀ b, va ≤ b → b / 4096 = a / 4096 →
        (do
          let (rs, e) ← spanRefs tr acc (some (a / 4096, Place.here (b - va + pa))) n (a + 1)
          pure ((Place.here (b - va + pa)).byte a :: rs, e) : M (List ByteRef × Option (Nat × Nat))).run s =
        .ok ((hbmRefs (a - va + pa) (n + 1), none), s) := by
      intro b hb e
      have e1 : (Place.here (b - va + pa)).byte a = .hbm (a - va + pa) := by
        simp only [Place.byte, ByteRef.hbm.injEq]; omega
      rw [M.run_bind_ok (ih (a + 1) _ (by omega) (by omega) (.inr ⟨b, hb, by rw [e]⟩)), e1, e2]
      rfl
    rcases h3 with rfl | ⟨b, hb, rfl⟩
    · unfold spanRefs
      rw [M.run_bind_ok (h.2 a h1 (by omega))]
      exact rest a h1 rfl
    · by_cases e : b / 4096 = a / 4096
      · unfold spanRefs
        simp only [e, if_true]
        rw [M.run_bind_ok (show (pure (Except.ok (Place.here (b - va + pa))) : M (Except Nat Place)).run s =
          .ok (.ok (.here (b - va + pa)), s) from rfl)]
        exact rest b hb e
      · unfold spanRefs
        simp only [e, if_false]
        rw [M.run_bind_ok (h.2 a h1 (by omega))]
        exact rest a h1 rfl

theorem runsOf_hbm (l : List Nat) : ∀ i acc, runsOf (l.map ByteRef.hbm) i acc = acc := by
  induction l with
  | nil => intro i acc; rfl
  | cons o os ih => intro i acc; simp only [List.map_cons, runsOf, ih]

theorem refPas_hbm (l : List Nat) : refPas (l.map ByteRef.hbm) = l := by
  induction l with
  | nil => rfl
  | cons o os ih => simp [refPas]

theorem sourcesOf_hbm (l : List Nat) : sourcesOf (l.map ByteRef.hbm) [] = l.map Source.hbm := by
  unfold sourcesOf
  apply List.ext_getElem
  · simp
  · intro i h1 h2; simp

theorem needStacks_ready (refs : List ByteRef) (s : State) (h : ∀ pa, s.stackWaits pa = false) :
    (needStacks refs).run s = .ok ((), s) := by
  unfold needStacks
  rw [M.run_bind_ok (M.run_get s)]
  rw [List.find?_eq_none.mpr fun pa _ => by simp [h pa]]
  rfl

theorem spanData_hbm (o : Owner) (asid : Nat) (seen : Nat → Byte) (pa n : Nat) (s : State)
    (h : ∀ pa, s.stackWaits pa = false) : ∃ bad, (spanData o asid seen (hbmRefs pa n)).run s =
      .ok (.ok ((upFrom pa n).map seen, bad), s.touchAll true (upFrom pa n)) := by
  refine ⟨false || (refPas (hbmRefs pa n)).any (s.touchAll true (upFrom pa n)).badByte, ?_⟩
  unfold spanData
  rw [M.run_bind_ok (needStacks_ready _ s h)]
  simp only [nodeRuns, hbmRefs, runsOf_hbm, List.reverse_nil]
  rw [M.run_bind_ok (show (fetchSpan o asid []).run s = .ok (.ok ([], false), s) from rfl)]
  simp only [sourcesOf_hbm, refPas_hbm, List.map_map]
  rfl

theorem spanRead_maps {tr : Translator} {s : State} {va pa n : Nat} (h : Maps tr .read s va pa n) (o : Owner) (asid : Nat)
    (seen : Nat → Byte) (hs : ∀ pa, s.stackWaits pa = false) :
    ∃ bad, (spanRead tr o asid seen n va).run s =
      .ok (.ok ((upFrom pa n).map seen, bad), s.touchAll true (upFrom pa n)) := by
  obtain ⟨bad, hb⟩ := spanData_hbm o asid seen pa n s hs
  refine ⟨bad, ?_⟩
  have hr := spanRefs_maps h n va none (Nat.le_refl _) (Nat.le_refl _) (.inl rfl)
  rw [Nat.sub_self, Nat.zero_add] at hr
  unfold spanRead
  rw [M.run_bind_ok hr]
  exact hb

theorem readRecord_maps {k base pa n : Nat} {s : State} (h : Maps (coreMmu k (s.core k).asid.toNat) .read s base pa n)
    (hs : ∀ pa, s.stackWaits pa = false) (hm : s.mstWill k (hbmRefs pa n) = false) :
    (readRecord k base n).run s = .ok (some ((upFrom pa n).map (s.superSees k)), s.touchAll true (upFrom pa n)) := by
  obtain ⟨bad, hb⟩ := spanData_hbm (.core k) (s.core k).asid.toNat (s.superSees k) pa n s hs
  have hr := spanRefs_maps h n base none (Nat.le_refl _) (Nat.le_refl _) (.inl rfl)
  rw [Nat.sub_self, Nat.zero_add] at hr
  unfold readRecord
  rw [M.run_bind_ok (M.run_get s)]
  simp only []
  rw [M.run_bind_ok hr]
  simp only []
  rw [M.run_bind_ok (M.run_get s)]
  simp only [hm, Bool.false_eq_true, if_false]
  rw [M.run_bind_ok hb]
  rfl

theorem spanConfirm_maps {tr : Translator} {s : State} {va pa n : Nat} (h : Maps tr .write s va pa n) (o : Owner)
    (asid : Nat) : (spanConfirm tr o asid va n).run s = .ok (.ok (hbmRefs pa n), s) := by
  have hr := spanRefs_maps h n va none (Nat.le_refl _) (Nat.le_refl _) (.inl rfl)
  rw [Nat.sub_self, Nat.zero_add] at hr
  unfold spanConfirm
  rw [M.run_bind_ok hr]
  simp only [nodeRuns, hbmRefs, runsOf_hbm, List.reverse_nil]
  rfl

theorem spanStore_hbm (o : Owner) (asid pa : Nat) (data : List Byte) (s : State) (hs : ∀ pa, s.stackWaits pa = false) :
    (spanStore o asid (hbmRefs pa data.length) data).run s =
      .ok (0, s.writeHbm (localPairs (hbmRefs pa data.length) data)) := by
  unfold spanStore
  rw [M.run_bind_ok (needStacks_ready _ s hs)]
  simp only [nodeRuns, hbmRefs, runsOf_hbm, List.reverse_nil]
  rfl

theorem storeAscending_hbm (o : Owner) (asid pa : Nat) (data : List Byte) (s : State) :
    (storeAscending o asid (hbmRefs pa data.length) data 0 (nodeRuns (hbmRefs pa data.length))).run s =
      .ok (some 0, s.writeHbm (localPairs (hbmRefs pa data.length) data)) := by
  simp only [nodeRuns, hbmRefs, runsOf_hbm, List.reverse_nil]
  rfl

theorem spanWrite_maps {tr : Translator} {s : State} {va pa : Nat} (data : List Byte)
    (h : Maps tr .write s va pa data.length) (o : Owner) (asid : Nat) (hs : ∀ pa, s.stackWaits pa = false) :
    (spanWrite tr o asid va data).run s =
      .ok (.ok 0, s.writeHbm (localPairs (hbmRefs pa data.length) data)) := by
  unfold spanWrite
  rw [M.run_bind_ok (spanConfirm_maps h o asid)]
  simp only []
  rw [M.run_bind_ok (spanStore_hbm o asid pa data s hs)]
  rfl

end Sys2Proof.Machine
end

