-- ==== Sys2Proof/Laws/Transfer.lean ====
section
/-! SUPPORT. What a read in program order from the own tile answers (R219, R235, R237). -/

namespace Sys2Proof.Machine

theorem State.region_own (s : State) (k off : Nat) (h : off < 2 ^ 20) : s.region k (tileAddr off) = .tile k off := by
  have e : (tileAddr off).toNat = 0xF000000000000000 + off := by
    simp only [tileAddr, word, BitVec.toNat_ofNat]; omega
  have h1 : field (tileAddr off) 63 60 = 0xF := by simp only [field, e]; omega
  have h2 : field (tileAddr off) 59 20 = 0 := by simp only [field, e]; omega
  have h3 : field (tileAddr off) 19 0 = off := by simp only [field, e]; omega
  simp only [State.region, h1, h2, h3, if_true]

theorem tileAddr_succ (off : Nat) : tileAddr off + 1 = tileAddr (off + 1) := by
  apply BitVec.eq_of_toNat_eq
  have h : (1 : Word).toNat = 1 := rfl
  simp only [tileAddr, word, BitVec.toNat_add, BitVec.toNat_ofNat, h]
  omega

theorem refByte_own (k asid off : Nat) (acc : Access) (s : State) (h : off < 2 ^ 20) :
    (refByte k asid acc (tileAddr off)).run s = .ok (.ok (.tile k off), s) := by
  unfold refByte
  rw [M.run_bind_ok (M.run_get s)]
  simp only [State.region_own s k off h]
  rfl

theorem refBytes_own (k asid : Nat) (acc : Access) (s : State) (n : Nat) : ∀ off, off + n ≤ 2 ^ 20 →
    (refBytes k asid acc n (tileAddr off)).run s = .ok (((upFrom off n).map (ByteRef.tile k), none), s) := by
  induction n with
  | zero => intro off _; rfl
  | succ n ih =>
    intro off h
    unfold refBytes
    rw [M.run_bind_ok (refByte_own k asid off acc s (by omega))]
    simp only [tileAddr_succ]
    rw [M.run_bind_ok (ih (off + 1) (by omega))]
    rfl

theorem waitUntil_over (w : WaitOn) (s : State) (h : s.waitOver s.iss.core s.iss.ctx w = true) :
    (waitUntil w).run s = .ok ((), s) := by
  unfold waitUntil
  rw [M.run_bind_ok (M.run_get s)]
  simp only [h, if_true]
  rfl

theorem runsOf_own (k : Nat) (offs : List Nat) : ∀ i acc, runsOf (offs.map (ByteRef.tile k)) i acc = acc := by
  induction offs with
  | nil => intro i acc; rfl
  | cons o os ih => intro i acc; simp only [List.map_cons, runsOf, ih]

theorem refTiles_own (k : Nat) (offs : List Nat) : refTiles k (offs.map (ByteRef.tile k)) = offs := by
  induction offs with
  | nil => rfl
  | cons o os ih => simp [refTiles]

theorem refPas_own (k : Nat) (offs : List Nat) : refPas (offs.map (ByteRef.tile k)) = [] := by
  induction offs with
  | nil => rfl
  | cons o os ih => simp [refPas]

theorem sourcesOf_own (k : Nat) (offs : List Nat) :
    sourcesOf (offs.map (ByteRef.tile k)) [] = offs.map (Source.tile k) := by
  unfold sourcesOf
  apply List.ext_getElem
  · simp
  · intro i h1 h2; simp

theorem noteOutside_own (k c : Nat) (offs : List Nat) (s : State) :
    (noteOutside k c false (offs.map (ByteRef.tile k))).run s = .ok ((), s) := by
  unfold noteOutside
  dsimp only
  split
  · rfl
  · rename_i h
    obtain ⟨x, hx, hf⟩ := List.exists_of_findSome?_eq_some h
    obtain ⟨o, _, rfl⟩ := List.mem_map.mp hx
    simp at hf

theorem State.noteRead_good (s : State) (k : Nat) (offs : List Nat) (h : (s.core k).bad = []) : s.noteRead k offs = s := by
  simp [State.noteRead, h]

theorem State.noteSources_own (s : State) (k c seq : Nat) (offs : List Nat) (h : (s.core k).bad = []) :
    s.noteSources k c seq (offs.map (Source.tile k)) = s := by
  have h1 : ∀ l : List Nat, (∀ t ∈ l, t = k) →
      l.foldl (fun s t => s.noteRead t (tileOffs t (offs.map (Source.tile k)))) s = s := by
    intro l
    induction l with
    | nil => intro _; rfl
    | cons t ts ih =>
      intro hl
      have ht : t = k := hl t (by simp)
      simp only [List.foldl_cons, ht, State.noteRead_good s k _ h]
      exact ih fun u hu => hl u (by simp [hu])
  have h2 : ∀ t ∈ tilesOf (offs.map (Source.tile k)), t = k := by
    intro t ht
    simp only [tilesOf, List.mem_eraseDups, List.mem_filterMap, List.mem_map] at ht
    obtain ⟨a, ⟨o, _, rfl⟩, ha⟩ := ht
    simpa using ha.symm
  have h3 : s.badSource k c seq (offs.map (Source.tile k)) = none := by
    simp only [State.badSource, List.findSome?_eq_none_iff]
    intro x hx
    obtain ⟨o, _, rfl⟩ := List.mem_map.mp hx
    simp [State.tileFault, h]
  unfold State.noteSources
  simp only [h1 _ h2, h3]

theorem refNodes_own (k : Nat) (offs : List Nat) : refNodes (offs.map (ByteRef.tile k)) = [] := by
  induction offs with
  | nil => rfl
  | cons o os ih => simp [refNodes]

theorem sourcePas_own (k : Nat) (offs : List Nat) : sourcePas (offs.map (Source.tile k)) = [] := by
  induction offs with
  | nil => rfl
  | cons o os ih => simp [sourcePas]

theorem farSources_own (k : Nat) (offs : List Nat) : farSources k (offs.map (Source.tile k)) = [] := by
  induction offs with
  | nil => rfl
  | cons o os ih => simp [farSources]

theorem Ctx.olderReads_nil (t : Ctx) (seq : Nat) : t.olderReads seq [] = false := by
  simp [Ctx.olderReads]

theorem readNow_own (k c seq : Nat) (offs : List Nat) (s : State) (h : (s.core k).bad = []) :
    (readNow k c seq (offs.map (Source.tile k))).run s = .ok (offs.map (s.tileByte k), s) := by
  have h2 : s.readSources k c seq (offs.map (Source.tile k)) = offs.map (s.tileByte k) := by
    simp [State.readSources, sourcePas_own, h]
  unfold readNow
  rw [M.run_bind_ok (M.run_get s)]
  split
  · rename_i h1
    obtain ⟨x, hx, hf⟩ := List.exists_of_findSome?_eq_some h1
    obtain ⟨o, _, rfl⟩ := List.mem_map.mp hx
    simp at hf
  · simp only [h2, State.noteSources_own s k c seq offs h, sourcePas_own]
    rfl

/-- Bytes of the own tile that no queued instruction will write: the tile's bytes, and
nothing changes. -/
theorem readBytes_own (s : State) (off n : Nat) (h : off + n ≤ 2 ^ 20)
    (hw : s.waitOver s.iss.core s.iss.ctx (.laneReads (upFrom off n)) = true) (hb : (s.core s.iss.core).bad = []) :
    (readBytes n (tileAddr off)).run s = .ok ((upFrom off n).map (s.tileByte s.iss.core), s) := by
  have ha : (accessRefs .read n (tileAddr off) false).run s = .ok ((upFrom off n).map (ByteRef.tile s.iss.core), s) := by
    unfold accessRefs
    rw [M.run_bind_ok (here_run s), M.run_bind_ok (show myAsid.run s = .ok ((s.core s.iss.core).asid.toNat, s) from rfl),
      M.run_bind_ok (refBytes_own _ _ _ s n off h)]
    rfl
  have hr : (readRefs (tileAddr off) ((upFrom off n).map (ByteRef.tile s.iss.core))).run s =
      .ok ((upFrom off n).map (Source.tile s.iss.core), s) := by
    have hwait : (awaitReads ((upFrom off n).map (ByteRef.tile s.iss.core))).run s = .ok ((), s) := by
      unfold awaitReads
      rw [M.run_bind_ok (here_run s)]
      simp only [refTiles_own, refPas_own, refNodes_own]
      rw [M.run_bind_ok (waitUntil_over _ s hw)]
      rw [M.run_bind_ok (waitUntil_over _ s rfl)]
      exact waitUntil_over _ s rfl
    have hrem : ∀ asid, (remoteData asid (tileAddr off) ((upFrom off n).map (ByteRef.tile s.iss.core))).run s =
        .ok ([], s) := by
      intro asid
      unfold remoteData
      rw [M.run_bind_ok (here_run s)]
      simp only [nodeRuns, runsOf_own, List.reverse_nil]
      rfl
    unfold readRefs
    rw [M.run_bind_ok (here_run s), M.run_bind_ok (show myAsid.run s = .ok ((s.core s.iss.core).asid.toNat, s) from rfl),
      M.run_bind_ok hwait, M.run_bind_ok (hrem _), M.run_bind_ok (noteOutside_own _ _ _ s), sourcesOf_own]
    rfl
  unfold readBytes
  rw [M.run_bind_ok (here_run s), M.run_bind_ok ha, M.run_bind_ok (M.run_get s)]
  simp only [sourcesOf_own, farSources_own, Ctx.olderReads_nil]
  rw [if_neg (by decide), M.run_bind_ok hr, M.run_bind_ok (M.run_get s)]
  exact readNow_own _ _ _ _ s hb

end Sys2Proof.Machine
end

