-- ==== Sys2Proof/Tests/Slice0.lean ====
section
/-! SUPPORT. Tests: ill-formed terms that the checks refuse, the words of the spec's encodings, and for each statement a
state and operands that meet its hypotheses together. A word is written out from the encoding of spec/03_encoding.md and
spec/opcode_table.json; an expected value is the spec's table or worked out by hand from its rule. -/

set_option Elab.async false

namespace Sys2Proof.Tests

open Sys2Proof.Machine Sys2Proof.Claims

/-! ## Well-formedness: for each check a term that it refuses (R97, R107) -/

theorem test_source_is_not_stq : (Instr.add 1 61 2).illForm = some .scalarField := by decide
theorem test_dest_is_not_ldq : (Instr.add 60 1 2).illForm = some .scalarField := by decide
theorem test_load_may_name_ldq : (Instr.ldD 60 1 2 0).wf = true := by decide
theorem test_zero_halfword : (Instr.vadd16 0 0).illForm = some .zeroHalfword := by decide
theorem test_shift_count : (Instr.shli 1 2 64).illForm = some .shiftCount ∧ (Instr.shli 1 2 63).wf = true := by decide
theorem test_lea_selector : (Instr.lea 1 2 0xA0).illForm = some .leaSelector ∧ (Instr.lea 1 2 0x9F).wf = true := by decide
theorem test_word_index : (Instr.fmvX 1 2 2).illForm = some .wordIndex := by decide
theorem test_length_code : (Instr.fldr 1 2 15).illForm = some .lengthCode ∧ (Instr.setprecKeep 1 2 3).illForm =
    some .lengthCode := by decide
theorem test_handle_selector : (Instr.hget 1 2 6).illForm = some .handleSelector := by decide
theorem test_scope_code : (Instr.acq 1 11).illForm = some .scopeCode := by decide
theorem test_csr_number : (Instr.mtc 1 0x00C).illForm = some .csrNumber := by decide
theorem test_csr_form : (Instr.mfc 0 0x001).illForm = some .csrForm := by decide
theorem test_mode_field : (Instr.tlbpin 1 2 2).illForm = some .modeField := by decide

/-- What R107 refuses at decode. -/
theorem test_illegal_words : decode (.short 0x8006#16) = .error .reservedShort ∧
    decode (.short 0x6066#16) = .error .laneVariant ∧ decode (.long 0x0000001B#32) = .error .reserved ∧
    decode (.long 0x00000311#32) = .error .reserved ∧ decode (.long 0x000000FF#32) = .error .permanentlyIllegal ∧
    decode (.long 0x00001E01#32) = .error (.illFormed .scalarField) := by decide +kernel

/-! ## Words, written out from the encodings of the spec -/

/-- The words of major 0x00 (R96, R104). -/
def words00 : List (BitVec 32 × Instr) := [
  (0b00000000000110000100000010000001#32, .add 1 2 3),
  (0b00000010000110000100000010000001#32, .sub 1 2 3),
  (0b00000100000110000100000010000001#32, .mul 1 2 3),
  (0b00000110000110000100000010000001#32, .mulh 1 2 3),
  (0b00001000000110000100000010000001#32, .mulhu 1 2 3),
  (0b00001010000110000100000010000001#32, .div 1 2 3),
  (0b00001100000110000100000010000001#32, .divu 1 2 3),
  (0b00001110000110000100000010000001#32, .rem 1 2 3),
  (0b00010000000110000100000010000001#32, .remu 1 2 3),
  (0b00010010000110000100000010000001#32, .and 1 2 3),
  (0b00010100000110000100000010000001#32, .or 1 2 3),
  (0b00010110000110000100000010000001#32, .xor 1 2 3),
  (0b00011000000110000100000010000001#32, .andn 1 2 3),
  (0b00011010000110000100000010000001#32, .shl 1 2 3),
  (0b00011100000110000100000010000001#32, .shr 1 2 3),
  (0b00011110000110000100000010000001#32, .sar 1 2 3),
  (0b00100000000110000100000010000001#32, .rol 1 2 3),
  (0b00100010000110000100000010000001#32, .min 1 2 3),
  (0b00100100000110000100000010000001#32, .max 1 2 3),
  (0b00100110000110000100000010000001#32, .minu 1 2 3),
  (0b00101000000110000100000010000001#32, .maxu 1 2 3),
  (0b00101010000110000100000010000001#32, .slt 1 2 3),
  (0b00101100000110000100000010000001#32, .sltu 1 2 3),
  (0b00101110000110000100000010000001#32, .seq 1 2 3),
  (0b00110000000110000100000010000001#32, .sel 1 2 3),
  (0b00110010000000000100000010000001#32, .clz 1 2),
  (0b00110100000000000100000010000001#32, .ctz 1 2),
  (0b00110110000000000100000010000001#32, .popc 1 2),
  (0b00111000000110000100000010000001#32, .bext 1 2 3),
  (0b00111010000110000100000010000001#32, .bins 1 2 3)]

theorem test_decode_major_00 : words00.all (fun p => decide (decode (.long p.1) = .ok p.2)) = true := by decide +kernel

/-- The words of major 0x01 (R96, R104). -/
def words01 : List (BitVec 32 × Instr) := [
  (0b00000000001110000100000010000011#32, .shli 1 2 7),
  (0b00001000001110000100000010000011#32, .shri 1 2 7),
  (0b00010000001110000100000010000011#32, .sari 1 2 7),
  (0b00011100000110000100000010000011#32, .lea 1 2 131)]

theorem test_decode_major_01 : words01.all (fun p => decide (decode (.long p.1) = .ok p.2)) = true := by decide +kernel

/-- The words of major 0x02 (R96, R104). -/
def words02 : List (BitVec 32 × Instr) := [
  (0b11111111111100000100000010000101#32, .addi 1 2 (-2))]

theorem test_decode_major_02 : words02.all (fun p => decide (decode (.long p.1) = .ok p.2)) = true := by decide +kernel

/-- The words of major 0x03 (R96, R104). -/
def words03 : List (BitVec 32 × Instr) := [
  (0b11111111111100000100000010000111#32, .andi 1 2 (-2))]

theorem test_decode_major_03 : words03.all (fun p => decide (decode (.long p.1) = .ok p.2)) = true := by decide +kernel

/-- The words of major 0x04 (R96, R104). -/
def words04 : List (BitVec 32 × Instr) := [
  (0b11111111111100000100000010001001#32, .ori 1 2 (-2))]

theorem test_decode_major_04 : words04.all (fun p => decide (decode (.long p.1) = .ok p.2)) = true := by decide +kernel

/-- The words of major 0x05 (R96, R104). -/
def words05 : List (BitVec 32 × Instr) := [
  (0b11111111111100000100000010001011#32, .xori 1 2 (-2))]

theorem test_decode_major_05 : words05.all (fun p => decide (decode (.long p.1) = .ok p.2)) = true := by decide +kernel

/-- The words of major 0x06 (R96, R104). -/
def words06 : List (BitVec 32 × Instr) := [
  (0b11111111111100000100000010001101#32, .slti 1 2 (-2))]

theorem test_decode_major_06 : words06.all (fun p => decide (decode (.long p.1) = .ok p.2)) = true := by decide +kernel

/-- The words of major 0x07 (R96, R104). -/
def words07 : List (BitVec 32 × Instr) := [
  (0b11111111111111111100000010001111#32, .lui 1 (-2))]

theorem test_decode_major_07 : words07.all (fun p => decide (decode (.long p.1) = .ok p.2)) = true := by decide +kernel

/-- The words of major 0x08 (R96, R104). -/
def words08 : List (BitVec 32 × Instr) := [
  (0b11111111111111100000100000010001#32, .bEq 2 (-2)),
  (0b11111111111111100000100010010001#32, .bNe 2 (-2)),
  (0b11111111111111100000100100010001#32, .bLt 2 (-2)),
  (0b11111111111111100000100110010001#32, .bGe 2 (-2)),
  (0b11111111111111100000101000010001#32, .bLtu 2 (-2)),
  (0b11111111111111100000101010010001#32, .bGeu 2 (-2))]

theorem test_decode_major_08 : words08.all (fun p => decide (decode (.long p.1) = .ok p.2)) = true := by decide +kernel

/-- The words of major 0x09 (R96, R104). -/
def words09 : List (BitVec 32 × Instr) := [
  (0b11111111111111111111111100010011#32, .j (-2))]

theorem test_decode_major_09 : words09.all (fun p => decide (decode (.long p.1) = .ok p.2)) = true := by decide +kernel

/-- The words of major 0x0A (R96, R104). -/
def words0A : List (BitVec 32 × Instr) := [
  (0b11111111111111111111111100010101#32, .jal (-2))]

theorem test_decode_major_0A : words0A.all (fun p => decide (decode (.long p.1) = .ok p.2)) = true := by decide +kernel

/-- The words of major 0x0B (R96, R104). -/
def words0B : List (BitVec 32 × Instr) := [
  (0b11111111111100000100000010010111#32, .jalr 1 2 (-2))]

theorem test_decode_major_0B : words0B.all (fun p => decide (decode (.long p.1) = .ok p.2)) = true := by decide +kernel

/-- The words of major 0x0C (R96, R104). -/
def words0C : List (BitVec 32 × Instr) := [
  (0b00000000001110000000000010011001#32, .ldk 1 7),
  (0b00001000001110000100000010011001#32, .addk 1 2 7)]

theorem test_decode_major_0C : words0C.all (fun p => decide (decode (.long p.1) = .ok p.2)) = true := by decide +kernel

/-- The words of major 0x10 (R96, R104). -/
def words10 : List (BitVec 32 × Instr) := [
  (0b00000000000110000100000010100001#32, .fadd 1 2 3),
  (0b00000010000110000100000010100001#32, .fsub 1 2 3),
  (0b00000100000110000100000010100001#32, .fmul 1 2 3),
  (0b00000110000110000100000010100001#32, .fdiv 1 2 3),
  (0b00001000000110000100000010100001#32, .ffma 1 2 3),
  (0b00001010000110000100000010100001#32, .fnma 1 2 3),
  (0b00001100000110000100000010100001#32, .fmin 1 2 3),
  (0b00001110000110000100000010100001#32, .fmax 1 2 3)]

theorem test_decode_major_10 : words10.all (fun p => decide (decode (.long p.1) = .ok p.2)) = true := by decide +kernel

/-- The words of major 0x11 (R96, R104). -/
def words11 : List (BitVec 32 × Instr) := [
  (0b00000000000000000100000010100011#32, .fsqrt 1 2),
  (0b00000010000000000100000010100011#32, .fneg 1 2),
  (0b00000100000000000100000010100011#32, .fabs 1 2),
  (0b00000110000000000100000010100011#32, .fclass 1 2),
  (0b00001000000000000100000010100011#32, .fround 1 2),
  (0b00001010000010000100000010100011#32, .fmvX 1 2 1),
  (0b00001100000010000100000010100011#32, .fmvF 1 2 1),
  (0b00001110000110000100000010100011#32, .fcmpEq 1 2 3),
  (0b00101110000110000100000010100011#32, .fcmpLt 1 2 3),
  (0b01001110000110000100000010100011#32, .fcmpLe 1 2 3),
  (0b01101110000110000100000010100011#32, .fcmpUn 1 2 3)]

theorem test_decode_major_11 : words11.all (fun p => decide (decode (.long p.1) = .ok p.2)) = true := by decide +kernel

/-- The words of major 0x12 (R96, R104). -/
def words12 : List (BitVec 32 × Instr) := [
  (0b00000000000000000100000010100101#32, .fcvtFS 1 2),
  (0b00000010000000000100000010100101#32, .fcvtFU 1 2),
  (0b00000100000000000100000010100101#32, .fcvtSF 1 2),
  (0b00000110000000000100000010100101#32, .fcvtUF 1 2),
  (0b00001000000000000100000010100101#32, .fcvtFH 1 2),
  (0b00001010000000000100000010100101#32, .fcvtHF 1 2),
  (0b00001100000000000100000010100101#32, .fcvtFBf 1 2),
  (0b00001110000000000100000010100101#32, .fcvtBfF 1 2),
  (0b00010000000000000100000010100101#32, .fcvtFW 1 2),
  (0b00010010000000000100000010100101#32, .fcvtWF 1 2),
  (0b00010100000000000100000010100101#32, .fcvtFD 1 2),
  (0b00010110000000000100000010100101#32, .fcvtDF 1 2)]

theorem test_decode_major_12 : words12.all (fun p => decide (decode (.long p.1) = .ok p.2)) = true := by decide +kernel

/-- The words of major 0x13 (R96, R104). -/
def words13 : List (BitVec 32 × Instr) := [
  (0b11111111111100000100000010100111#32, .fld 1 2 (-2))]

theorem test_decode_major_13 : words13.all (fun p => decide (decode (.long p.1) = .ok p.2)) = true := by decide +kernel

/-- The words of major 0x14 (R96, R104). -/
def words14 : List (BitVec 32 × Instr) := [
  (0b11111111111100000100000010101001#32, .fst 1 2 (-2))]

theorem test_decode_major_14 : words14.all (fun p => decide (decode (.long p.1) = .ok p.2)) = true := by decide +kernel

/-- The words of major 0x15 (R96, R104). -/
def words15 : List (BitVec 32 × Instr) := [
  (0b00000000001110000100000010101011#32, .fldr 1 2 7),
  (0b00001000001110000100000010101011#32, .fstr 1 2 7)]

theorem test_decode_major_15 : words15.all (fun p => decide (decode (.long p.1) = .ok p.2)) = true := by decide +kernel

/-- The words of major 0x16 (R96, R104). -/
def words16 : List (BitVec 32 × Instr) := [
  (0b00000000001110000000000010101101#32, .setprecKeep 1 0 7),
  (0b00001000001110000000000010101101#32, .setprecClear 1 0 7),
  (0b00010000000000000000000010101101#32, .getprec 1)]

theorem test_decode_major_16 : words16.all (fun p => decide (decode (.long p.1) = .ok p.2)) = true := by decide +kernel

/-- The words of major 0x18 (R96, R104). -/
def words18 : List (BitVec 32 × Instr) := [
  (0b01010000001000000000000010110001#32, .hld 1 4 5),
  (0b01010010001000000000000010110001#32, .hst 1 4 5),
  (0b01010100001000000001000010110001#32, .hadv 1 2 4 5),
  (0b01010110001000000001000010110001#32, .hdim 1 2 4 5)]

theorem test_decode_major_18 : words18.all (fun p => decide (decode (.long p.1) = .ok p.2)) = true := by decide +kernel

/-- The words of major 0x19 (R96, R104). -/
def words19 : List (BitVec 32 × Instr) := [
  (0b00000000011000000100000010110011#32, .hset 1 2 12),
  (0b00001000011000000100000010110011#32, .hget 1 2 12)]

theorem test_decode_major_19 : words19.all (fun p => decide (decode (.long p.1) = .ok p.2)) = true := by decide +kernel

/-- The words of major 0x1C (R96, R104). -/
def words1C : List (BitVec 32 × Instr) := [
  (0b01010000000000011001000010111001#32, .vadd 1 2 3 5),
  (0b01010010000000011001000010111001#32, .vsub 1 2 3 5),
  (0b01010100000000011001000010111001#32, .vmul 1 2 3 5),
  (0b01010110000000011001000010111001#32, .vfma 1 2 3 5),
  (0b01011000000000011001000010111001#32, .vmin 1 2 3 5),
  (0b01011010000000011001000010111001#32, .vmax 1 2 3 5),
  (0b01011100000000000001000010111001#32, .vabs 1 2 5),
  (0b01011110000000000001000010111001#32, .vneg 1 2 5)]

theorem test_decode_major_1C : words1C.all (fun p => decide (decode (.long p.1) = .ok p.2)) = true := by decide +kernel

/-- The words of major 0x1D (R96, R104). -/
def words1D : List (BitVec 32 × Instr) := [
  (0b01010000000000000001000010111011#32, .vcvt 1 2 5),
  (0b01010010000000011001000010111011#32, .vscale 1 2 3 5),
  (0b01010100000000000001000010111011#32, .vexp 1 2 5),
  (0b01010110000000000001000010111011#32, .vrcp 1 2 5),
  (0b01011000000000000001000010111011#32, .vcopy 1 2 5),
  (0b01011010000000000001000010111011#32, .vbcast 1 2 5),
  (0b01011100001000000001000010111011#32, .vredSum 1 2 4 5),
  (0b01011110001000000001000010111011#32, .vredMax 1 2 4 5)]

theorem test_decode_major_1D : words1D.all (fun p => decide (decode (.long p.1) = .ok p.2)) = true := by decide +kernel

/-- The words of major 0x1E (R96, R104). -/
def words1E : List (BitVec 32 × Instr) := [
  (0b01010000000000011001000010111101#32, .vand 1 2 3 5),
  (0b01010010000000011001000010111101#32, .vor 1 2 3 5),
  (0b01010100000000011001000010111101#32, .vxor 1 2 3 5),
  (0b01010110000000011001000010111101#32, .vshl 1 2 3 5),
  (0b01011000000000011001000010111101#32, .vshr 1 2 3 5),
  (0b01011010000000000001000010111101#32, .vrsqrt 1 2 5),
  (0b01011100000000000001000010111101#32, .vtanh 1 2 5),
  (0b01011110001000011001000010111101#32, .vcmp 1 2 3 4 5)]

theorem test_decode_major_1E : words1E.all (fun p => decide (decode (.long p.1) = .ok p.2)) = true := by decide +kernel

/-- The words of major 0x1F (R96, R104). -/
def words1F : List (BitVec 32 × Instr) := [
  (0b01010000001000011001000010111111#32, .vsel 1 2 3 4 5),
  (0b01010010001000000001000010111111#32, .vcompress 1 2 4 5),
  (0b01010100001000000001000010111111#32, .vexpand 1 2 4 5),
  (0b01010110000000011001000010111111#32, .vsp24 1 2 3 5),
  (0b01011000000000000001000010111111#32, .vsmx 1 2 5),
  (0b01011010001000000001000010111111#32, .vtopk 1 2 4 5),
  (0b01011100001000011001000010111111#32, .vgather 1 2 3 4 5),
  (0b01011110001000011001000010111111#32, .vscatter 1 2 3 4 5)]

theorem test_decode_major_1F : words1F.all (fun p => decide (decode (.long p.1) = .ok p.2)) = true := by decide +kernel

/-- The words of major 0x20 (R96, R104). -/
def words20 : List (BitVec 32 × Instr) := [
  (0b01010000001000000000000011000001#32, .viota 1 4 5),
  (0b01010010001000000001000011000001#32, .vcvtKeep 1 2 4 5)]

theorem test_decode_major_20 : words20.all (fun p => decide (decode (.long p.1) = .ok p.2)) = true := by decide +kernel

/-- The words of major 0x24 (R96, R104). -/
def words24 : List (BitVec 32 × Instr) := [
  (0b01010000000000000001000001001001#32, .mldW 2 5),
  (0b01010010000000000000000001001001#32, .mswap),
  (0b01010100001000000001000001001001#32, .mma 2 4 5),
  (0b01010110001000000000000011001001#32, .mst 1 4 5),
  (0b01011000000000000000000001001001#32, .mzero),
  (0b01011010001000000000000001001001#32, .mstat 4 5),
  (0b01011100001000000001000001001001#32, .mldR 2 4 5)]

theorem test_decode_major_24 : words24.all (fun p => decide (decode (.long p.1) = .ok p.2)) = true := by decide +kernel

/-- The words of major 0x28 (R96, R104). -/
def words28 : List (BitVec 32 × Instr) := [
  (0b01010000000110000100000011010001#32, .ldB 1 2 3 5),
  (0b01010010000110000100000011010001#32, .ldBu 1 2 3 5),
  (0b01010100000110000100000011010001#32, .ldH 1 2 3 5),
  (0b01010110000110000100000011010001#32, .ldHu 1 2 3 5),
  (0b01011000000110000100000011010001#32, .ldW 1 2 3 5),
  (0b01011010000110000100000011010001#32, .ldWu 1 2 3 5),
  (0b01011100000110000100000011010001#32, .ldD 1 2 3 5),
  (0b01011110000110000100000011010001#32, .ldNt 1 2 3 5)]

theorem test_decode_major_28 : words28.all (fun p => decide (decode (.long p.1) = .ok p.2)) = true := by decide +kernel

/-- The words of major 0x29 (R96, R104). -/
def words29 : List (BitVec 32 × Instr) := [
  (0b00000000000110000100000011010011#32, .stB 1 2 3),
  (0b00000010000110000100000011010011#32, .stH 1 2 3),
  (0b00000100000110000100000011010011#32, .stW 1 2 3),
  (0b00000110000110000100000011010011#32, .stD 1 2 3),
  (0b00001000000110000100000011010011#32, .stNt 1 2 3)]

theorem test_decode_major_29 : words29.all (fun p => decide (decode (.long p.1) = .ok p.2)) = true := by decide +kernel

/-- The words of major 0x2A (R96, R104). -/
def words2A : List (BitVec 32 × Instr) := [
  (0b00000000000110000100000001010101#32, .pf 2 3)]

theorem test_decode_major_2A : words2A.all (fun p => decide (decode (.long p.1) = .ok p.2)) = true := by decide +kernel

/-- The words of major 0x2B (R96, R104). -/
def words2B : List (BitVec 32 × Instr) := [
  (0b01010000000110000100000011010111#32, .amoAdd 1 2 3 5),
  (0b01010010000110000100000011010111#32, .amoAnd 1 2 3 5),
  (0b01010100000110000100000011010111#32, .amoOr 1 2 3 5),
  (0b01010110000110000100000011010111#32, .amoXor 1 2 3 5),
  (0b01011000000110000100000011010111#32, .amoMin 1 2 3 5),
  (0b01011010000110000100000011010111#32, .amoMax 1 2 3 5),
  (0b01011100000110000100000011010111#32, .amoMinu 1 2 3 5),
  (0b01011110000110000100000011010111#32, .amoMaxu 1 2 3 5)]

theorem test_decode_major_2B : words2B.all (fun p => decide (decode (.long p.1) = .ok p.2)) = true := by decide +kernel

/-- The words of major 0x2C (R96, R104). -/
def words2C : List (BitVec 32 × Instr) := [
  (0b01010000000110000100000011011001#32, .amoSwap 1 2 3 5),
  (0b01010010000110000100000011011001#32, .amoCas 1 2 3 5),
  (0b01010100000110000100000011011001#32, .amoFadd 1 2 3 5)]

theorem test_decode_major_2C : words2C.all (fun p => decide (decode (.long p.1) = .ok p.2)) = true := by decide +kernel

/-- The words of major 0x2D (R96, R104). -/
def words2D : List (BitVec 32 × Instr) := [
  (0b01010000001000000001000011011011#32, .copy 1 2 4 5),
  (0b01010010001000000001000011011011#32, .copyH 1 2 4 5),
  (0b01010100001000000001000011011011#32, .copyR 1 2 4 5)]

theorem test_decode_major_2D : words2D.all (fun p => decide (decode (.long p.1) = .ok p.2)) = true := by decide +kernel

/-- The words of major 0x30 (R96, R104). -/
def words30 : List (BitVec 32 × Instr) := [
  (0b00000000001110000100000001100001#32, .acq 2 7),
  (0b00001000001110000100000001100001#32, .rel 2 7),
  (0b00010000001110000000000001100001#32, .fence),
  (0b00011000001110000000000001100001#32, .drain)]

theorem test_decode_major_30 : words30.all (fun p => decide (decode (.long p.1) = .ok p.2)) = true := by decide +kernel

/-- The words of major 0x34 (R96, R104). -/
def words34 : List (BitVec 32 × Instr) := [
  (0b00000000000110000100000011101001#32, .send 1 2 3),
  (0b00000010000110000100000011101001#32, .sendHi 1 2 3),
  (0b00000100000110000100000011101001#32, .sendMc 1 2 3),
  (0b00000110000110000100000011101001#32, .sendComb 1 2 3),
  (0b00001000000110000100000011101001#32, .sendHold 1 2 3),
  (0b00001010000110000100000011101001#32, .dep 1 2 3),
  (0b00001100000110000100000011101001#32, .reply 1 2 3),
  (0b00001110000000000100000011101001#32, .msgld 1 2),
  (0b00010000000000000000000011101001#32, .commit 1),
  (0b00010010000000000000000011101001#32, .abort 1)]

theorem test_decode_major_34 : words34.all (fun p => decide (decode (.long p.1) = .ok p.2)) = true := by decide +kernel

/-- The words of major 0x35 (R96, R104). -/
def words35 : List (BitVec 32 × Instr) := [
  (0b00000000000110000100000011101011#32, .uewBuild 1 2 3),
  (0b00000010000000000100000011101011#32, .uewPost 1 2)]

theorem test_decode_major_35 : words35.all (fun p => decide (decode (.long p.1) = .ok p.2)) = true := by decide +kernel

/-- The words of major 0x38 (R96, R104). -/
def words38 : List (BitVec 32 × Instr) := [
  (0b00000000000110000100000001110001#32, .cntInc 2 3),
  (0b00000010000000000100000011110001#32, .cntRd 1 2),
  (0b00000100000110000100000011110001#32, .cntWait 1 2 3),
  (0b00000110000110000100000011110001#32, .launch 1 2 3),
  (0b00001000000000000100000011110001#32, .cancel 1 2)]

theorem test_decode_major_38 : words38.all (fun p => decide (decode (.long p.1) = .ok p.2)) = true := by decide +kernel

/-- The words of major 0x39 (R96, R104). -/
def words39 : List (BitVec 32 × Instr) := [
  (0b00000000000000000100000001110011#32, .barSet 2),
  (0b00000010000000000000000011110011#32, .barArrive 1),
  (0b00000100000000000100000001110011#32, .barWait 2),
  (0b00000110000000000100000011110011#32, .wtagAny 1 2),
  (0b00001000000000000100000011110011#32, .wtagAll 1 2),
  (0b00001010000000000100000011110011#32, .ffr 1 2),
  (0b00001100000000000100000001110011#32, .tagClr 2)]

theorem test_decode_major_39 : words39.all (fun p => decide (decode (.long p.1) = .ok p.2)) = true := by decide +kernel

/-- The words of major 0x3A (R96, R104). -/
def words3A : List (BitVec 32 × Instr) := [
  (0b00000000000110000100000011110101#32, .iclk 1 2 3),
  (0b00000010000000000100000011110101#32, .perfRd 1 2)]

theorem test_decode_major_3A : words3A.all (fun p => decide (decode (.long p.1) = .ok p.2)) = true := by decide +kernel

/-- The words of major 0x3B (R96, R104). -/
def words3B : List (BitVec 32 × Instr) := [
  (0b00000000000110000100000001110111#32, .iset 2 3),
  (0b00000010000000000100000011110111#32, .iget 1 2),
  (0b00000100000000000100000001110111#32, .isave 2),
  (0b00000110000000000100000001110111#32, .irest 2),
  (0b00001000000110000100000011110111#32, .istep 1 2 3),
  (0b00001010000110000100000001110111#32, .isnap 2 3),
  (0b00001100000110000100000001110111#32, .ibind 2 3),
  (0b00001110000110000100000001110111#32, .iin 2 3)]

theorem test_decode_major_3B : words3B.all (fun p => decide (decode (.long p.1) = .ok p.2)) = true := by decide +kernel

/-- The words of major 0x3D (R96, R104). -/
def words3D : List (BitVec 32 × Instr) := [
  (0b00000000001110000000000001111011#32, .gangLead),
  (0b00001000001110000000000001111011#32, .gangJoin),
  (0b00010000000000000000000001111011#32, .gangLeave)]

theorem test_decode_major_3D : words3D.all (fun p => decide (decode (.long p.1) = .ok p.2)) = true := by decide +kernel

/-- The words of major 0x3E (R96, R104). -/
def words3E : List (BitVec 32 × Instr) := [
  (0b00000000000010000000000011111101#32, .mfc 1 1),
  (0b00000000000010000100000001111101#32, .mtc 2 1),
  (0b10000000001110000000000001111101#32, .trap),
  (0b10001000000000000000000001111101#32, .eret),
  (0b10010000001110000000000001111101#32, .brk),
  (0b10011000000000000000000001111101#32, .nopW),
  (0b10100000000000000000000001111101#32, .endW),
  (0b10101000001110000100000001111101#32, .safe),
  (0b10110000001110000100000011111101#32, .bindh 1 2 7),
  (0b10111000001110000000000011111101#32, .unbindh 1 7),
  (0b11000000000000000100000011111101#32, .bind 1 2),
  (0b11001000000000000100000011111101#32, .unbind 1 2),
  (0b11010000000000000000000011111101#32, .publish 1),
  (0b11010000000010000100000011111101#32, .publishDefine 1 2),
  (0b11010000000100000000000011111101#32, .publishRemove 1),
  (0b11011000001110000100000011111101#32, .ipatch 1 2 7),
  (0b11100000000000000100000001111101#32, .tlbinv 2 0),
  (0b11101000000000000100000011111101#32, .tlbpin 1 2 0),
  (0b11110000000000000100000011111101#32, .cmapRd 1 2 0)]

theorem test_decode_major_3E : words3E.all (fun p => decide (decode (.long p.1) = .ok p.2)) = true := by decide +kernel

/-- The words of the 16-bit forms (R90 to R92). -/
def wordsShort : List (BitVec 16 × Instr) := [
  (0b0000010000100000#16, .vadd16 1 2),
  (0b0010010000100000#16, .vaddR 1 2),
  (0b0100010000100000#16, .vaddB 1 2),
  (0b0000010000100010#16, .vsub16 1 2),
  (0b0010010000100010#16, .vsubR 1 2),
  (0b0100010000100010#16, .vsubB 1 2),
  (0b0000010000100100#16, .vmul16 1 2),
  (0b0010010000100100#16, .vmulR 1 2),
  (0b0100010000100100#16, .vmulB 1 2),
  (0b0000010000100110#16, .vfma16 1 2),
  (0b0000010000101000#16, .vmin16 1 2),
  (0b0010010000101000#16, .vminR 1 2),
  (0b0100010000101000#16, .vminB 1 2),
  (0b0000010000101010#16, .vmax16 1 2),
  (0b0010010000101010#16, .vmaxR 1 2),
  (0b0100010000101010#16, .vmaxB 1 2),
  (0b0000010000101100#16, .vabs16 1 2),
  (0b0000010000101110#16, .vneg16 1 2),
  (0b0000010000110000#16, .vcvt16 1 2),
  (0b0000010000110010#16, .vscale16 1 2),
  (0b0010010000110010#16, .vscaleR 1 2),
  (0b0100010000110010#16, .vscaleB 1 2),
  (0b0000010000110100#16, .vexp16 1 2),
  (0b0000010000110110#16, .vrcp16 1 2),
  (0b0000010000111000#16, .vcopy16 1 2),
  (0b0000010000111010#16, .vbcast16 1 2),
  (0b0000010000111100#16, .vredSum16 1 2),
  (0b0010010000111100#16, .vredSumD1 1 2),
  (0b0100010000111100#16, .vredSumD2 1 2),
  (0b0000010000111110#16, .vredMax16 1 2),
  (0b0010010000111110#16, .vredMaxD1 1 2),
  (0b0100010000111110#16, .vredMaxD2 1 2),
  (0b1000000000000000#16, .nopShort),
  (0b1000000000000010#16, .endShort),
  (0b1001100000100100#16, .rep)]

theorem test_decode_short : wordsShort.all (fun p => decide (decode (.short p.1) = .ok p.2)) = true := by decide +kernel

/-! ## States that the statements' hypotheses hold in -/

/-- The state that a computation leaves. -/
def after {α : Type} (m : M α) (s : State) : State :=
  match m.run s with
  | .ok (_, t) => t
  | .error _ => s

/-- The value that a computation gives. -/
def value {α : Type} [Inhabited α] (m : M α) (s : State) : α :=
  match m.run s with
  | .ok (v, _) => v
  | .error _ => default

/-- The next state of an outcome. -/
def next (o : Host.Outcome State Fault Refusal) : State :=
  match o with
  | .next s => s
  | _ => State.reset

/-- The outcome is a next state. -/
def runs (o : Host.Outcome State Fault Refusal) : Bool :=
  match o with
  | .next _ => true
  | _ => false

theorem runs_next {o : Host.Outcome State Fault Refusal} (h : runs o = true) : o = .next (next o) := by
  cases o <;> simp_all [runs, next]

/-- Core 0 issues from a context: every function is ready, and the instruction stands at 0x1000. -/
def boxAt (c : Nat) (x : Core) (t : Ctx) : State :=
  { State.reset with cores := [(0, { x with ctxs := [(c, t)] })], ready := BitVec.allOnes 54,
                     iss := { ctx := c, pc := 0x1000, next := 0x1004 } }

/-- The same with context 0. -/
def box (x : Core) (t : Ctx) : State := boxAt 0 x t

/-- The same with an instruction word in the latch. -/
def boxCode (w : BitVec 32) (x : Core) (t : Ctx) : State :=
  let s := box x t
  { s with iss := { s.iss with code := .long w } }

/-- A context with s1 = 5, s2 = 3 and s3 the field descriptor of position 4 and length 8. -/
def ctx0 : Ctx := { state := .ready, s := [(1, 5), (2, 3), (3, 0x804)] }

/-- Core 0 with that context. -/
def s0 : State := box {} ctx0


theorem meets_ScalarResults : Gives (readS 1) s0 5 s0 ∧ Gives (readS 2) s0 3 s0 ∧ Gives (readS 4) s0 0 s0 ∧
    (∀ p ∈ scalarTable, Gives (writeS 4 (p.2 5 3)) s0 () (after (writeS 4 (p.2 5 3)) s0)) ∧
    Gives (writeS 4 3) s0 () (after (writeS 4 3) s0) := by decide +kernel

/-- R124: the overflow and a division by zero. -/
theorem test_division_corners :
    (self (next (exec (.div 4 1 2) (box {} { ctx0 with s := [(1, 0x8000000000000000), (2, -1)] })))).scalar 4 =
      0x8000000000000000 ∧
    (self (next (exec (.rem 4 1 2) (box {} { ctx0 with s := [(1, 0x8000000000000000), (2, -1)] })))).scalar 4 = 0 ∧
    (self (next (exec (.div 4 1 5) s0))).scalar 4 = -1 ∧ (self (next (exec (.remu 4 1 5) s0))).scalar 4 = 5 := by
  decide +kernel

/-- R123: the high half of a product of negative numbers, and a shift by a count above 63. -/
theorem test_mulh_and_shift :
    (self (next (exec (.mulh 4 1 2) (box {} { ctx0 with s := [(1, -1), (2, 7)] })))).scalar 4 = -1 ∧
    (self (next (exec (.shl 4 1 2) (box {} { ctx0 with s := [(1, 1), (2, 65)] })))).scalar 4 = 2 ∧
    (self (next (exec (.sar 4 1 2) (box {} { ctx0 with s := [(1, -8), (2, 1)] })))).scalar 4 = -4 := by decide +kernel

/-- The queues: a filled, a reserved and no load-data entry; room and no room for a push; and both faults. -/
theorem meets_ScalarRegisterFile :
    (1#6 ≠ 0#6 ∧ 1#6 ≠ 60#6 ∧ 1#6 ≠ 61#6) ∧ (self s0).ldq = [] ∧
    (self (box {} { ctx0 with ldq := [⟨0, some 7⟩] })).ldq = ⟨0, some 7⟩ :: [] ∧
    (self (box {} { ctx0 with ldq := [⟨0, none⟩] })).ldq = ⟨0, none⟩ :: [] ∧
    (self s0).pushed < 16 ∧ 16 ≤ (self (box {} { ctx0 with stq := List.replicate 16 0 })).pushed := by decide +kernel

/-- R97, R119: two reads of s60 in one instruction take the head for ra and the next entry for rb. -/
theorem test_two_pops :
    (self (next (exec (.sub 4 60 60) (box {} { ctx0 with ldq := [⟨0, some 9⟩, ⟨1, some 2⟩] })))).scalar 4 = 7 := by
  decide +kernel

theorem meets_ScalarLiteralResults :
    (ScalarLiteral 4 1 5 (.shli 4 1 63) (wrap (5 * 2 ^ 63)) ∧ Gives (readS 1) s0 5 s0 ∧
      Gives (writeS 4 (wrap (5 * 2 ^ 63))) s0 () (after (writeS 4 (wrap (5 * 2 ^ 63))) s0)) ∧
    (ScalarCount 4 1 5 (.clz 4 1) 61 ∧ Gives (writeS 4 61) s0 () (after (writeS 4 61) s0)) ∧
    Gives (writeS 4 (wrap (-8192))) s0 () (after (writeS 4 (wrap (-8192))) s0) ∧
    (Gives (readS 3) s0 0x804 s0 ∧ fieldPos 0x804 = 4 ∧ fieldLength 0x804 = 8 ∧
      ∀ i, i < 64 → (0#64).getLsbD i = (decide (i < 8 ∧ 4 + i ≤ 63) && (5#64).getLsbD (4 + i))) ∧
    ∀ i, i < 64 → (0x50#64).getLsbD i =
      if 4 ≤ i ∧ i < 4 + 8 then (5#64).getLsbD (i - 4) else (0#64).getLsbD i := by
  refine ⟨⟨Or.inl ⟨63, by decide⟩, ?_, ?_⟩, ⟨Or.inl ?_, ?_⟩, ?_⟩ <;> decide +kernel

/-- R125: a field that runs past bit 63 is cut there. -/
theorem test_field_cut :
    (self (next (exec (.bext 4 1 2) (box {} { ctx0 with s := [(1, -1), (2, 0x103C)] })))).scalar 4 = 0xF ∧
    (self (next (exec (.bins 4 1 2) (box {} { ctx0 with s := [(1, 0), (2, 0x0804), (4, -1)] })))).scalar 4 =
      0xFFFFFFFFFFFFF00F := by decide +kernel

theorem meets_BranchesAndJumps : s0.iss.forwarded = false ∧ Gives (readS 1) s0 5 s0 ∧
    ({ s0 with iss := { s0.iss with forwarded := true } } : State).iss.forwarded = true ∧
    Gives (writeS 62 (s0.iss.pc + 4)) s0 () (after (writeS 62 (s0.iss.pc + 4)) s0) := by decide +kernel

/-- R99: `b.ne` at 0x1000 with displacement −8 goes to 0x0FF0; `b.ltu` is never taken. -/
theorem test_branch_target : (self (next (exec (.bNe 1 (-8)) s0))).pc = 0xFF0 ∧
    (self (next (exec (.bLtu 1 (-8)) s0))).pc = 0x1004 := by decide +kernel

theorem meets_ScalarFrame : ∃ t, exec (.add 4 1 2) s0 = .next t ∧ t.iss.retired = true ∧ s0.iss.retired = false :=
  ⟨next (exec (.add 4 1 2) s0), runs_next (by decide +kernel), by decide +kernel, by decide +kernel⟩

/-! ## Float window -/

/-- LEN = 2, so that a register has 32 bits: f1 = 1.0, f2 = 2.0, f3 = −1.5 and f4 a quiet NaN. -/
def ctxF : Ctx :=
  let v := 0x3FFF0000 * 2 ^ 32 + 0x40000000 * 2 ^ 64 + 0xBFFF8000 * 2 ^ 96 + 0x7FFF8000 * 2 ^ 128
  { ctx0 with pool := BitVec.ofNat 1024 v }

/-- Core 0 with that context. -/
def sF : State := box {} ctxF

/-- The result of an instruction of the table on f1, f2 and f3 in the state's mode. -/
def tableResult (op : Nat → Fmt → Machine.Num → Machine.Num → Machine.Num → Exact × Flag) : Nat × Flag :=
  (formatOf ctxF).finish (modeOf ctxF) (op (modeOf ctxF) (formatOf ctxF) (valueOf ctxF 1) (valueOf ctxF 2) (valueOf ctxF 3))

/-- Registers that exist and flags that are not enabled; a register that does not exist; an enabled flag (DZ of 1 / 0, by
RMODE bit 9). -/
theorem meets_FloatArithmetic :
    (FloatReady sF [3, 1, 2] 0 ctxF ∧ ∀ p ∈ floatTable, enabledFlags ctxF (tableResult p.2).2 = 0#7) ∧
    (FloatReady sF [3, 2] 0 ctxF ∧ enabledFlags ctxF ((formatOf ctxF).finish 0 (sqrtNum 16 (valueOf ctxF 2))).2 = 0#7) ∧
    (¬FloatExists { ctxF with prec := 14 } 8 ∧
      ∀ q ∈ [3, 8, (2 : BitVec 5)], ¬FloatExists { ctxF with prec := 14 } q → (8 : BitVec 5).toNat ≤ q.toNat) ∧
    enabledFlags { ctxF with rmode := 0x200 }
      ((formatOf ctxF).finish 0 (divNum 16 (valueOf ctxF 1) (valueOf ctxF 5))).2 ≠ 0#7 := by decide +kernel

/-- 1.0 + 2.0 = 3.0, 1.0 · 2.0 − 1.5 = 0.5 and sqrt 2 rounded to 16 fraction bits. -/
theorem test_float_sums : (self (next (exec (.fadd 5 1 2) sF))).float 5 = 0x40008000 ∧
    (self (next (exec (.ffma 3 1 2) sF))).float 3 = 0x3FFE0000 ∧
    (self (next (exec (.fsqrt 5 2) sF))).float 5 = 0x3FFF6A0A := by decide +kernel

theorem meets_FloatMovesAndComparisons :
    (FloatReady sF [5, 3] 0 ctxF ∧ FloatReady sF [5] 0 ctxF ∧ FloatReady sF [3] 0 ctxF ∧ FloatReady sF [1, 4] 0 ctxF) ∧
    enabledFlags ctxF (roundIntegral (formatOf ctxF) 0 (patternOf ctxF 3)).2 = 0#7 ∧ Gives (readS 1) sF 5 sF ∧
    Gives (writeS 4 (wrap (2 ^ classBit 16 (patternOf ctxF 3)))) sF ()
      (after (writeS 4 (wrap (2 ^ classBit 16 (patternOf ctxF 3)))) sF) ∧ (1 : BitVec 6).toNat ≤ 1 := by decide +kernel

theorem meets_FloatMovesAndComparisons_tables :
    (∀ p ∈ fromScalarTable, enabledFlags ctxF ((formatOf ctxF).convert 0 (p.2 5)).2 = 0#7) ∧
    (∀ p ∈ toScalarTable, enabledFlags ctxF (p.2 0 (valueOf ctxF 3)).2 = 0#7 ∧
      Gives (writeS 4 (p.2 0 (valueOf ctxF 3)).1) sF () (after (writeS 4 (p.2 0 (valueOf ctxF 3)).1) sF)) ∧
    ∀ p ∈ compareTable, enabledFlags ctxF (if p.2.2.2 then 1#7 else 0#7) = 0#7 := by
  refine ⟨?_, ?_, ?_⟩ <;> decide +kernel

/-- −1.5 is a negative normal number; it compares below 1.0, and a NaN is unordered; −1.5 converts to −2 (ties to
even). -/
theorem test_float_answers : (self (next (exec (.fclass 4 3) sF))).scalar 4 = 2 ∧
    (self (next (exec (.fcmpLt 4 3 1) sF))).scalar 4 = 1 ∧ (self (next (exec (.fcmpUn 4 1 4) sF))).scalar 4 = 1 ∧
    (self (next (exec (.fcvtSF 4 3) sF))).scalar 4 = -2 := by decide +kernel

/-- The same with f1 = 1 + 2^−16, which LEN 1 cannot hold, and a trap on NX. -/
def ctxInexact : Ctx := { ctxF with pool := BitVec.ofNat 1024 (0x3FFF0001 * 2 ^ 32), rmode := 0x1000 }

/-- A length by k8 and one by s[ra], with no flag enabled; and one that traps for f1. -/
theorem meets_SettingPrecision :
    (FloatReady sF [] 0 ctxF ∧ FloatsWritten ctxF ∧ (3 : BitVec 8).toNat = 3 ∧ Gives (readS 1) sF (wrap 5) sF ∧
      Gives (writeS 4 ctxF.prec) sF () (after (writeS 4 ctxF.prec) sF) ∧
      ∀ r : BitVec 5, Survives ctxF 3 r → enabledFlags ctxF (keptFloat ctxF 3 r).2 = 0#7) ∧
    (FloatReady (box {} ctxInexact) [] 0 ctxInexact ∧ FloatsWritten ctxInexact ∧ Survives ctxInexact 1 1 ∧
      enabledFlags ctxInexact (keptFloat ctxInexact 1 1).2 ≠ 0#7 ∧
      ∀ q : BitVec 5, q.toNat < (1 : BitVec 5).toNat → Survives ctxInexact 1 q →
        enabledFlags ctxInexact (keptFloat ctxInexact 1 q).2 = 0#7) ∧
    Gives (readS 6) sF 0 sF := by decide +kernel

theorem meets_SettingPrecision_length : NewLength 0 3 sF sF 3 ∧ NewLength 1 0 sF sF 5 ∧ NewLength 0 14 sF sF 14 :=
  ⟨⟨.inl ⟨rfl, rfl, rfl⟩, by decide⟩, ⟨.inr ⟨by decide, by decide +kernel⟩, by decide⟩, ⟨.inl ⟨rfl, rfl, rfl⟩, by decide⟩⟩

/-- R150: at LEN 3 the register of 1.0 has 24 fraction bits. -/
theorem test_keep_converts : (self (next (exec (.setprecKeep 4 0 3) sF))).float 1 = 0x3FFF000000 ∧
    (self (next (exec (.setprecKeep 4 0 3) sF))).scalar 4 = 2 := by decide +kernel

/-- R150, R65: NX of f1 traps, and FLTINFO names the flag and the register. -/
theorem test_keep_traps : (selfCore (next (exec (.setprecKeep 4 0 1) (box {} ctxInexact)))).activations =
    [⟨0x07, some 0, 0x1000, 0, 0x110⟩] := by decide +kernel

theorem meets_RoundingIsCorrect :
    (⟨5, 10⟩ : Fmt).decode ((⟨5, 10⟩ : Fmt).roundMag 3 true 3 0 false).1 = .fin true 1536 (-9) := by decide +kernel

/-! ## Decoding, the step and reset -/

theorem meets_EncodeThenDecode : ∀ i ∈ [Instr.bNe 12 (-8), .sub 1 2 3, .addi 5 63 (-1), .ldD 60 2 3 5, .vadd16 3 5],
    i.wf = true ∧ (encode i).isSome = true := by decide +kernel

theorem meets_DecodeThenEncode : decode (.long 0xFFF83091#32) = .ok (.bNe 12 (-8)) ∧
    decode (.short 0x0A60#16) = .ok (.vadd16 3 5) ∧ decode (.short 0b1001100001100100#16) = .ok .rep ∧
    Instr.rep ∈ literalRows := by decide +kernel

/-- `add s4, s1, s2` (R96, fn 0 of major 0x00) at 0x2000 in the instruction cache, and core 0's issue slot next. -/
def sSlot : State :=
  { box { icache := [⟨0, 0x2000, [0x01, 0x22, 0x10, 0x00] ++ List.replicate 60 0⟩] }
      { state := .ready, pc := 0x2000, s := [(1, 5), (2, 3)] } with agenda := [.slot 0] }

/-- The states before and after the fetch that the statement names. -/
def sSlot1 : State :=
  (({ sSlot with agenda := [] } : State).beginCycle 0).wake 0 |>.takeChecks 0

/-- After the grant, with the windows closed. -/
def sSlot2 : State := ((sSlot1.grant 0 0).closeAt 0 0).getD State.reset

theorem meets_StepRunsDecoded :
    (sSlot.agenda = .slot 0 :: [] ∧ sSlot.enabled 0 = true ∧
      (({ sSlot with agenda := [] } : State).beginCycle 0).halted 0 = false ∧ sSlot1.halted 0 = false ∧ sSlot1.chosen 0 = some 0 ∧ (sSlot1.grant 0 0).closeAt 0 0 = some sSlot2) ∧
    ((sSlot2.ctx 0 0).gang = .alone ∧ (sSlot2.ctx 0 0).repeating = none ∧ (sSlot2.ctx 0 0).overfull = false) ∧
    Gives (fetchCode (sSlot2.ctx 0 0).pc) sSlot2 (.long 0x00102201#32) sSlot2 ∧
    decode (.long 0x00102201#32) = .ok (.add 4 1 2) := by decide +kernel

/-- The step's sum, the PC after it, and the cycle counted. -/
theorem test_step_adds : (self (next (Machine.step sSlot))).scalar 4 = 8 ∧ (self (next (Machine.step sSlot))).pc = 0x2004 ∧
    (selfCore (next (Machine.step sSlot))).cycle = 1 := by decide +kernel

/-- The second clause: neither a tick nor a forced save is due. -/
theorem meets_StepRunsDecoded_cycle : sSlot.tripped = false ∧
    (∀ d, d < 4 → ((sSlot.core 0).bench.domain d).dueAt (sSlot.core 0).cycle = false) ∧
    ∀ c, c < 15 → (sSlot.modCore 0 fun x =>
      ({ x with cycle := x.cycle + 1, bench := { x.bench with ticked := false } } : Core).bump 0 0 1).forcedDue 0 c =
        false := by decide +kernel

/-- The line of that word. -/
def line0 : CodeLine := ⟨0, 0x2000, [0x01, 0x22, 0x10, 0x00] ++ List.replicate 60 0⟩

/-- The third clause: the first bytes of a line, and the last four. -/
theorem meets_StepRunsDecoded_lines : ((0x203C : Word).toNat % 64 ≤ 60 ∧ (0x203C : Word).toNat / 64 * 64 = 0x2000) ∧
    (selfCore sSlot).asid.toNat = 0 ∧
    (selfCore sSlot).icache.find? (fun l => l.asid == 0 && l.va == 0x2000) = some line0 ∧ line0.bytes.length = 64 ∧ (codeOfBytes (line0.bytes.drop 0)).toOption.isSome = true ∧
    (codeOfBytes (line0.bytes.drop 60)).toOption.isSome = true := by
  refine ⟨?_, ?_, rfl, ?_, ?_, ?_⟩ <;> decide +kernel

/-- Reset, and a memory with listed bytes; the states that a step leaves. -/
theorem meets_MemoryStaysCanonical : MemoriesCanonical State.reset ∧ MemoriesCanonical sSlot ∧
    runs (Machine.step sSlot) = true := by
  refine ⟨?_, ?_, ?_⟩ <;> decide +kernel

/-- A site that is fused off, and a key that no site has. -/
theorem meets_StepsAreTotal : nextTurn { State.reset with agenda := [.slot 4096] } = .slot 4096 ∧
    ({ State.reset with agenda := [.slot 4096] } : State).enabled 4096 = false ∧
    ({ State.reset with agenda := [.slot 5], fused := [5] } : State).enabled 5 = false ∧
    Machine.step { State.reset with agenda := [.slot 5], fused := [5] } = .fault .absentCore := by
  refine ⟨?_, ?_, ?_, rfl⟩ <;> decide +kernel

/-- A fault of context 3, of context 15; a machine check that waits behind an operand fault; and `eret` of context 15 for
context 3. -/
def sTrap (c : Nat) : State :=
  boxAt c { activations := [⟨0x06, some 2, 0x40, 0, 0⟩, ⟨0x10, none, 0, 0x80, 1⟩], flt := 0x3006, tvec := 0x800 }
    { state := .ready }

/-- Context 15 is FREE, and context 3 TRAPPED. -/
def sTaken : State :=
  let s := sTrap 3
  (s.modCtx 0 3 fun t => { t with state := .trapped }).modCtx 0 15 fun t => { t with state := .free }

/-- Context 15 runs, and context 3 is TRAPPED. -/
def sEret : State :=
  let s := sTrap 15
  s.modCtx 0 3 fun t => { t with state := .trapped }

theorem meets_TrapsAndReturn :
    ((sTrap 3).iss.ctx ≠ 15 ∧ (sTrap 15).iss.ctx = 15 ∧
      (({ sTrap 15 with agenda := [.slot 0] } : State).takeTrap { cause := 0x06 }).agenda = [.slot 0] ∧
      runs (Machine.step (({ sTrap 15 with agenda := [.slot 0] } : State).takeTrap { cause := 0x06 })) = true) ∧
    ((sTaken.core 0).stopped = false ∧ sTaken.tripped = false ∧ (sTaken.ctx 0 15).state = .free ∧
      (sTaken.core 0).activations = [⟨0x06, some 2, 0x40, 0, 0⟩] ++ ⟨0x10, none, 0, 0x80, 1⟩ :: [] ∧
      causeClass 0x10 < causeClass 0x06) ∧
    (sEret.iss.ctx = 15 ∧ sEret.waitOver 0 15 .allResults = true ∧ (selfCore sEret).flt.toNat / 2 ^ 12 % 16 = 3) := by
  decide +kernel

/-- R182: the machine check is taken first. -/
theorem test_activation_order : ((next (exec .supervisorActivation sTaken)).core 0).flt = 0xF110 ∧
    ((next (exec .supervisorActivation sTaken)).ctx 0 15).pc = 0x800 ∧
    ((next (exec .eret sEret)).ctx 0 3).state = .ready := by decide +kernel

/-- R136: in context 15 a fault stops the core. -/
theorem test_supervisor_fault : (selfCore ((sTrap 15).takeTrap { cause := 0x06 })).stopped = true := by decide +kernel

/-! ## Memory and handles -/

/-- s1 and s2 address the own tile at 0x108, s3 virtual page 2, s4 its end; s5 holds data; h1 is a handle of three
dimensions with base 0x1000, extents 4, 4 and 1 and strides 8 and 32; h2 has a tile base and one dimension. -/
def ctxM : Ctx :=
  { ctxF with
    s := [(1, 0xF000000000000100), (2, 8), (3, 0x2000), (4, 0x8877665544332211), (5, 0x70000), (6, 0x0002000100000001)]
    h := [(1, BitVec.ofNat 256 (0x1000 + 2 * 2 ^ 54 + 4 * 2 ^ 64 + 4 * 2 ^ 80 + 2 ^ 96 + 8 * 2 ^ 128 + 32 * 2 ^ 152)),
          (2, BitVec.ofNat 256 (0xF00000000100 + 16 * 2 ^ 64 + 2 ^ 128))] }

/-- Its core maps virtual page 2 to physical page 5, readable, writable and executable, and page 3 to node 4; tile bytes
0x108 and 0x109 are 0x80 and 0xFF. -/
def coreM : Core :=
  { utlb := [⟨0, 0x2000, 4096, 0xC700000000005000, 0⟩, ⟨0, 0x3000, 4096, 0xD710000000000000, 0⟩],
    tile := [(0x108, 0x80), (0x109, 0xFF)], asid := 0 }

/-- Core 0 with both. -/
def sM : State := box coreM ctxM

/-- A closed window whose result has come, an open one, and a closed one that is awaited. -/
def shut (r : Option (BitVec 256)) (n : Nat) : Window := { file := .scalar, reg := 3, count := n, result := r, id := 1 }

theorem meets_WindowsCloseBeforeIssue :
    ({ ctx0 with windows := [shut (some 7) 0, shut none 2] } : Ctx).beforeIssue ≠ none ∧
    ({ ctx0 with windows := [shut none 0] } : Ctx).beforeIssue = none ∧
    ({ ctx0 with windows := [shut (some 7) 0] } : Ctx).windows = [shut (some 7) 0] ∧ (shut (some 7) 0).count = 0 ∧
    (shut (some 7) 0).result = some 7 ∧ (shut (some 7) 0).file = .scalar ∧ (shut (some 7) 0).reg ≠ 0 ∧
    (shut (some 7) 0).reg ≠ 61 := by decide +kernel

theorem meets_TileLoads : ∀ p ∈ loadTable, Gives (makeRoomFor (scalarDest 6 2)) sM () sM ∧
    Gives (readS 1) sM 0xF000000000000100 sM ∧ Gives (readS 2) sM 8 sM ∧
    (0xF000000000000100 + 8 : Word) = ownTile 0x108 ∧ 0x108 + p.2.2.1 ≤ 2 ^ 20 ∧ ReadClear sM 0x108 p.2.2.1 ∧
    (self sM).ldq.length < 16 := by decide +kernel

/-- R233: 0xFF80 is extended by its sign or by zeros; the first byte alone too. -/
theorem test_load_extends :
    (self (next (exec (.ldH 6 1 2 0) sM))).windows.map (·.result) = [some 0xFFFFFFFFFFFFFF80] ∧
    (self (next (exec (.ldHu 6 1 2 0) sM))).windows.map (·.result) = [some 0xFF80] ∧
    (self (next (exec (.ldB 60 1 2 0) sM))).ldq.map (·.value) = [some 0xFFFFFFFFFFFFFF80] := by decide +kernel

theorem meets_GlobalLoads : (∀ p ∈ loadTable,
      Gives (accessRefs .read p.2.2.1 0x2000 false) sM ((upFrom 0x5000 p.2.2.1).map ByteRef.hbm) sM ∧
      Gives (readRefs 0x2000 ((upFrom 0x5000 p.2.2.1).map ByteRef.hbm)) sM ((upFrom 0x5000 p.2.2.1).map Source.hbm) sM ∧
      atHand 0 ((upFrom 0x5000 p.2.2.1).map Source.hbm) = false) ∧
    Gives (makeRoomFor { file := .handle, reg := 3, la := 2 }) sM () sM ∧ Gives (readS 3) sM 0x2000 sM ∧
    Gives (accessRefs .read 32 0x2000 false) sM ((upFrom 0x5000 32).map ByteRef.hbm) sM ∧
    Gives (readRefs 0x2000 ((upFrom 0x5000 32).map ByteRef.hbm)) sM ((upFrom 0x5000 32).map Source.hbm) sM ∧
    atHand 0 ((upFrom 0x5000 32).map Source.hbm) = false := by decide +kernel

theorem meets_TileStores : (∀ p ∈ storeTable, Gives (storeData 4) sM 0x8877665544332211 sM ∧
      Gives (readS 1) sM 0xF000000000000100 sM ∧ Gives (readS 2) sM 8 sM ∧
      (0xF000000000000100 + 8 : Word) = ownTile 0x108 ∧ 0x108 + p.2 ≤ 2 ^ 20 ∧ WriteClear sM 0x108 p.2 ∧
      (selfCore sM).tile.wf = true) ∧
    (self (box {} { ctx0 with stq := [7, 8] })).stq = 7 :: [8] ∧ (self sM).stq = [] ∧ (4 : BitVec 6) ≠ 61#6 := by
  decide +kernel

/-- R234: `st.w` writes the low four bytes, the least significant first. -/
theorem test_store_word : (selfCore (next (exec (.stW 4 1 2) sM))).tile =
    [(0x108, 0x11), (0x109, 0x22), (0x10A, 0x33), (0x10B, 0x44)] := by decide +kernel

/-- R228: a store that runs into the identity words loses those bytes. -/
theorem test_store_identity :
    (selfCore (next (exec (.stH 4 1 0) (box {} { ctxM with s := [(1, 0xF0000000000007BF), (4, 0x2211)] })))).tile =
      [(0x7BF, 0x11)] := by decide +kernel

theorem meets_StoreFrame :
    (StoresAt (.stD 4 1 2) sM (ownTile 0x108) 8 ∧ StoresAt (.hst 1 3 0) sM 0x2000 32 ∧
      StoresAt (.fst 1 3 (-8)) sM 0x1FF8 5) ∧ (selfCore sM).tile.wf = true ∧ sM.iss.retired = false ∧
    ∃ t, exec (.stD 4 1 2) sM = .next t ∧ t.iss.retired = true := by
  refine ⟨⟨Or.inl ⟨(.stD, 8), by simp [storeTable], 4, 1, 2, 0x8877665544332211, 0xF000000000000100, 8, sM, sM, sM, rfl, ?_⟩,
    Or.inr (Or.inl ⟨1, 0, 3, sM, rfl, ?_⟩), Or.inr (Or.inr ⟨1, 3, -8, 0x2000, sM, rfl, ?_⟩)⟩, ?_, ?_,
    next (exec (.stD 4 1 2) sM), runs_next ?_, ?_⟩ <;> decide +kernel

theorem meets_GlobalStores : ∀ p ∈ storeTable, p.1 0 0 0 ≠ .stNt 0 0 0 →
    Gives (storeData 4) sM 0x8877665544332211 sM ∧ Gives (readS 3) sM 0x2000 sM ∧ Gives (readS 2) sM 8 sM ∧
    Gives (accessRefs .write p.2 (0x2000 + 8) true) sM ((upFrom 0x5008 p.2).map ByteRef.hbm) sM ∧
    (upFrom 0x5008 p.2).length = p.2 ∧ sM.waitOver 0 0 (.globalBytes (upFrom 0x5008 p.2)) = true ∧
    (selfCore sM).nt = [] := by decide +kernel

/-- A load of two bytes that has not come, for the window of s6; a store of 0xAB; a full non-temporal line. -/
def sMem : State :=
  let t := { ctxM with
    windows := [{ file := .scalar, reg := 6, count := 2, result := none, id := 3 }]
    pending := [{ id := 3, bytes := [.hbm 0x5000, .hbm 0x5001], form := .unsigned, seq := 4 }] }
  let x := { coreM with
    stores := [{ ctx := 0, seq := 5, bytes := [(0x5010, 0xAB)] }]
    nt := [{ id := 1, node := none, asid := 0, va := 0x2000, pa := 0x150, bytes := (upFrom 0 64).map fun i => (i, 1),
             marks := (upFrom 0 64).map fun i => (i, ⟨0, 6, 0, 0x2000⟩) }] }
  { box x t with hbm := [(0x5000, 0x34), (0x5001, 0x12)] }

theorem meets_MemorySteps :
    ((sMem.ctx 0 0).pending[0]? = some { id := 3, bytes := [.hbm 0x5000, .hbm 0x5001], form := .unsigned, seq := 4 } ∧
      (∀ q ∈ (sMem.ctx 0 0).pending, ¬q.seq < 4) ∧
      Gives (readNow 0 0 4 [.hbm 0x5000, .hbm 0x5001]) sMem [0x34, 0x12]
        (after (readNow 0 0 4 [.hbm 0x5000, .hbm 0x5001]) sMem)) ∧
    ((sMem.core 0).stores[0]? = some { ctx := 0, seq := 5, bytes := [(0x5010, 0xAB)] } ∧ sMem.hbm.wf = true ∧
      (sMem.core 0).readsBefore { ctx := 0, seq := 5, bytes := [(0x5010, 0xAB)] } = false ∧
      sMem.stackReady (stackOf 0x5010) = true ∧ stackOf 0x5010 ∉ sMem.failedStacks) ∧
    ∃ l, (sMem.core 0).nt[0]? = some l ∧ l.bytes.length = 64 ∧ l.node = none := by
  refine ⟨?_, ?_, _, rfl, ?_, ?_⟩ <;> decide +kernel

/-- The same with the four bytes of a float of LEN 2 for f5. -/
def sMemF : State :=
  sMem.modCtx 0 0 fun t => { t with pending := [{ id := 3, bytes := (upFrom 0x5001 4).map Source.hbm, form := .unsigned
                                                  seq := 4, float := some { reg := 5, code := 2, mode := 0 } }] }

theorem meets_MemorySteps_float : ∃ p, (sMemF.ctx 0 0).pending[0]? = some p ∧ p.ready = true ∧
    p.float = some { reg := 5, code := 2, mode := 0 } ∧
    Gives (readNow 0 0 4 p.bytes) sMemF [0x12, 0, 0, 0] (after (readNow 0 0 4 p.bytes) sMemF) := by
  refine ⟨_, rfl, rfl, rfl, ?_⟩; decide +kernel

/-- R233, R253: the two bytes that arrive are the window's result; the store is performed. -/
theorem test_arrival : ((next (exec .loadDataArrival sMem)).ctx 0 0).windows.map (·.result) = [some 0x1234] ∧
    (next (exec .homeCacheWrite sMem)).hbm = [(0x5000, 0x34), (0x5001, 0x12), (0x5010, 0xAB)] := by decide +kernel

theorem meets_TileReadsAndWrites :
    (ReadClear sM 0x108 8 ∧ Gives (writeS 6 (wrap (little (tileRun sM 0 0x108 8)))) sM ()
        (after (writeS 6 (wrap (little (tileRun sM 0 0x108 8)))) sM)) ∧
    (Gives (readS 2) sM 8 sM ∧ Gives (writeS 6 (8 + wrap (little (tileRun sM 0 0x108 8)))) sM ()
        (after (writeS 6 (8 + wrap (little (tileRun sM 0 0x108 8)))) sM)) ∧
    (Gives (readS 3) sM 0x2000 sM ∧ sM.region 0 0x2000 = .virtual 0x2000 ∧
      sM.lookup 0 0 0x2000 = (.leaf ⟨0, 0x2000, 4096, 0xC700000000005000, 0⟩, sM) ∧
      sM.placeOf ⟨0, 0x2000, 4096, 0xC700000000005000, 0⟩ 0 0x2000 .read = .ok (.here 0x5000)) ∧ (0x108 + 4 ≤ 2 ^ 20 ∧ ReadClear sM 0x108 4 ∧ (self sM).pending = []) ∧
    WriteClear sM 0x108 [(1 : Byte), 2].length ∧ (selfCore sM).tile.wf = true := by decide +kernel

/-- R129: word 0x21 of the constant window; identity word 0xF9 is the die's version. -/
theorem test_constant_window : (self (next (exec (.ldk 6 0x21) sM))).scalar 6 = 0xFF80 ∧
    (self (next (exec (.addk 6 2 0x21) sM))).scalar 6 = 0xFF88 ∧
    (self (next (exec (.ldk 6 0xF9) sM))).scalar 6 = 0x40324230 := by decide +kernel

/-- A value of LEN 2 (header 0x20, 1.0) and one of LEN 1 (header 0x10, 2.0) at tile offsets 0x200 and 0x210, and a header
without a length at 0x220. -/
def sFl : State :=
  box { coreM with tile := [(0x200, 0x20), (0x203, 0xFF), (0x204, 0x3F), (0x210, 0x10), (0x213, 0x40)] }
    { ctxM with s := [(1, 0xF000000000000200), (2, 0xF000000000000211)] }

/-- The three loads of R157 and the two of R158 with what they read; and the stores of LEN 2 and at length 3. -/
theorem meets_FloatLoadsAndStores_registers :
    FloatReady sFl [5] 0 (self sFl) ∧ FloatReady sFl [1] 0 (self sFl) := by decide +kernel

theorem meets_FloatLoadsAndStores : Gives (readS 1) sFl 0xF000000000000200 sFl ∧
    Gives (readBytes 1 (0xF000000000000200 + wrap 0)) sFl [0x20] sFl ∧
    Gives (readBytes 4 (0xF000000000000200 + wrap 0 + 1)) sFl [0, 0, 0xFF, 0x3F] sFl ∧
    Gives (readBytes 1 (0xF000000000000200 + wrap 0x10)) sFl [0x10] sFl ∧
    Gives (readBytes 3 (0xF000000000000200 + wrap 0x10 + 1)) sFl [0, 0, 0x40] sFl ∧
    Gives (readBytes 1 (0xF000000000000200 + wrap 0x20)) sFl [0] sFl ∧
    Gives (readS 2) sFl 0xF000000000000211 sFl ∧ Gives (readBytes 3 0xF000000000000211) sFl [0, 0, 0x40] sFl ∧
    enabledFlags (self sFl) ((formatOf (self sFl)).convert 0 ((⟨15, 8⟩ : Fmt).decode 0x400000)).2 = 0#7 := by
  decide +kernel

theorem meets_FloatLoadsAndStores_tile :
    (Gives (accessRefs .read 4 (0xF000000000000200 + wrap 0 + 1) false) sFl ((upFrom 0x201 4).map (ByteRef.tile 0)) sFl ∧
      Gives (accessRefs .read 3 (0xF000000000000200 + wrap 0x10 + 1) false) sFl ((upFrom 0x211 3).map (ByteRef.tile 0)) sFl ∧
      Gives (accessRefs .read 3 0xF000000000000211 false) sFl ((upFrom 0x211 3).map (ByteRef.tile 0)) sFl) ∧
    ((upFrom 0x201 4).map (ByteRef.tile 0)).any (ByteRef.far 0) = false ∧
    ((upFrom 0x211 3).map (ByteRef.tile 0)).any (ByteRef.far 0) = false ∧ (ByteRef.tile 1 0x211).far 0 = true ∧ (self sFl).prec.getLsbD 4 = false := by
  decide +kernel

/-- A value of LEN 2 at virtual address 0x2000, and what `fld` and `fldr` do to get at it. -/
def sFlG : State := { sM with hbm := [(0x5000, 0x20), (0x5003, 0xFF), (0x5004, 0x3F)] }

/-- Once its header is read: the line is in its home's cache. -/
def sFlG2 : State := { sFlG with dies := [(0, { cache := [320] })] }

theorem meets_FloatLoadsAndStores_global :
    (FloatReady sFlG [5] 0 (self sFlG) ∧ Gives (readS 3) sFlG 0x2000 sFlG ∧ FloatDeferred sFlG (self sFlG) 2) ∧
    (Gives (readBytes 1 0x2000) sFlG [0x20] sFlG2 ∧
      Gives (accessRefs .read 4 (0x2000 + 1) false) sFlG2 ((upFrom 0x5001 4).map ByteRef.hbm) sFlG2 ∧
      Gives (readRefs (0x2000 + 1) ((upFrom 0x5001 4).map ByteRef.hbm)) sFlG2 ((upFrom 0x5001 4).map Source.hbm) sFlG2) ∧
    (Gives (accessRefs .read 4 0x2000 false) sFlG ((upFrom 0x5000 4).map ByteRef.hbm) sFlG ∧
      Gives (readRefs 0x2000 ((upFrom 0x5000 4).map ByteRef.hbm)) sFlG ((upFrom 0x5000 4).map Source.hbm) sFlG) ∧
    ((upFrom 0x5000 5).map ByteRef.hbm).any (ByteRef.far 0) = true := by
  refine ⟨?_, ?_, ?_, ?_⟩ <;> decide +kernel

theorem meets_FloatLoadsAndStores_stores :
    Gives (storeBytes (0xF000000000000200 + wrap 0x40) (vlfImage 2 (patternOf (self sFl) 3))) sFl ()
      (after (storeBytes (0xF000000000000200 + wrap 0x40) (vlfImage 2 (patternOf (self sFl) 3))) sFl) ∧
    enabledFlags (self sFl) ((⟨15, 24⟩ : Fmt).convert 0 (valueOf (self sFl) 3)).2 = 0#7 ∧
    Gives (storeBytes 0xF000000000000211 (lowBytes 5 ((⟨15, 24⟩ : Fmt).convert 0 (valueOf (self sFl) 3)).1)) sFl ()
      (after (storeBytes 0xF000000000000211 (lowBytes 5 ((⟨15, 24⟩ : Fmt).convert 0 (valueOf (self sFl) 3)).1)) sFl) := by
  decide +kernel

/-- R157, R158: 2.0 of LEN 1 becomes 2.0 of LEN 2; −1.5 is stored with its header, and at length 1 without one. -/
theorem test_float_memory : (self (next (exec (.fld 5 1 0x10) sFl))).float 5 = 0x40000000 ∧
    (self (next (exec (.fldr 5 2 1) sFl))).float 5 = 0x40000000 ∧
    (State.tileBytes (next (exec (.fst 3 1 0x40) sFl)) 0 (upFrom 0x240 5)) = [0x20, 0, 0x80, 0xFF, 0xBF] ∧
    (State.tileBytes (next (exec (.fstr 3 1 1) sFl)) 0 (upFrom 0x200 3)) = [0x80, 0xFF, 0xBF] := by decide +kernel

theorem meets_HandleInstructions :
    (Gives (readS 4) sM 0x8877665544332211 sM ∧ handleField 12 = some (128, 24, true)) ∧
    ((∀ i, i < 64 → (8#64).getLsbD i = if i < 24 then ((self sM).handle 1).getLsbD (128 + i)
        else (true && ((self sM).handle 1).getLsbD (128 + 24 - 1))) ∧
      Gives (writeS 7 8) sM () (after (writeS 7 8) sM)) ∧
    (Gives makeRoom sM () sM ∧ Gives (readS 2) sM 8 sM ∧ movedBase ((self sM).handle 1) 8 = some 0x1008 ∧
      movedBase ((self sM).handle 2) (-0x101) = some 0xF000000FFFFF ∧ movedBase ((self sM).handle 1) (-0x1001) = none) ∧
    (Gives (readS 6) sM 0x0002000100000001 sM ∧
      narrowed ((self sM).handle 1) 0x0000000200010001 ≠ none ∧ narrowed ((self sM).handle 1) 3 = none) ∧
    Gives (storeBytes 0xF000000000000100 (lowBytes 32 ((self sM).handle 1).toNat)) sM ()
      (after (storeBytes 0xF000000000000100 (lowBytes 32 ((self sM).handle 1).toNat)) sM) ∧
    (Gives (makeRoomFor { file := .handle, reg := 3, la := 2 }) sM () sM ∧ Gives (readS 1) sM (ownTile 0x100) sM ∧
      0x100 + 32 ≤ 2 ^ 20 ∧ ReadClear sM 0x100 32) := by
  refine ⟨?_, ⟨?_, ?_⟩, ?_, ?_, ?_, ?_⟩ <;> decide +kernel

/-- R167: a stride is read with its sign; R166: dimension 1 narrowed to 2 elements from 1 on. -/
theorem test_handle_fields :
    (self (next (exec (.hget 7 1 13) sM))).scalar 7 = 32 ∧
    (self (next (exec (.hset 1 4 12) sM))).handle 1 / 2 ^ 128 % 2 ^ 24 = 0x332211 ∧
    ((self (next (exec (.hdim 3 1 6 0) (box coreM { ctxM with s := [(6, 0x0000000200010001)] })))).windows.map fun w =>
      w.result.map fun h => (h.toNat % 2 ^ 48, h.toNat / 2 ^ 80 % 2 ^ 16)) = [some (0x1020, 2)] := by decide +kernel

/-- The last byte of the own tile, a peer, virtual space's last byte, the gap, and beyond the tile. -/
theorem meets_AddressSpaces :
    ((0xF0000000000FFFFF : Word) = ownTile 0xFFFFF ∧ 0xFFFFF < 2 ^ 20) ∧
    ((0xF1010000000000FF : Word) = wrap (0xF100000000000000 + 1 * 2 ^ 48 + 0xFF)) ∧
    ((0x00FFFFFFFFFFFFFF : Word).toNat < 2 ^ 56) ∧
    (2 ^ 56 ≤ (0x0100000000000000 : Word).toNat ∧ (0xEFFFFFFFFFFFFFFF : Word).toNat < 0xF * 2 ^ 60) ∧
    (0xF * 2 ^ 60 + 2 ^ 20 ≤ (0xF000000000100000 : Word).toNat ∧ (0xF0FFFFFFFFFFFFFF : Word).toNat < 0xF1 * 2 ^ 56) ∧
    (0xF1 * 2 ^ 56 ≤ (0xF100000000100000 : Word).toNat ∧ (0xF11FFFFFFFFFFFFF : Word).toNat < 0xF1 * 2 ^ 56 + 32 * 2 ^ 48 ∧
      2 ^ 20 ≤ (0xF100000000100000 : Word).toNat % 2 ^ 48) ∧
    (0xF1 * 2 ^ 56 + 32 * 2 ^ 48 ≤ (0xF120000000000000 : Word).toNat) := by decide +kernel

theorem meets_AddressSpaces_faults : Gives (makeRoomFor (scalarDest 6 2)) sM () sM ∧ Gives (readS 5) sM 0x70000 sM ∧
    Gives (readS 2) sM 8 sM ∧ Gives (storeData 4) sM 0x8877665544332211 sM ∧
    Gives (refByte 0 0 .read (0x70000 + 8)) sM (.error 0) (after (refByte 0 0 .read (0x70000 + 8)) sM) ∧
    Gives (refByte 0 0 .write (0x70000 + 8)) sM (.error 0) (after (refByte 0 0 .write (0x70000 + 8)) sM) := by
  refine ⟨?_, ?_, ?_, ?_, ?_, ?_⟩ <;> rfl

/-! ## The vector unit -/

/-- R161: a handle of one dimension in the own tile: its format, offset, extent and stride. -/
def vec (fmt off n stride : Nat) : HandleBits :=
  BitVec.ofNat 256 (0xF * 2 ^ 44 + off + fmt * 2 ^ 48 + n * 2 ^ 64 + stride * 2 ^ 128)

/-- h1 to h3 and h8 are FP32 vectors of 4, 4, 4 and 1 elements, h4 to h6 INT32 ones, h7 an INT8 mask, h9 and h10 DXB6 and
FP32 of 32 elements, h11 one UINT64, h12 FP32 of 2, h13 one UINT8; h14 has a reserved format, and h15 lies in global
memory. -/
def ctxL : Ctx :=
  { ctx0 with
    s := [(1, 1), (7, 7), (10, 8)]
    h := [(1, vec 0x12 0x400 4 4), (2, vec 0x12 0x500 4 4), (3, vec 0x12 0x600 4 4), (4, vec 4 0x900 4 4),
          (5, vec 4 0xA00 4 4), (6, vec 4 0xA40 4 4), (7, vec 0 0xB00 4 1), (8, vec 0x12 0xB40 1 4),
          (9, vec 0x18 0xC00 32 34), (10, vec 0x12 0xD00 32 4), (11, vec 7 0xE00 1 8), (12, vec 0x12 0xE40 2 4),
          (13, vec 1 0xE80 1 1), (14, vec 0x3F 0x400 4 4), (15, BitVec.ofNat 256 (0x2000 + 0x12 * 2 ^ 48 + 4 * 2 ^ 64))] }

/-- Core 0 with that context, and a head and tail of mixed data in its tile. -/
def sL : State := box { tile := [(0xA00, 5), (0xA04, 0xFF), (0xA05, 0xFF), (0xA06, 0xFF), (0xA07, 0xFF), (0xA40, 3),
                                 (0xB00, 1)] } ctxL

/-- One form of every lane instruction without a scalar result, with the value of its scalar operand. -/
def laneCases : List (Instr × Word) := [
  (.vadd 1 2 3 0, 0), (.vadd16 1 2, 0), (.vaddR 1 2, 0), (.vaddB 1 2, 0), (.vsub 1 2 8 0, 0), (.vsub16 1 2, 0),
  (.vsubR 1 8, 0), (.vsubB 1 2, 0), (.vmul 1 2 3 0, 0), (.vmul16 1 2, 0), (.vmulR 1 2, 0), (.vmulB 1 8, 0),
  (.vmin 4 5 6 0, 0), (.vmin16 4 5, 0), (.vminR 4 5, 0), (.vminB 4 5, 0), (.vmax 4 5 6 0, 0), (.vmax16 4 5, 0),
  (.vmaxR 4 5, 0), (.vmaxB 4 5, 0), (.vscale 1 2 5 0, 0), (.vscale16 1 5, 0), (.vscaleR 1 2, 0), (.vscaleB 1 5, 0),
  (.vfma 1 2 3 0, 0), (.vfma16 1 2, 0), (.vabs 1 2 0, 0), (.vabs16 4 5, 0), (.vneg 1 2 0, 0), (.vneg16 4 5, 0),
  (.vexp 1 2 0, 0), (.vexp16 1 2, 0), (.vrcp 1 2 0, 0), (.vrcp16 1 2, 0), (.vrsqrt 1 2 0, 0), (.vtanh 1 2 0, 0),
  (.vcvt 1 5 0, 0), (.vcvt16 9 10, 0), (.vcvtKeep 9 10 0 0, 0), (.vcopy 1 2 0, 0), (.vcopy16 4 5, 0),
  (.vbcast 1 8 0, 0), (.vbcast16 1 2, 0), (.viota 4 0 0, 0), (.vredSum 8 2 0 0, 0), (.vredSum16 8 2, 0),
  (.vredSumD1 8 2, 0), (.vredSumD2 8 2, 0), (.vredMax 8 2 1 0, 1), (.vredMax16 8 2, 0), (.vredMaxD1 8 2, 0),
  (.vredMaxD2 8 2, 0), (.vand 4 5 6 0, 0), (.vor 4 5 6 0, 0), (.vxor 4 5 6 0, 0), (.vshl 4 5 6 0, 0),
  (.vshr 4 5 6 0, 0), (.vcmp 4 2 3 0 0, 0), (.vcmp 4 2 0 10 0, 8), (.vsel 1 2 3 7 0, 7), (.vsp24 12 2 13 0, 0),
  (.vsmx 12 2 0, 0), (.vtopk 11 2 1 0, 1)]

/-- The shape that the statement gives a case holds in the state. -/
def laneHolds (i : Instr) (v : Word) : Bool :=
  match laneShape (self sL) v i with
  | some f => decide (LaneLegal sL f ∧ LaneRoom sL f.entry)
  | none => false

theorem meets_LaneInstructions : ∀ p ∈ laneCases, laneHolds p.1 p.2 = true := by decide +kernel

theorem meets_LaneInstructions_scalars : ∀ p ∈ laneCases, LaneScalar p.1 sL p.2 sL := by
  simp only [laneCases, List.forall_mem_cons, LaneScalar, true_and, List.not_mem_nil, false_implies, implies_true, and_true]
  decide +kernel

/-- `vcompress` and `vexpand` under the mask h7, `vgather` and `vscatter` by the indices of h7. -/
theorem meets_LaneInstructions_counts :
    Gives (makeRoomFor (scalarDest 7 2)) sL () sL ∧ Gives (readS 7) sL 7 sL ∧
    LaneLegal sL ⟨{ instr := .vcompress 0 0 0 0, hd := (self sL).handle 1, srcs := [] },
      [⟨(self sL).handle 1, true, moveKind⟩, ⟨(self sL).handle 2, false, moveKind⟩, ⟨(self sL).handle 7, false, intKind⟩],
      sameFormat ((self sL).handle 1) ((self sL).handle 2) && hCount ((self sL).handle 7) == hCount ((self sL).handle 2)⟩ ∧
    LaneRoom sL { instr := .vgather 0 0 0 0 0, hd := (self sL).handle 1,
                  srcs := [(self sL).handle 2, (self sL).handle 7] } := by decide +kernel

/-- What the operands of a case are: contents that the operation admits, and places that a lane may name. -/
def laneOperands (i : Instr) : Option (Bool × Bool) :=
  (laneShape (self sL) 0 i).map fun f =>
    (f.uses.all (fun u => u.contentOk sL), f.uses.all (fun u => hChan u.h || hTile u.h))

/-- h1 is a vector in the tile of the cluster's core 1, h2 and h3 FP32 vectors, h4 a channel of INT8, h5 an INT8 mask of
four elements, h6 one of two; s16 is 16. -/
def ctxP : Ctx :=
  { ctx0 with
    s := [(5, 5), (6, 6), (14, 14), (16, 16)]
    h := [(1, BitVec.ofNat 256 (0x1F * 2 ^ 43 + 2 ^ 36 + 0x400 + 0x12 * 2 ^ 48 + 4 * 2 ^ 64 + 4 * 2 ^ 128)),
          (2, vec 0x12 0x500 4 4), (3, vec 0x12 0x600 4 4), (4, BitVec.ofNat 256 (2 ^ 63 + 2 * 2 ^ 64)),
          (5, vec 0 0xB00 4 1), (6, vec 0 0xB40 2 1), (14, vec 0x3F 0x400 4 4),
          (15, BitVec.ofNat 256 (0x2000 + 0x12 * 2 ^ 48 + 4 * 2 ^ 64))] }

/-- Core 0 with that context. -/
def sP : State := box {} ctxP

/-- The premises of the faults of LaneFaults, in their order, of a shape in the state. -/
def faultOf (f : LaneShape) : Nat :=
  if f.uses.all (fun u => u.contentOk sP) = false then 1
  else if f.uses.all (fun u => hChan u.h || hTile u.h) = false then 2
  else if f.fits = false then 3
  else if (f.uses.filter fun u => u.out && !outHere sP u.h).length = 1 then 4
  else 0

/-- A reserved format, an operand in global memory, a count that does not fit, and a destination in another tile. -/
theorem meets_LaneInstructions_faults :
    ([Instr.vneg 2 14 0, .vneg 2 15 0, .vsel 2 3 3 6 0, .vneg 1 2 0].map fun i =>
      (laneShape (self sP) 6 i).map faultOf) = [some 1, some 2, some 3, some 4] ∧
    (∀ e ∈ [false, true], ([(2, 14, 5), (2, 15, 5), (2, 3, 6), (1, 2, 5)].map fun p =>
      faultOf (squeezeShape (self sP) e p.1 p.2.1 p.2.2)) = [1, 2, 3, 4]) ∧
    (∀ e ∈ [false, true], ([(2, 3, 14), (2, 15, 5), (2, 3, 6), (1, 2, 5)].map fun p =>
      faultOf (indexedShape (self sP) e p.1 p.2.1 p.2.2)) = [1, 2, 3, 4]) ∧
    (Gives (makeRoomFor (scalarDest 7 2)) sP () sP ∧ Gives (readS 5) sP 5 sP ∧ Gives (readS 16) sP 16 sP) := by
  decide +kernel

/-- `vsp24` with a pair of values and its metadata in a channel. -/
theorem meets_LaneInstructions_metadata :
    (laneShape ({ ctxP with h := [(1, vec 0x12 0x500 2 4), (2, vec 0x12 0x600 4 4), (4, ctxP.handle 4)] } : Ctx) 0
      (.vsp24 1 2 4 0)).isSome = true ∧ hChan (ctxP.handle 4) = true := by decide +kernel

/-- R176, R180, R271: subcode 5, the address with subcode 4, subcode 4, and the store fault at the peer's lowest byte. -/
theorem test_lane_faults :
    ([Instr.vneg 2 14 0, .vneg 2 15 0, .vcompress 2 3 6 0, .vneg 1 2 0, .vexpand 2 3 16 0].map fun i =>
      (selfCore (next (exec i sP))).activations.map fun a => (a.cause, a.addr, a.info)) =
    [[(4, 0, 5)], [(4, 0x2000, 4)], [(4, 0, 4)], [(6, 0xF101000000000400, 5)], [(4, 0, 4)]] := by decide +kernel

/-- Context 0's instruction at the head of the lane queue. -/
def laneOp (i : Instr) (d a b : BitVec 4) (done : Bool) (win : Option Nat) : LaneOp :=
  let h := fun (n : BitVec 4) => ctxL.handle n.toNat
  { ctx := 0, instr := i, hd := h d, ha := h a, hb := h b, mask := h 7, s := 0, rmode := 0, lid := 0, hi := false, asid := 0,
    winId := win, seq := 0, executed := done, flags := if done then 1 else 0, count := if done then 3 else 0 }

/-- Core 0 with it, and a window and a load-data entry that await number 5. -/
def sLane (o : LaneOp) : State :=
  let w : Window := { file := .scalar, reg := 6, count := 2, result := none, id := 5 }
  box { (sL.core 0) with lanes := [o] } { ctxL with windows := [w] }

/-- The computation of the instruction ends without a stop. -/
def laneRuns (o : LaneOp) : Bool :=
  match ((LaneRun.compute { k := 0, op := o }).run {}).run (sLane o) with
  | .ok _ => true
  | .error _ => false

/-- An integer sum and a count; an executed one with a count for window 5. -/
theorem meets_LaneSteps :
    (∀ o ∈ [laneOp (.vadd 0 0 0 0) 4 5 6 false none, laneOp (.vcompress 0 0 0 0) 4 5 6 false (some 5)],
      ((sLane o).core 0).lanes = o :: [] ∧ o.executed = false ∧ ((sLane o).core 0).matrix = [] ∧ laneRuns o = true) ∧
    ((sLane (laneOp (.vcompress 0 0 0 0) 4 5 6 true (some 5))).core 0).lanes =
      laneOp (.vcompress 0 0 0 0) 4 5 6 true (some 5) :: [] ∧
    (laneOp (.vcompress 0 0 0 0) 4 5 6 true (some 5)).out = [] := by
  refine ⟨?_, ?_, ?_⟩
  · decide +kernel
  · decide +kernel
  · decide +kernel

/-- The same with a deposit of the stream of channel 2 still to be accepted. -/
def laneOut : LaneOp :=
  { laneOp (.vadd 0 0 0 0) 4 5 6 true none with
      out := [{ hdr0 := 0x4000, hdr1 := 0x20000000000008 + 2 ^ 40, payload := [7] }] }

theorem meets_LaneSteps_deposit : ∃ m, ((sLane laneOut).core 0).lanes = laneOut :: [] ∧ laneOut.executed = true ∧
    laneOut.out = m :: [] ∧ ((sLane laneOut).core 0).outbox.length < 16 ∧
    (sLane laneOut).laneOrdered 0 laneOut
      ((sLane laneOut).separating 0 (nodeOf m.hdr0) ((sLane laneOut).destsOf m.hdr0)) = true := by
  refine ⟨_, ?_, rfl, rfl, ?_, ?_⟩ <;> decide +kernel

theorem meets_LaneIntegerResults : ∀ p ∈ laneIntegerTable,
    (sLane (laneOp p.1 4 5 6 false none)).enabled 0 = true ∧
    ((sLane (laneOp p.1 4 5 6 false none)).core 0).lanes = laneOp p.1 4 5 6 false none :: [] ∧
    (laneOp p.1 4 5 6 false none).hd = int32Vector 0x900 4 ∧ (laneOp p.1 4 5 6 false none).ha = int32Vector 0xA00 4 ∧
    (laneOp p.1 4 5 6 false none).hb = int32Vector 0xA40 4 ∧ (0x800 ≤ 0x900 ∧ 0x900 + 4 * 4 ≤ 0xA00) ∧
    ((sLane (laneOp p.1 4 5 6 false none)).core 0).bad = [] ∧
    ((sLane (laneOp p.1 4 5 6 false none)).core 0).tile.wf = true := by decide +kernel

/-- An operation of context 0 with its handles, its mask and its scalar. -/
def vecOp (i : Instr) (d a b m : HandleBits) (v : Word) : LaneOp :=
  { laneOp i 0 0 0 false none with hd := d, ha := a, hb := b, mask := m, s := v }

/-- The premises about places: the operation heads the queue of a core with data at 0xA00 and 0xA40. -/
def vecMeets (o : LaneOp) (d n : Nat) (srcs : List Nat) : Bool := decide (LaneVectors (sLane o) o d n srcs)

/-- Destinations at the end of the tile, over a source, and below the identity words; every rounding mode. -/
theorem meets_LaneIntegerResults_floats :
    (∀ p ∈ laneFloatTable, ∀ mode ∈ List.range 5,
      vecMeets (vecOp p.1 (float32Vector mode 0xFFFF0 4) (float32Vector 0 0xA00 4) (float32Vector 0 0xFFFF0 4) 0 0)
        0xFFFF0 4 [0xA00, 0xFFFF0]) ∧
    vecMeets (vecOp (.vfma 0 0 0 0) (float32Vector 4 0x7B0 4) (float32Vector 0 0xA00 4) (float32Vector 0 0xA40 4) 0 0)
      0x7B0 4 [0xA00, 0xA40] ∧
    (∀ p ∈ laneSpecialTable, vecMeets (vecOp p.1 (float32Vector 0 0x900 4) (float32Vector 0 0xA00 4) 0 0 0) 0x900 4 [0xA00]) ∧
    vecMeets (vecOp (.vcvt 0 0 0) (float32Vector 2 0xA00 4) (int32Vector 0xA00 4) 0 0 0) 0xA00 4 [0xA00] ∧
    vecMeets (vecOp (.vcvt 0 0 0) (int32Vector 0xA00 4) (float32Vector 1 0xA40 4) 0 0 0) 0xA00 4 [0xA40] := by
  decide +kernel

theorem meets_LaneIntegerResults_moves :
    vecMeets (vecOp (.vbcast 0 0 0) (int32Vector 0xA00 4) (int32Vector 0xA04 2) 0 0 0) 0xA00 4 [] ∧
    vecMeets (vecOp (.viota 0 0 0) (int32Vector 0xA00 4) 0 0 0 (-2)) 0xA00 4 [] ∧
    (∀ p ∈ laneBitTable, vecMeets (vecOp p.1 (int32Vector 0x900 4) (int32Vector 0xA00 4) (int32Vector 0xA40 4) 0 0)
      0x900 4 [0xA00, 0xA40]) ∧
    (∀ cc ∈ List.range 5, vecMeets (vecOp (.vcmp 0 0 0 0 0) (int32Vector 0x900 4) (int32Vector 0xA00 4)
      (int32Vector 0xA40 4) 0 (wrap cc)) 0x900 4 [0xA00, 0xA40]) ∧
    (∀ i ∈ [Instr.vredSum 0 0 0 0, .vredMax 0 0 0 0],
      vecMeets (vecOp i (int32Vector 0xA04 1) (int32Vector 0xA00 4) 0 0 0) 0xA04 1 []) ∧
    vecMeets (vecOp (.vredSum 0 0 0 0) (float32Vector 1 0x900 1) (float32Vector 0 0x600 4) 0 0 0) 0x900 1 [] ∧
    (∀ i ∈ List.range 4, (numberAt sL 0 0x600 i).isNan = false) ∧
    vecMeets (vecOp (.vsel 0 0 0 0 0) (int32Vector 0x900 4) (int32Vector 0xA00 4) (int32Vector 0xA40 4)
      (int32Vector 0xB00 4) 0) 0x900 4 [0xA00, 0xA40, 0xB00] ∧
    vecMeets (vecOp (.vcompress 0 0 0 0) (int32Vector 0xA00 4) (int32Vector 0xA00 4) 0 (int32Vector 0xA40 4) 0)
      0xA00 4 [0xA00, 0xA40] ∧
    vecMeets (vecOp (.vgather 0 0 0 0 0) (int32Vector 0x900 4) (int32Vector 0xA00 2) (int32Vector 0x900 4) 0 0)
      0x900 4 [0x900] := by decide +kernel

/-- R83, R287 to R290, R295: −1 shifted right and left, the maximum, the positions selected by (3, 0, 0, 0), and the
indices (1, 0, 0, 0). -/
theorem test_lane_moves :
    int32At (next (exec .laneExecute (sLane (vecOp (.vshr 0 0 0 0) (int32Vector 0x900 4) (int32Vector 0xA00 4)
      (int32Vector 0xA40 4) 0 0)))) 0 0x900 1 = -1 ∧
    int32At (next (exec .laneExecute (sLane (vecOp (.vredMax 0 0 0 0) (int32Vector 0xA04 1) (int32Vector 0xA00 4) 0 0 0))))
      0 0xA04 0 = 5 ∧
    (let t := next (exec .laneExecute (sLane (vecOp (.vcompress 0 0 0 0) (int32Vector 0x900 4) (int32Vector 0xA00 4) 0
      (int32Vector 0xA40 4) 0)))
     (int32At t 0 0x900 0, (t.core 0).lanes.map (·.count)) = (5, [1])) ∧
    int32At (next (exec .laneExecute (sLane (vecOp (.vgather 0 0 0 0 0) (int32Vector 0x900 4) (int32Vector 0xA00 4)
      (int32Vector 0xB00 4) 0 0)))) 0 0x900 0 = -1 := by decide +kernel

/-- R282: 5 + 3 = 8 and −1 + 0 = −1; the smaller of −1 and 0. -/
theorem test_lane_sums :
    (let t := next (exec .laneExecute (sLane (laneOp (.vadd 0 0 0 0) 4 5 6 false none)))
     (int32At t 0 0x900 0, int32At t 0 0x900 1)) = (8, -1) ∧
    int32At (next (exec .laneExecute (sLane (laneOp (.vmin 0 0 0 0) 4 5 6 false none)))) 0 0x900 1 = -1 ∧
    (self (next (exec .laneComplete (sLane (laneOp (.vcompress 0 0 0 0) 4 5 6 true (some 5)))))).windows.map (·.result) =
      [some 3] := by decide +kernel

/-! ## Atomics, locks, copies and the matrix unit -/

/-- A word of 0xFFFFFFFF in the own tile at 0x108, and s1 its address, s2 = 3, s9 an address off its width. -/
def sA : State :=
  box { coreM with tile := [(0x108, 0xFF), (0x109, 0xFF), (0x10A, 0xFF), (0x10B, 0xFF)] }
    { ctx0 with s := [(1, 0xF000000000000108), (2, 3), (3, 0x2000), (4, 0xFFFFFFFF), (9, 0xF00000000000010A)] }

theorem meets_TileAtomics : ∀ p ∈ atomicTable, Gives (makeRoomFor (scalarDest 4 2)) sA () sA ∧
    Gives (readS 1) sA 0xF000000000000108 sA ∧ Gives (readS 2) sA 3 sA ∧ (0xF000000000000108 : Word) = ownTile 0x108 ∧
    0x108 % p.2.1 = 0 ∧ WriteClear sA 0x108 p.2.1 ∧ (selfCore sA).bad = [] ∧ (selfCore sA).tile.wf = true ∧
    Gives (readS 9) sA 0xF00000000000010A sA ∧ (0xF00000000000010A : Word).toNat % p.2.1 ≠ 0 := by decide +kernel

/-- R241: the sum carries into the upper half; the exchange of `amo.cas` happens, s4 being the old value. -/
theorem test_tile_atomics :
    (selfCore (next (exec (.amoAdd 4 1 2 0) sA))).tile = [(0x108, 2), (0x10C, 1)] ∧
    (selfCore (next (exec (.amoCas 4 1 2 0) sA))).tile = [(0x108, 3)] ∧
    (self (next (exec (.amoCas 4 1 2 0) sA))).windows.map (·.result) = [some 0xFFFFFFFF] := by decide +kernel

/-- The place in the table of an atomic, and the request that its engine holds. -/
def amoReq (op : Nat) : AtomicReq := { port := 0, hi := false, pa := 0x5008, op, b := 3, x := 5, core := 0, ctx := 0, id := 6 }

/-- An engine with one request, and the word 5 at its address. -/
def sAmo (op : Nat) : State :=
  let p : Pending := { id := 6, bytes := [], form := .unsigned, seq := 0, ready := false }
  let x := sA
  { (box coreM { ctx0 with pending := [p] }) with
    dies := [(0, { atomics := [(0, { queue := [amoReq op] })] })], hbm := [(0x5008, 5)], iss := x.iss }

theorem meets_GlobalAtomics :
    (∀ p ∈ atomicTable, Gives (readS 3) sA 0x2000 sA ∧ (0x2000 : Word).toNat % p.2.1 = 0 ∧
      Gives (accessRefs .both p.2.1 0x2000 true) sA (.hbm 0x5000 :: (upFrom 0x5001 (p.2.1 - 1)).map ByteRef.hbm) sA ∧
      sA.waitOver 0 0 (.globalBytes (upFrom 0x5000 p.2.1)) = true ∧ (selfCore sA).nt = []) ∧
    ∀ op ∈ List.range 11, (sAmo op).atomicChoice (Tab.get {} ((sAmo op).die 0).atomics 0) = some (0, amoReq op) ∧
      (sAmo op).hbm.wf = true ∧ (∀ j ∈ List.range 8, (sAmo op).badByte (0x5008 + j) = false) := by decide +kernel

/-- R241: 5 + 3 = 8; the smaller of 5 and 3. -/
theorem test_cluster_atomic : (next (exec .clusterAtomic (sAmo 0))).hbm = [(0x5008, 8)] ∧
    (next (exec .clusterAtomic (sAmo 4))).hbm = [(0x5008, 3)] := by decide +kernel

/-- The first request, an answered one, `fence` and `drain` with nothing to wait for. -/
theorem meets_LockAndOrderInstructions :
    (Gives (readS 3) sA 0x2000 sA ∧ (0x2000 : Word).toNat / 2 % 4 = 0 ∧ tileSpace 0x2000 = false ∧
      ({ ctx0 with latch := .answered 0 } : Ctx).latch = .answered 0) ∧
    ((self sA).latch = .none ∧ (self sA).pending = [] ∧ (selfCore sA).nt = [] ∧
      Gives (accessRefs .both 8 (wrap (0x2000 / 8 * 8 : Nat)) true) sA ((upFrom 0x5000 8).map ByteRef.hbm) sA ∧
      sA.waitOver 0 0 (.performed (sA.coverOf 0 0 0 (some ((selfCore sA).asid.toNat, 0x2000)))) = true) ∧
    sA.waitOver 0 0 (.fenced (sA.coverOf 0 0 sA.iss.code.k8.toNat none)) = true ∧
    (∀ l ∈ (selfCore sA).nt, l.holds 0 = false) ∧ sA.waitOver 0 0 (.drained sA.iss.code.k8.toNat) = true := by
  decide +kernel

/-- A request for the lock word that virtual page 3 holds on node 4, and a state in which both kinds are answered. -/
def farQuery (k : Ask) : Query := { node := 4, asid := 0, va := 0x3000, ask := k }

/-- Core 0 with their answers, and the word's address in s3. -/
def sFar : State :=
  { box { coreM with utlb := coreM.utlb.drop 1 } { ctx0 with s := [(3, 0x3000)] } with
    answers := [(.ctx 0 0, farQuery (.acquire false), ⟨0, [1]⟩), (.ctx 0 0, farQuery (.release false), ⟨0, [1]⟩)] }

/-- An answered error; a lock word of node 4 whose requests are answered. -/
theorem meets_LockAndOrderInstructions_answers :
    (({ ctx0 with latch := .answered 1 } : Ctx).latch = .answered 1 ∧ (1 : Word) ≠ 0) ∧
    (Gives (readS 3) sFar 0x3000 sFar ∧ (0x3000 : Word).toNat / 2 % 4 = 0 ∧ tileSpace 0x3000 = false ∧
      (self sFar).pending = [] ∧ (∀ w, (self sFar).latch ≠ .answered w) ∧
      Gives (accessRefs .both 8 (wrap (0x3000 / 8 * 8 : Nat)) true) sFar ((upFrom 0x3000 8).map (ByteRef.node 4)) sFar ∧
      sFar.answer (.ctx 0 0) (farQuery (.acquire false)) = some { status := 0, data := [1] } ∧
      sFar.answer (.ctx 0 0) (farQuery (.release false)) = some { status := 0, data := [1] }) := by
  refine ⟨⟨rfl, by decide⟩, ?_, ?_, ?_, ?_, (fun _ h => by cases h), ?_, ?_, ?_⟩ <;> decide +kernel

/-- A lock word at 0x5008, with core 0's request for it on its way or refused. -/
def sLock (bytes : Memory) (release shared : Bool) : State :=
  let q : LockReq := { release, shared, pa := 0x5008, core := 0, ctx := 0, node := none }
  { box coreM { ctx0 with latch := .asked } with hbm := bytes, locks := [q], retries := [q] }

/-- A free word; one held exclusively by core 0; and one with two shared holders. -/
theorem meets_LockWords : (∀ t ∈ [([], false, false), ([], false, true), ([(0x500F, 0x80)], true, false),
      ([(0x500A, 2)], true, true)],
    LockWordGood (sLock t.1 t.2.1 t.2.2) 0x5008 ∧ NoStoreTo (sLock t.1 t.2.1 t.2.2) 0 0x5008 ∧
    (sLock t.1 t.2.1 t.2.2).lockQueue 0x5008 = [] ∧ (sLock t.1 t.2.1 t.2.2).locks.length = 1 ∧
    (sLock t.1 t.2.1 t.2.2).node < 64) ∧
    ((sLock [] false false).lockWord 0x5008).toNat / 2 ^ 54 = 0 ∧
    ((sLock [(0x500F, 0x80)] true false).lockWord 0x5008).toNat / 2 ^ 54 % 2 ^ 9 = 0 ∧
    ((sLock [(0x500F, 0x80)] true false).lockWord 0x5008).toNat / 2 ^ 63 = 1 ∧
    ((sLock [(0x500A, 2)] true true).lockWord 0x5008).toNat / 2 ^ 16 % 2 ^ 16 = 2 := by
  refine ⟨?_, ?_, ?_, ?_, ?_⟩ <;> decide +kernel

/-- R254: an exclusive holder, and the release count after its release. -/
theorem test_lock_word : (next (exec .lockRequest (sLock [] false false))).hbm = [(0x500F, 0x80)] ∧
    (next (exec .lockRelease (sLock [(0x500F, 0x80)] true false))).hbm = [(0x5008, 1)] := by decide +kernel

/-- h1 and h2 are INT8 vectors of 4 bytes at 0x200 and 0x300 in the own tile, h3 one in global memory, h5 and h6 empty
ones; s6 is tag 6. -/
def sC : State :=
  { box { coreM with tile := [(0x300, 1), (0x301, 2), (0x302, 3), (0x303, 4)], tags := -1 }
      { ctx0 with
        s := [(6, 6), (7, 7 + 5 * 2 ^ 16)]
        h := [(1, vec 0 0x200 4 1), (2, vec 0 0x300 4 1), (3, BitVec.ofNat 256 (0x2000 + 4 * 2 ^ 64 + 2 ^ 128)),
              (4, BitVec.ofNat 256 (0 + 4 * 2 ^ 64 + 2 ^ 128)), (5, vec 0 0x200 0 1), (6, vec 0 0x300 0 1)] } with
    dies := [(0, { publish := [(5, [0x8000000000000001, 0x8000, 0x10000, 0x20000])] })] }

/-- The premises of a copy's issue: `d` and `a` its handles, and the state all its checks leave. -/
def copyMeets (shadow remote : Bool) (v : Word) (d a : HandleBits) (form : CopyForm) (base : Nat) (reads writes : List Nat)
    (mapA mapD : List Confirmed) : Bool :=
  let ta := sC.copyTargets 0 mapA a
  let td := if form = .plain then sC.copyTargets 0 mapD d else []
  decide (contentOk d = true ∧ contentOk a = true ∧ copyFits d a = true ∧
    Gives (copyForm shadow remote v d) sC (form, base) sC ∧ (form = .plain → Gives (checkPeer d (copyPlaces d)) sC () sC) ∧
    Gives (spotVas a (copyPlaces a) false) sC reads sC ∧
    (form = .plain ∧ Gives (spotVas d (copyPlaces d) true) sC writes sC ∨ form ≠ .plain ∧ writes = []) ∧
    Gives (confirmPages (ctxReader sC) .read (pageFirsts reads)) sC (mapA, false) sC ∧
    Gives (confirmPages (ctxReader sC) .write (pageFirsts writes)) sC (mapD, false) sC ∧
    sC.waitOver 0 0 (.laneReads (copyTiles 0 a)) = true ∧ sC.waitOver 0 0 (.globalBytes (targetPas (ta ++ td))) = true ∧
    sC.waitOver 0 0 (.nodeBytes (targetNodes (ta ++ td))) = true ∧
    (form = .plain → sC.waitOver 0 0 (.laneBytes (copyTiles 0 d)) = true) ∧
    sC.waitOver 0 0 (.copyRoom (v.toNat % 64)) = true ∧ (selfCore sC).nt = [])

/-- A copy within the tile, an empty one, one from global memory, one to it, and one into publish buffer 5. -/
theorem meets_Copies :
    Gives (readS 6) sC 6 sC ∧ Gives (readS 7) sC (7 + 5 * 2 ^ 16) sC ∧
    copyMeets false false 6 ((self sC).handle 1) ((self sC).handle 2) .plain 0 [] [] [] [] = true ∧
    (copyMeets false false 6 ((self sC).handle 5) ((self sC).handle 6) .plain 0 [] [] [] [] = true ∧
      hCount ((self sC).handle 6) = 0) ∧
    copyMeets false false 6 ((self sC).handle 1) ((self sC).handle 3) .plain 0 (upFrom 0x2000 4) [] [⟨0, 2, 0x5000, none, none⟩]
      [] = true ∧
    copyMeets false false 6 ((self sC).handle 3) ((self sC).handle 2) .plain 0 [] (upFrom 0x2000 4) []
      [⟨0, 2, 0x5000, none, none⟩] = true ∧
    copyMeets true false (7 + 5 * 2 ^ 16) ((self sC).handle 4) ((self sC).handle 2) (.shadow 0 5) 0x20000 [] [] [] [] =
      true := by decide +kernel

/-- The copy within the tile in progress, alone under its tag. -/
def sCopy : State :=
  let c : Copy := { id := 1, ctx := 0, tag := 6, form := .plain, dst := int8Vector 0x200 4, src := int8Vector 0x300 4,
                    total := 4, done := 0, seq := 0, asid := 0, lid := 0, hi := false, map := [] }
  { box { (sC.core 0) with copies := [c], tags := 0, tagCount := [(6, 1)] } ctx0 with
    input := { core := 0, n := 0, m := 4 } }

theorem meets_Copies_done : ∃ c, (sCopy.core 0).copies = c :: [] ∧ (∀ b, sCopy.mstTile 0 b = false) ∧ c.total = 4 ∧ c.done = 0 ∧ c.form = .plain ∧
    c.dst = int8Vector 0x200 4 ∧ c.src = int8Vector 0x300 4 ∧ (sCopy.core 0).bad = [] ∧ sCopy.requests = [] ∧
    (sCopy.core 0).tile.wf = true ∧ Tab.get 0 (sCopy.core 0).tagCount c.tag = 1 ∧ c.tag < 64 ∧ sCopy.input.n = 0 ∧
    sCopy.input.m = 4 := ⟨_, rfl, fun _ => rfl, by decide +kernel⟩

theorem test_copy_done : State.tileBytes (next (exec .copyDone sCopy)) 0 (upFrom 0x200 5) = [1, 2, 3, 4, 0] ∧
    ((next (exec .copyDone sCopy)).core 0).tags = 0x40 := by decide +kernel

/-- R304: h1 is a 2 by 2 INT8 operand at 0x200 and h2 a 2 by 2 INT32 result at 0x280; s5 selects both rows and columns. -/
def ctxX : Ctx :=
  { ctx0 with
    s := [(5, 0x300030003), (6, 0x30003)]
    h := [(1, BitVec.ofNat 256 (0xF * 2 ^ 44 + 0x200 + 2 ^ 54 + 2 * 2 ^ 64 + 2 * 2 ^ 80 + 2 ^ 128 + 2 * 2 ^ 152)),
          (2, BitVec.ofNat 256 (0xF * 2 ^ 44 + 0x280 + 4 * 2 ^ 48 + 2 ^ 54 + 2 * 2 ^ 64 + 2 * 2 ^ 80 + 4 * 2 ^ 128 +
            8 * 2 ^ 152))] }

/-- The operand is the rows (1, 2) and (3, −1). -/
def coreX : Core := { tile := [(0x200, 1), (0x201, 2), (0x202, 3), (0x203, 0xFF)] }

/-- Core 0 with both. -/
def sX : State := box coreX ctxX

/-- An entry of the matrix queue. -/
def entryX (op : MatrixOp) (h : Nat) (s : Word) (fetched : Bool) : MatrixEntry :=
  { id := 4, ctx := 0, op, h := ctxX.handle h, s, pc := 0x1000, asid := 0, lid := 0, hi := false, src := 0, fetched,
    rows := if fetched then [[1, 2], [3, 0xFF]] else [[1, 2]], rowsC := [], map := [], err := 0, oobx := false, flags := 0 }

/-- Core 0 with it at the head of the queue; the active plane is the operand's. -/
def sEntry (e : MatrixEntry) : State :=
  box { coreX with matrix := [e], active := (entryX .loadWeights 1 0 true).plane } ctxX

theorem meets_MatrixInstructions :
    (MatrixLegal weightFmt ((self sX).handle 1) ∧ MatrixLegal resultFmt ((self sX).handle 2) ∧
      Gives (readS 5) sX 0x300030003 sX ∧ (0x300030003 : Word).toNat < 2 ^ 49 ∧ hTile ((self sX).handle 1) = true ∧
      hPeer ((self sX).handle 2) = false ∧ (selfCore sX).matrix = [] ∧ (selfCore sX).lanes = [] ∧ (selfCore sX).bad = [] ∧
      (self sX).staging = none) ∧
    (∃ r, (selfCore (sEntry (entryX .loadWeights 1 0 false))).fetching 0 = some (entryX .loadWeights 1 0 false) ∧
      Gives (fetchRows { ctxReader sX with asid := 0 } ((self sX).handle 1) 3 [0, 1] none [1])
        (sEntry (entryX .loadWeights 1 0 false)) r (sEntry (entryX .loadWeights 1 0 false)) ∧ r.stop.isNone = true) ∧
    (Gives (checkPeer ((self sX).handle 2) (resultBytes ((self sX).handle 2) 0x30003)) sX () sX ∧
      Gives (spotVas ((self sX).handle 2) (resultBytes ((self sX).handle 2) 0x30003) true) sX [] sX ∧
      Gives (confirmPages (ctxReader sX) .write (pageFirsts [])) sX ([], false) sX) ∧
    Gives (makeRoomFor (scalarDest 6 2)) sX () sX := by
  refine ⟨?_, ⟨⟨[[3, 0xFF]], false, false, none, none⟩, ?_, ?_, ?_⟩, ?_, ?_⟩ <;> decide +kernel

theorem meets_MatrixSteps :
    (∀ e ∈ [entryX .loadWeights 1 0 true, entryX .swap 1 0 true, entryX .zero 1 0 true, entryX .multiply 1 0x300030003 true,
        entryX .loadAcc 2 0x30003 true, entryX .store 2 0x30003 true],
      ((sEntry e).core 0).matrix = e :: [] ∧ e.fetched = true ∧ e.ctx < 16 ∧ (sEntry e).storeReady 0 e = true) ∧
    (∀ e ∈ [entryX .loadWeights 1 0 true, entryX .multiply 1 0x300030003 true],
      ∀ j ∈ [((0 : Nat), (0 : Nat)), (1, 1)], j ∈ (entryX .multiply 1 0x300030003 true).cells ((sEntry e).core 0).active) := by
  decide +kernel

/-- An `mst` of a result of 2 rows of 2 columns, in each format, at the end of the tile and at the end of a page that is
confirmed to lie at 0x5000. -/
def storeX (f va pitch : Nat) : MatrixEntry :=
  { entryX .store 2 0x30003 true with h := matrixHandle va f 2 2 pitch, map := [⟨0, 2, 0x5000, none, none⟩] }

theorem meets_MatrixSteps_results : ∀ f ∈ [0x12, 0x10, 0x11, 0x04],
    ((f, resultSize f) ∈ [(0x12, 4), (0x10, 2), (0x11, 2), (0x04, 4)] ∧ ResultFits f 2 2 8) ∧
    (let e := storeX f (0xF * 2 ^ 44 + 0xFFFF0) 8
     ((sEntry e).core 0).matrix = e :: [] ∧ e.ctx < 16 ∧ (sEntry e).storeReady 0 e = true ∧
      ((sEntry e).core 0).tile.wf = true ∧ e.h = matrixHandle (0xF * 2 ^ 44 + 0xFFFF0) f 2 2 8) ∧
    (let e := storeX f 0x2FF0 8
     ((sEntry e).core 0).matrix = e :: [] ∧ (sEntry e).storeReady 0 e = true ∧
      confirmedAt e.map 0x2FF0 = some ⟨0, 2, 0x5000, none, none⟩ ∧ 0x2FF0 % 4096 + 8 * 2 ≤ 4096 ∧
      stackOf 0x5000 ∉ (sEntry e).failedStacks ∧ (sEntry e).hbm.wf = true) := by decide +kernel

/-- R309, R310: the accumulator 7 of position (1, 1), as an INT32 and as a BF16 element. -/
theorem test_store_results :
    (let t := next (exec .matrixEntryExecute
      ((sEntry (storeX 0x04 0x2FF0 8)).modCtx 0 0 fun t => { t with acc := [(17, 7)] }))
     t.hbm) = [(0x5FFC, 7)] ∧
    ((next (exec .matrixEntryExecute ((sEntry (storeX 0x11 (0xF * 2 ^ 44 + 0xFFFF0) 8)).modCtx 0 0 fun t =>
      { t with acc := [(17, 0x40E00000)] }))).core 0).tile = coreX.tile ++ [(0xFFFFA, 0xE0), (0xFFFFB, 0x40)] := by
  decide +kernel

/-- R308: (1, 2) · (1, 3)ᵀ and so on over the operand's own rows as weights: rows (7, 0) and (0, 7). -/
theorem test_multiply :
    ((next (exec .matrixEntryExecute (sEntry (entryX .multiply 1 0x300030003 true)))).ctx 0 0).acc =
      [(0, 7), (1, 0), (16, 0), (17, 7)] := by decide +kernel

/-- R321: an invoke message of 11 payload words for the operand and the result, with the reply's header word 0. -/
def invokeMsg : Msg :=
  let words := fun (h : HandleBits) => (List.range 4).map fun i => (h >>> (64 * i)).setWidth 64
  { hdr0 := 0, hdr1 := 5 * 2 ^ 10 + 88,
    payload := [0x300030003] ++ words (ctxX.handle 1) ++ words (ctxX.handle 2) ++ [0, 0] }

/-- Core 0 with the message in its LO inbox, and with its fetched entry, and with a reply that waits. -/
def sInvoke : State :=
  box { coreX with
    loInbox := [invokeMsg]
    replies := [{ msg := invokeMsg, ctx := 16, node := 0, dests := [0] }] } ctxX

/-- The entry of an invoke, fetched. -/
def invokeEntry : MatrixEntry :=
  { entryX (.invoke (ctxX.handle 2) 0 0 0 false) 1 0x300030003 true with ctx := 16 }

theorem meets_MatrixSteps_invoke :
    ((sInvoke.core 0).loInbox = invokeMsg :: [] ∧ invokeMsg.kind = 5 ∧ (sInvoke.core 0).jobBusy = false) ∧
    (((sEntry invokeEntry).core 0).matrix = invokeEntry :: [] ∧ (sEntry invokeEntry).input.n = 0 ∧
      (sEntry invokeEntry).storeReady 0 { invokeEntry with op := .store, h := ctxX.handle 2 } = true) ∧
    (∃ r, (sInvoke.core 0).replies = r :: [] ∧ r.node = sInvoke.node) ∧ sInvoke.requests = [] ∧ sInvoke.ports = [] :=
  ⟨by decide +kernel, by decide +kernel, ⟨_, rfl, rfl⟩, rfl, rfl⟩

/-! ## Control registers, control flow, messages and counters -/

/-- A computation gives a value and a state for which the condition holds. -/
def givesWith {α : Type} (m : M α) (s : State) (p : α → State → Bool) : Bool :=
  match m.run s with
  | .ok (v, t) => p v t
  | .error _ => false

/-- Context 15, for which CTXSEL names a TRAPPED context 3, and with FV = 0. -/
def s15 (v : Word) (latch : Latch) : State :=
  (boxAt 15 { ctxsel := 3, saveMap := 5 } { state := .ready, s := [(1, v)], latch }).modCtx 0 3 fun t =>
    { t with state := .trapped, s := [(5, 9)] }

/-- Registers within reach: of every context, of context 15, and of the window; and two out of reach. -/
theorem meets_ControlRegisters :
    (∀ n ∈ [0x001, 0x003, 0x00B, 0x100, 0x102], MayReach s0 n) ∧ (∀ n ∈ [0x103, 0x10F, 0x805, 0x843, 0x900], MayReach
      (s15 7 .none) n) ∧ s0.waitOver 0 0 .flags = true ∧ (self s0).gang = .alone ∧
    Gives (writeS 4 (s0.register 0x100)) s0 () (after (writeS 4 (s0.register 0x100)) s0) ∧
    ¬MayReach s0 0x103 ∧ ¬MayReach ((s15 7 .none).modCtx 0 3 fun t => { t with state := .ready }) 0x805 := by
  decide +kernel

/-- Legal and reserved values of PREC and RMODE; the commands of JOBSW. -/
theorem meets_ControlRegisters_writes :
    (Gives (readS 1) (s15 2 .none) 2 (s15 2 .none) ∧ Gives (readS 1) (s15 15 .none) 15 (s15 15 .none) ∧
      (self (s15 2 .none)).state = .ready ∧ (s15 2 .none).waitOver 0 15 .flags = true ∧
      FloatsWritten (self (s15 2 .none))) ∧
    ((2 : Word).toNat % 16 ≠ 0 ∧ (15 : Word).toNat % 16 = 15 ∧ (16 : Word).toNat % 16 = 0 ∧ (7 : Word).toNat % 8 = 7) ∧
    ((2 : Word).toNat % 4 = 2 ∧ (15 : Word).toNat % 4 = 3) ∧ (s15 2 .none).iss.ctx = 15 ∧ (selfCore (s15 2 .none)).restoring = none ∧ (selfCore (s15 2 .none)).jobBusy = false ∧
    MayReach (s15 2 .none) 0x800 ∧ MayReach (s15 2 .none) 0x900 ∧ ctxselOf (s15 2 .none) ≠ 15 := by decide +kernel

/-- The selected context's handles, its PREC, a reserved value of it, and a register that only reads; no float is awaited. -/
theorem meets_ControlRegisters_window :
    MayReach (s15 2 .none) 0x840 ∧ MayReach (s15 2 .none) 0x880 ∧ MayReach (s15 2 .none) 0x88B ∧
    FloatsWritten ((s15 2 .none).ctx 0 (ctxselOf (s15 2 .none))) ∧ (self (s15 15 .none)).state = .ready ∧
    (s15 2 .none).iss.ctx = 15 := by decide +kernel

/-- R172: core (x, y) = (9, 5) of die 1 with logical index 3 on node 2. -/
theorem test_core_address : ({ State.reset with
    node := 2, iss := { core := 1024 + 5 * 32 + 9 }
    dies := [(1, { coreMap := [none, none, none, some (5 * 32 + 9)] })] } : State).register 0x101 =
      (9 : Word) <<< 56 ||| 5 <<< 48 ||| 3 <<< 32 ||| 2 <<< 26 ||| 1 <<< 24 ||| 5 <<< 19 ||| 9 <<< 14 := by decide +kernel

/-- R160, R177: word 1 of context 3's h2, and its PREC; CTXCMD reads zero. -/
theorem test_window_writes : ((next (exec (.mtc 1 0x849) (s15 0x77 .none))).ctx 0 3).handle 2 = 0x77#256 <<< 64 ∧
    ((next (exec (.mtc 1 0x881) (s15 0x13 .none))).ctx 0 3).prec = 0x13 ∧
    (self (next (exec (.mfc 2 0x109) (s15 4 .none)))).scalar 2 = 0 := by decide +kernel

/-- R170, R144: bits that are not there are not written; R177: s5 of context 3 through the window. -/
theorem test_register_masks : (self (next (exec (.mtc 1 0x002) (s15 0x3F00 .none)))).rmode = 0x1F00 ∧
    (selfCore (next (exec (.mtc 1 0x103) (s15 0x801 .none)))).tvec = 0x800 ∧
    (selfCore (next (exec (.mtc 1 0x10C) (s15 4 .none)))).saveMap = 1 ∧
    (self (next (exec (.mfc 2 0x805) (s15 4 .none)))).scalar 2 = 9 := by decide +kernel

/-- A state with a command handed over. -/
def sCommand (n : Nat) (v : Word) : State := (s15 0 .asked).modCore 0 fun x => { x with command := some (n, v) }

/-- A command that acts, one that does not, and the commands handed over. -/
theorem meets_SupervisorCommands :
    (Gives (readS 1) (s15 0x103 .none) 0x103 (s15 0x103 .none) ∧ (self (s15 0x103 .none)).latch = .none ∧
      (0x103 : Word).toNat / 256 % 4 = 1 ∧ ((s15 0x103 .none).ctx 0 ((0x103 : Word).toNat % 16)).state = .trapped ∧
      (self (s15 0x103 .asked)).latch = .asked ∧ ((s15 0x104 .none).ctx 0 ((0x104 : Word).toNat % 16)).state ≠ .trapped) ∧
    ((sCommand 0x10A 9).core 0).command = some (0x10A, 9) ∧
    (((sCommand 0x109 0x103).core 0).command = some (0x109, 0x103) ∧
      ((sCommand 0x109 0x203).core 0).command = some (0x109, 0x203) ∧ (0x203 : Word).toNat / 256 % 4 = 2) := by
  decide +kernel

/-- R187: PREQ keeps only contexts that are not FREE. -/
theorem test_preq_write : ((next (exec .preqWrite (sCommand 0x10A 0x0F))).core 0).preq = 8 ∧
    ((next (exec .ctxcmdFree (sCommand 0x109 0x103))).ctx 0 3).state = .free := by decide +kernel

/-- The instructions behind a prefix: `add` steps, and a branch does not repeat. -/
def sRep (w : List Byte) : State :=
  boxCode 0 { icache := [⟨0, 0x1000, [0, 0] ++ w ++ List.replicate 58 0⟩] } { ctx0 with pc := 0x1000 }

/-- The same with another halfword in the latch. -/
def sRepAs (w : List Byte) : State :=
  let s := sRep w
  { s with iss := { s.iss with code := .short 0b1001100001100100 } }

theorem meets_ControlInstructions :
    (s0.iss.ctx ≠ 15 ∧ s0.waitOver 0 0 .allResults = true ∧ (selfCore s0).filter = [] ∧ s0.iss.forwarded = false) ∧
    (let t := { s0 with iss := { s0.iss with forwarded := true, save := true } }
     t.iss.forwarded = true ∧ t.iss.save = true ∧ (selfCore t).filter = []) ∧
    ((boxCode 0x0000001B {} ctx0).iss.code = .long 0x0000001B ∧ s0.iss.code = .short 0) ∧
    (givesWith (fetchCode ((self (sRepAs [1, 0x22, 0x10, 0])).pc + 2)) (sRepAs [1, 0x22, 0x10, 0]) (fun c _ =>
      repeatable (sRepAs []).iss.code.repMask c) = true ∧
     givesWith (fetchCode ((self (sRepAs [0x91, 0x30, 0xF8, 0xFF])).pc + 2)) (sRepAs [0x91, 0x30, 0xF8, 0xFF]) (fun c _ =>
      !repeatable (sRepAs []).iss.code.repMask c) = true) ∧
    (boxAt 15 {} ctx0).waitOver 0 15 .allResults = true := by decide +kernel

/-- `end` of a launch's handler; `safe` with a pre-emption asked for and a slot, without one, and under a cancel. -/
theorem meets_ControlInstructions_safe :
    (let t := box {} { ctx0 with launchId := 7 }
     (self t).launchId ≠ 0 ∧ (self t).hdr0.toNat / 2 ^ 26 % 64 = t.node ∧
       (self t).hdr1.toNat / 2 ^ 32 % 4096 / 1024 = t.iss.core / 1024 ∧ t.waitOver 0 0 .allResults = true) ∧
    ((selfCore (box { preq := 1 } ctx0)).preq.getLsbD 0 = true ∧ (selfCore (box { preq := 1 } ctx0)).saveMap ≠ 0xFFFF) ∧
    (selfCore (box { preq := 1, saveMap := 0xFFFF } ctx0)).saveMap = 0xFFFF ∧
    ((⟨7, none⟩ : Filter) ∈ (selfCore (box { filter := [⟨7, none⟩] } { ctx0 with launchId := 7 })).filter ∧
      (self (box { filter := [⟨7, none⟩] } { ctx0 with launchId := 7 })).launchId.toNat = 7) := by decide +kernel

/-- R138, R36: the save of the live map in the literal, and the cancel trap. -/
theorem test_safe : (self (next (exec .safe (box { preq := 1 } ctx0)))).state = .saving ∧
    (selfCore (next (exec .safe (box { filter := [⟨7, none⟩] } { ctx0 with launchId := 7 })))).activations.map (·.cause) =
      [0x11] := by decide +kernel

/-- Core 1 leads: the context of core 2 waits for it. -/
def sGang (mine : Gang) (core lit : Nat) : State :=
  { State.reset with
    cores := [(1, { ctxs := [(0, { ctx0 with gang := if core = 1 then mine else .alone, launchId := 3 })] }),
              (2, { ctxs := [(0, { ctx0 with state := .wait, gang := if core = 1 then .joining 1 else mine })] })]
    iss := { core, ctx := 0, pc := 0x1000, next := 0x1004, code := .long (BitVec.ofNat 32 (lit * 2 ^ 19)) } }

theorem meets_GangInstructions :
    ((sGang .alone 1 1).iss.code.k8.toNat = 1 ∧ (sGang .alone 1 1).iss.core % 8 + 1 < 8 ∧
      (sGang .alone 1 1).enabled 2 = true ∧ (self (sGang .alone 1 1)).gang = .alone ∧
      (∃ p ∈ ((sGang .alone 1 1).core 2).ctxs, p.2.state = .wait ∧ p.2.gang = .joining 1) ∧
      ∀ j ∈ upFrom 1 7, ∀ p ∈ ((sGang .alone 1 1).core (1 + j)).ctxs, (match p.2.gang with
        | .following x _ _ => x != 1
        | _ => true) = true) ∧
    ((sGang .alone 2 1).iss.code.k8.toNat = 1 ∧ 1 < (sGang .alone 2 1).iss.core % 32 ∧
      (self (sGang .alone 2 1)).gang = .alone) ∧
    (self (sGang (.leading 1 [1]) 1 0)).gang = .leading 1 [1] ∧
    (self (sGang (.following 1 1 []) 2 0)).gang = .following 1 1 [] := by decide +kernel

/-- k of 0, of 8, beyond the cluster's row, a fused follower, and a member; x not below, in another cluster, and beside a
waiting context. -/
theorem meets_GangInstructions_faults :
    ((sGang .alone 1 0).iss.code.k8.toNat = 0 ∧ (sGang .alone 1 8).iss.code.k8.toNat = 8 ∧
      8 ≤ (sGang .alone 1 7).iss.core % 8 + 7 ∧ ({ sGang .alone 1 1 with fused := [2] } : State).enabled 2 = false ∧
      (self (sGang (.leading 1 [1]) 1 1)).gang ≠ .alone) ∧
    ((sGang .alone 2 2).iss.core % 32 ≤ 2 ∧ (sGang .alone 9 1).iss.core % 32 = 9 ∧ 1 + 7 < 9 ∧
      (1 : Nat) / 8 ≠ (sGang .alone 9 1).iss.core % 32 / 8) ∧
    (let s := (sGang .alone 2 1).modCtx 2 1 fun t => { t with waitOn := some (.gang 3) }
     ∃ p ∈ (selfCore s).ctxs, p.1 ≠ s.iss.ctx ∧ p.2.waitOn = some (.gang 3)) := by
  refine ⟨?_, ?_, ?_⟩ <;> decide +kernel

/-- R186: the gang subcode for a fused follower, and beside a context that waits in `gang.lead`. -/
theorem test_gang_faults :
    (selfCore (next (exec .gangLead { sGang .alone 1 1 with fused := [2] }))).activations.map (·.info) = [7] ∧
    (selfCore (next (exec .gangJoin ((sGang .alone 2 1).modCtx 2 1 fun t => { t with waitOn := some (.gang 3) })))).activations.map
      (·.info) = [7] := by decide +kernel

theorem test_gang : (self (next (exec .gangLead (sGang .alone 1 1)))).gang = .leading 1 [1] ∧
    ((next (exec .gangLead (sGang .alone 1 1))).ctx 2 0).gang = .following 1 1 [] ∧
    (self (next (exec .gangLeave (sGang (.following 1 1 []) 2 0)))).gang = .alone := by decide +kernel

/-- Control words for one form each: s1 names 8 bytes of register s10 with tag 3, s2 a combining message, s3 a
deposit, s4 the header word of core (0, 1); s6 = 0 for a reply, and HDR1 names core 2. -/
def ctxS : Ctx :=
  { ctx0 with
    s := [(1, 0x0003000000010008), (2, 0x0003000000020010), (4, 0x4000), (7, 0x0003000000010108),
          (10, 0x0001000100000000), (11, 77)]
    hdr1 := 0x0000000200000000 }

/-- Core 0 with it, and a held message. -/
def sS : State :=
  box { spoil := [{ ctx := 0, msg := { hdr0 := 0x4000, hdr1 := 0x10000008, payload := [5] }, node := 0 }] } ctxS

/-- One use of every send instruction, with its form and fields. -/
def sendCases : List (SendForm × BitVec 6 × BitVec 6 × BitVec 6) := [
  (.plain, 1, 4, 11), (.high, 1, 4, 11), (.multi, 1, 4, 11), (.multi, 7, 4, 11), (.comb, 2, 4, 10), (.dep, 1, 4, 11),
  (.reply, 1, 0, 11)]

/-- The same with a message that has been formed before, and with a full outbox. -/
def sFormed (n : Nat) : State :=
  let e : OutEntry := { msg := { hdr0 := 0x4000, hdr1 := 0x10000008, payload := [5] }, ctx := 0, node := 0, dests := [1] }
  (sS.modCtx 0 0 fun t => { t with formed := some ⟨{ e.msg with payload := [6] }, 0, [1]⟩ }).modCore 0 fun x =>
    { x with outbox := List.replicate n e }

theorem meets_Messages_formed : (self sS).formed = none ∧ (selfCore (sFormed 16)).outbox.length = 16 ∧
    (self (sFormed 0)).formed = some ⟨{ hdr0 := 0x4000, hdr1 := 0x10000008, payload := [6] }, 0, [1]⟩ ∧
    Gives (readS 1) (sFormed 0) 0x0003000000010008 (sFormed 0) ∧ Gives (readS 4) (sFormed 0) 0x4000 (sFormed 0) := by
  decide +kernel

/-- R346: what the send formed first goes out. -/
theorem test_formed_send : (selfCore (next (exec (.send 1 4 11) (sFormed 0)))).outbox.map (·.msg.payload) = [[6]] ∧
    (self (next (exec (.send 1 4 11) (sFormed 16)))).state = .wait := by decide +kernel

theorem meets_Messages : (∀ p ∈ sendCases, givesWith (formSend p.1 p.2.1 p.2.2.1 p.2.2.2) sS (fun r s1 =>
      decide ((selfCore s1).outbox.length < 16 ∧
        s1.waitOver 0 0 (.ordered (s1.coverOf 0 0 (s1.separating 0 r.2.1 r.2.2) none) r.2.1 r.2.2) = true ∧
        (r.1.needsTip = true → (selfCore s1).tipFull = false))) = true) ∧
    Gives (readS 1) sS 0x0003000000010008 sS ∧ Gives (readS 4) sS 0x4000 sS ∧
    (∀ p ∈ sendTable, p.2 ∈ sendCases.map (·.1)) ∧
    givesWith (formSend .hold 1 4 11) sS (fun _ s1 => decide ((selfCore s1).spoil.length < 32)) = true ∧
    (∀ h ∈ (selfCore sS).spoil, sS.waitOver 0 0 (.ordered (sS.coverOf 0 0 (sS.heldScope 0 (selfCore sS).spoil) none) h.node
      (sS.destsOf h.msg.hdr0)) = true) ∧ (selfCore sS).outbox = [] ∧
    (selfCore sS).tipFull = false := by decide +kernel

theorem meets_Messages_window :
    (∀ j ∈ [8, 23], Gives (readS 1) (box {} { ctx0 with s := [(1, BitVec.ofNat 64 j)] }) (BitVec.ofNat 64 j)
        (box {} { ctx0 with s := [(1, BitVec.ofNat 64 j)] }) ∧
      Gives (readBytes 8 (ownTile (0x800 + 8 * (j - 8)))) (box {} { ctx0 with s := [(1, BitVec.ofNat 64 j)] })
        (List.replicate 8 0) (box {} { ctx0 with s := [(1, BitVec.ofNat 64 j)] })) ∧
    Gives (writeS 6 0) (box {} { ctx0 with s := [(1, 8)] }) () (after (writeS 6 0) (box {} { ctx0 with s := [(1, 8)] })) ∧
    ((7 : Word).toNat < 8 ∧ 23 < (24 : Word).toNat) := by decide +kernel

/-- R326: TAG, the sender's short ID, LEN and the payload. -/
theorem test_send : (selfCore (next (exec (.send 1 4 11) sS))).outbox.map (fun e => (e.msg.tag, e.msg.len, e.msg.payload,
      e.dests)) = [(3, 8, [77], [1])] ∧
    (selfCore (next (exec (.commit 5) sS))).outbox.map (fun e => e.msg.hdr1) = [0x10000208] ∧
    (self (next (exec (.abort 5) sS))).scalar 5 = 1 := by decide +kernel

/-- s1 names counter 5, s3 counter 5 of core (0, 1) by a remote name, s4 counter 9 of die 0's engine, s5 launch 6 and s6
launch 7, s8 a perf name, s9 a descriptor's address. -/
def ctxK : Ctx :=
  { ctx0 with s := [(1, 5), (2, 3), (3, 0x0800000000004005), (4, 0x1000000000000009), (5, 0x3000000000000006),
                    (6, 0x3000000000000007), (8, 0x101), (9, 0x2000)] }

/-- Core 0 (context 0 or 15) with it, counter 5 at 4, and launch 7 complete with status 2. -/
def sK (c : Nat) (latch : Latch) : State :=
  { boxAt c { coreM with sc := [(5, 4)], tags := 0x50, perf := [(1, 8)] } { ctxK with latch } with
    master := { launches := [(7, { state := .complete, status := 2, last := 6 })] } }

theorem meets_CountersAndTags :
    (Gives (readS 1) (sK 0 .none) 5 (sK 0 .none) ∧ Gives (readS 2) (sK 0 .none) 3 (sK 0 .none) ∧
      (sK 0 .none).waitOver 0 0 (.performed ((sK 0 .none).coverOf 0 0 1 none)) = true) ∧
    (Gives (readS 3) (sK 0 .none) 0x0800000000004005 (sK 0 .none) ∧ (0x0800000000004005 : Word).toNat / 2 ^ 59 = 1 ∧
      (0x0800000000004005 : Word).toNat / 2 ^ 32 % 2 ^ 27 = 0 ∧ (0x0800000000004005 : Word).toNat / 256 % 32 = 0 ∧
      (sK 0 .none).destinationOk 0x4000 = true ∧ (selfCore (sK 0 .none)).outbox = [] ∧
      (sK 0 .none).waitOver 0 0 (.ordered ((sK 0 .none).coverOf 0 0 ((sK 0 .none).separating 0 0 ((sK 0 .none).destsOf 0x4000))
        none) 0 ((sK 0 .none).destsOf 0x4000)) = true) ∧
    ((0x1000000000000009 : Word).toNat / 2 ^ 60 = 1 ∧ (0x1000000000000009 : Word).toNat / 2 ^ 10 % 2 ^ 50 = 0) ∧
    ((0x3000000000000006 : Word).toNat / 2 ^ 16 = 3 * 2 ^ 44 ∧ (sK 0 .none).launch? 6 = none) ∧
    (∃ l, (sK 0 .none).launch? 7 = some l ∧ l.state = .complete ∧ l.status < 4) ∧ 0 ≤ ((4 : Word) - 3).toInt ∧
    Gives (writeS 7 4) (sK 0 .none) () (after (writeS 7 4) (sK 0 .none)) := by
  refine ⟨?_, ?_, ?_, ?_, ⟨_, rfl, ?_⟩, ?_, ?_⟩ <;> decide +kernel

theorem meets_CountersAndTags_master :
    (self (sK 0 (.answered 9))).latch = .answered 9 ∧
    (Gives (readS 9) (sK 0 .none) 0x2000 (sK 0 .none) ∧ Gives (readS 0) (sK 0 .none) 0 (sK 0 .none) ∧
      (0x2000 : Word).toNat % 64 = 0 ∧ (selfCore (sK 0 .none)).nt = [] ∧ (sK 0 .none).waitOver 0 0 .written = true ∧
      localTile 0xF000000000000100 = true ∧ (0xF000000000000100 : Word).toNat % 8 = 0 ∧
      givesWith (readBytes 64 0xF000000000000100) (sK 0 .none) (fun bs t => bs.length == 64 && !t.master.electing) = true ∧
      givesWith (readBytes 128 0x2000) (sK 0 .none) (fun bs _ => bs.length == 128) = true) ∧
    (nameOk 0x3000000000000007 true = true ∧ 2 ≤ (0x3000000000000007 : Word).toNat / 2 ^ 60 ∧
      Gives (readS 6) (sK 15 .none) 0x3000000000000007 (sK 15 .none) ∧
      ((sK 0 .none).itemAsid 0 0x3000000000000007).getD 0 = 0 ∧ ((sK 0 .none).itemAsid 7 0x3000000000000007).getD 7 ≠ 7) ∧
    ((selfCore (sK 0 .none)).tags &&& 0x10 ≠ 0 ∧ (selfCore (sK 0 .none)).tags &&& 0x10 = 0x10 ∧
      ∀ j ∈ List.range 4, ((selfCore (sK 0 .none)).tags &&& 0x10).getLsbD j = false) ∧
    (sK 0 .none).perfWord 0 0x101 = some 0 ∧ Tab.sorted ((sK 0 .none).core 0).perf = true := by decide +kernel

theorem test_counters : Tab.get 0 (selfCore (next (exec (.cntInc 1 2) (sK 0 .none)))).sc 5 = 7 ∧
    (self (next (exec (.cntRd 7 6) (sK 0 .none)))).scalar 7 = 0x8200000000000006 ∧
    (self (next (exec (.ffr 7 1) (sK 0 .none)))).scalar 7 = 64 ∧
    (self (next (exec (.wtagAny 7 8) (sK 0 .none)))).state = .wait := by decide +kernel

/-- R406, R407: the rectangle of cores (0, 0) and (1, 0) on die 0, W = 2 and H = 1, with V. -/
def rect0 : Word := 0x8000000001020000

/-- Core 0 with its slot in a phase, and a token on its way. -/
def sBar (kind : Nat) : State :=
  { box { slots := [(0, { rect := rect0, phase := 6 })] }
      { ctx0 with barRect := rect0, barPh := 5, s := [(1, rect0), (2, 5), (3, 0x8000000001030002)] } with
    tokens := [{ kind, rect := rect0, dest := 0 }] }

theorem meets_Barriers :
    (Gives (readS 1) (sBar 0) rect0 (sBar 0) ∧ rect0.getLsbD 63 = true ∧ rectOk rect0 0 = true ∧
      ((selfCore (sBar 0)).slotFor rect0).isSome = true ∧ Gives (readS 0) (sBar 0) 0 (sBar 0) ∧
      Gives (readS 3) (sBar 0) 0x8000000001030002 (sBar 0) ∧ rectOk 0x8000000001030002 0 = false) ∧
    (Tab.find (selfCore s0).slots 0 = none ∧ (self (sBar 0)).barRect.getLsbD 63 = true ∧ BarrierAt (sBar 0) rect0 0 ∧
      (sBar 0).waitOver 0 0 (.fenced ((sBar 0).coverOf 0 0 4 none)) = true ∧
      Gives (writeS 7 ((6 : BitVec 32).setWidth 64)) (sBar 0) () (after (writeS 7 ((6 : BitVec 32).setWidth 64)) (sBar 0)) ∧
      (selfCore (sBar 0)).slotFor (self (sBar 0)).barRect = some (0, { rect := rect0, phase := 6 }) ∧
      Gives (readS 2) (sBar 0) 5 (sBar 0) ∧ 0 < ((6 : BitVec 32) - (5 : Word).setWidth 32).toInt) ∧
    (∀ n ∈ [0, 1, 2], (sBar n).tokens[(sBar n).input.n]? = some { kind := n, rect := rect0, dest := 0 } ∧
      BarrierAt (sBar n) rect0 0) ∧ (selfCore s0).slotFor rect0 = none ∧
    ({ rect := rect0, phase := 6 } : BarSlot).arr = false := by decide +kernel

/-- The same with a second row of the rectangle. -/
def rect1 : Word := 0x8000000002020000

/-- The places of the network: core 0 is a head, core 1 a tail and its neighbour, and core 32 the next head. -/
theorem meets_Barriers_network :
    NextLeft s0 rect0 1 0 ∧ NextRight s0 rect0 0 1 ∧ IsHead s0 rect0 0 ∧ IsTail s0 rect0 1 ∧ InFirstRow s0 rect0 0 ∧
    InLastRow s0 rect0 0 ∧ NextHead s0 rect1 0 32 ∧ PreviousHead s0 rect1 32 0 := by
  have x : rectX rect0 = 0 := by decide
  have w : rectW rect0 = 2 := by decide
  have y : rectY rect0 = 0 := by decide
  have h : rectH rect0 = 1 := by decide
  have e0 : s0.enabled 0 = true := by decide
  have e1 : s0.enabled 1 = true := by decide
  have e32 : s0.enabled 32 = true := by decide
  refine ⟨⟨e0, by omega, by omega, by omega, ?_⟩, ⟨e1, by omega, by omega, by omega, ?_⟩, ?_, ?_, ?_, ?_,
    ⟨by decide, e32, ?_, by decide, ?_⟩, ⟨by decide, e0, ?_, by decide, ?_⟩⟩ <;> (intro i; intros; try simp only [yOf] at *) <;> omega

/-- R411: the corner, with ROW set, releases on its own arrival; a row token that comes before that sets ROW. -/
theorem test_barrier_network :
    (next (exec (.barArrive 7) { box { slots := [(0, { rect := rect0, phase := 6, row := true })] }
      { ctx0 with barRect := rect0 } with tokens := [] })).tokens = [{ kind := 2, rect := rect0, dest := 1 }] ∧
    (next (exec .barrierRowToken (sBar 0))).tokens = [] ∧
    ((next (exec .barrierRowToken (sBar 0))).core 0).slotFor rect0 = some (0, { rect := rect0, phase := 6, row := true }) := by
  decide +kernel

theorem test_barrier : ((next (exec .barrierRelease (sBar 2))).ctx 0 0).barPh = 6 ∧
    (self (next (exec (.barSet 1) (sBar 0)))).barPh = 0 ∧
    (self (next (exec (.barArrive 7) (sBar 0)))).scalar 7 = 6 := by decide +kernel

/-! ## The routing plane, launches, Derricks and the master -/

/-- A message of a kind, class and tag with a payload, to core (0, 1) of die 0 from core 2. -/
def msgTo (kind : Nat) (hi : Bool) (tag : Nat) (offset : Nat) (payload : List Word) : Msg :=
  { hdr0 := BitVec.ofNat 64 (offset * 2 ^ 32 + 0x4000)
    hdr1 := BitVec.ofNat 64 (tag * 2 ^ 48 + 2 * 2 ^ 32 + kind * 2 ^ 10 + (if hi then 256 else 0) + 8 * payload.length),
    payload }

/-- On its way to core 1. -/
def flightTo (m : Msg) : Flight := { msg := m, src := 2, dest := 1 }

/-- Core 2's outbox holds an LO and core 3's an HI message, and core 5's one for node 4; both channels hold a dispatch
message for core 1, the LO channel one for core 4 behind its Tip stream, whose Tip region holds one of each class. -/
def sPlane : State :=
  let lo := msgTo 0 false 0 9 [5]
  let hi := msgTo 0 true 0 9 [5]
  { State.reset with
    ready := BitVec.allOnes 54
    cores := [(1, {}), (2, { outbox := [{ msg := lo, ctx := 0, node := 0, dests := [1] }] }),
              (3, { outbox := [{ msg := hi, ctx := 0, node := 0, dests := [1] }, { msg := lo, ctx := 0, node := 0, dests := [1] }] }),
              (4, { tipLo := [⟨0, lo⟩], tipHi := [⟨1, hi⟩] }),
              (5, { outbox := [{ msg := { lo with hdr0 := 0x10004000 }, ctx := 0, node := 4, dests := [] }] })]
    dies := [(0, { pool := [(6, [⟨0, hi⟩])] })], routes := [(4, 2 ^ 62)]
    loFlights := [flightTo lo], hiFlights := [flightTo hi] }

/-- A combining message on its way to router 6, and one held at router 5. -/
def sRouter : State :=
  let f := flightTo (msgTo 4 false 0 0 [])
  { sPlane with hiFlights := [{ f with place := 6 }], routers := [(5, [{ f with dest := 5, place := 5 }])] }

/-- The same with one of the same sum at router 6. -/
def sMerge : State := { sRouter with routers := [(6, [{ flightTo (msgTo 4 false 0 0 []) with place := 6 }])] }

theorem meets_RoutingPlane :
    (∃ e, (sPlane.core 2).outbox = e :: [] ∧ e.node = sPlane.node ∧ e.dests = [1] ∧ sPlane.fenced = 0 ∧
      e.msg.inHi = false) ∧
    (∃ e rest, (sPlane.core 3).outbox = e :: rest ∧ e.node = sPlane.node ∧ e.dests = [1] ∧ e.msg.inHi = true) ∧
    (∃ f, sPlane.loFlights = f :: [] ∧ f.msg.kind = 0 ∧ f.msg.layoutOk = true ∧ sPlane.live f.msg.lid = true ∧
      (sPlane.core f.dest).tipLo = [] ∧ (sPlane.core f.dest).loInbox = []) ∧
    (∃ f, sPlane.hiFlights = f :: [] ∧ f.msg.kind = 0 ∧ f.msg.layoutOk = true ∧ sPlane.live f.msg.lid = true ∧
      sPlane.poolStream f.dest = [] ∧ (sPlane.core f.dest).tipHi = [] ∧ (sPlane.core f.dest).hiInbox = []) ∧
    ((sPlane.core 4).filter = [] ∧ (sPlane.core 4).tipLo.length = 1 ∧ (sPlane.core 4).tipHi.length = 1 ∧
      (sPlane.core 4).tipFull = false ∧ sPlane.hbm.wf = true ∧ (sPlane.core 6).tipHi = [] ∧
      (sPlane.poolStream 6).length = 1 ∧ Tab.sorted (sPlane.die 0).pool = true) ∧
    (∃ f, sRouter.hiFlights = f :: [] ∧ f.place = 6 ∧ Tab.get [] sRouter.routers 6 = []) ∧
    (∃ f, Tab.get [] sRouter.routers 5 = [f] ∧ f.dest = 5 ∧ Tab.sorted sRouter.routers = true) := by
  refine ⟨⟨_, rfl, ?_⟩, ⟨_, _, rfl, ?_⟩, ⟨_, rfl, ?_⟩, ⟨_, rfl, ?_⟩, ?_, ⟨_, rfl, ?_⟩, ⟨_, rfl, ?_⟩⟩ <;> decide +kernel

theorem meets_RoutingPlane_far :
    (∃ e, (sPlane.core 5).outbox = e :: [] ∧ e.node = 4 ∧ sPlane.node = 0 ∧ e.msg.kind = 0 ∧ sPlane.path e.node = 1 ∧
      e.part = none ∧ e.counted = true ∧ (∀ g ∈ sPlane.hiFlights, g.dest ≠ 8192 + e.node) ∧
      ∀ r ∈ sPlane.routers, ∀ g ∈ r.2, g.dest ≠ 8192 + e.node) ∧
    ∃ f q, sMerge.hiFlights = f :: [] ∧ f.place = 6 ∧ Tab.get [] sMerge.routers 6 = [q] ∧ f.msg.mergesInto q.msg = true := by
  refine ⟨⟨_, rfl, rfl, rfl, ?_⟩, _, _, rfl, rfl, rfl, ?_⟩ <;> decide +kernel

/-- R329: a combining message that a router lets go on stands before those that no router has sent on, and behind those
that one has. -/
theorem test_expiry_order :
    (next (exec .combineHoldExpiry { sRouter with
      input := { core := 5 }, hiFlights := [{ flightTo (msgTo 4 false 0 1 []) with routed := true, place := 7 }, flightTo (msgTo 1 false 0 2 [])] }
      )).hiFlights.map (fun f => (f.msg.offset, f.routed)) = [(1, true), (0, true), (2, false)] := by decide +kernel

/-- R335, R337: behind its Tip stream a message takes the lowest free entry. -/
theorem test_tip_entry :
    (let t := next (exec .dispatchMessageArrival { sPlane with loFlights := [{ flightTo (msgTo 0 false 0 9 [7]) with dest := 4 }] })
     ((t.core 4).tipLo.map (·.slot), t.hbm.map fun p => (p.1 - 0x1FC0400000, p.2))) =
      ([0, 2], [(513, 0x40), (516, 9), (520, 8), (524, 2), (528, 7)]) := by decide +kernel

/-- Core 1 holds a message of launch 7, whose binding entry 0 is the offset `bound`. -/
def sDispatch (bound : Word) : State :=
  { State.reset with
    ready := BitVec.allOnes 54
    cores := [(0, { loInbox := [{ msgTo 0 false 0 9 [5, 6] with hdr1 := 0x00000002_00070010 }], bindCache := [(7, [(0, bound)])] })]
    master := { launches := [(7, { desc := [0x100000], state := .running })] } }

/-- The same message as HI. -/
def sDispatchHi : State :=
  (sDispatch 0x8000000000000009).modCore 0 fun x =>
    { x with loInbox := [], hiInbox := [{ msgTo 0 true 0 9 [5, 6] with hdr1 := 0x00000002_00070110 }] }

theorem meets_Dispatching_hi : ∃ m, (sDispatchHi.core 0).hiInbox = m :: [] ∧ m.kind = 0 ∧ m.isHi = true ∧ m.lid = 7 ∧
    (sDispatchHi.ctx 0 12).state = .free ∧ sDispatchHi.input.flag = false ∧ sDispatchHi.tripped = false ∧
    ((next (exec .dispatch sDispatchHi)).ctx 0 12).state = .ready := by
  refine ⟨_, rfl, ?_⟩; decide +kernel

theorem meets_Dispatching : ∃ m l, ((sDispatch 0x8000000000000009).core 0).loInbox = m :: [] ∧ m.kind = 0 ∧
    m.isHi = false ∧ (sDispatch 0x8000000000000009).launch? m.lid = some l ∧
    Tab.find ((sDispatch 0x8000000000000009).core 0).bindCache m.lid = some [(0, 0x8000000000000009)] ∧
    (0x8000000000000009 : Word).toNat % 2 ^ 32 = m.offset ∧ (0x8000000000000008 : Word).toNat % 2 ^ 32 ≠ m.offset ∧
    ((sDispatch 0).ctx 0 0).state = .free ∧ ((sDispatch 8).core 0).park = [] := by
  refine ⟨_, _, rfl, ?_, ?_, rfl, ?_, ?_, ?_, ?_, ?_⟩ <;> decide +kernel

/-- R19: the PC and the first two registers. -/
theorem test_dispatch : ((next (exec .dispatch (sDispatch 0x8000000000000009))).ctx 0 0).pc = 0x100012 ∧
    ((next (exec .dispatch (sDispatch 0x8000000000000009))).ctx 0 0).scalar 2 = 6 ∧
    ((next (exec .dispatch (sDispatch 0x8000000000000008))).core 0).park.length = 1 := by decide +kernel

/-- A sink message is next at core 1, or at core 1024 of die 1. -/
def sSink (m : Msg) (dest : Nat) : State :=
  let c : Copy := { id := 1, ctx := 0, tag := 3, form := .remote 0x4000, dst := 0, src := 0, total := 4, done := 4, seq := 0,
                    asid := 0, lid := 0, hi := false, map := [] }
  { State.reset with
    ready := BitVec.allOnes 54, cores := [(1, { copies := [c], tagCount := [(3, 1)] })]
    hiFlights := [{ flightTo m with dest := dest }] }

/-- A deposit without and with a tag, a channel deposit, an atomic deposit from another die, a counter message, a status
completion, a copy completion and a combining message. -/
theorem meets_Sinks :
    (∀ m ∈ [msgTo 1 false 0 0x900 [5], msgTo 1 false 0x4003 0x900 [5], msgTo 1 false 0x8004 0x900 [5],
        msgTo 3 false 0 0 [4, 7], msgTo 6 false 3 0 [9, 0x900], msgTo 6 false 3 0 [],
        msgTo 4 false 0 0 [0x0002050100100000 + 0x900, 6]],
      SinkFirst (sSink m 1) (flightTo m) ∧ InTile m.offset m.len) ∧
    SinkFirst (sSink (msgTo 2 false 0 0x900 [0, 5, 0]) 1024) { flightTo (msgTo 2 false 0 0x900 [0, 5, 0]) with dest := 1024 } ∧
    SinkFirst (sSink (msgTo 2 false 0 0x900 [0, 5, 0]) 1) (flightTo (msgTo 2 false 0 0x900 [0, 5, 0])) ∧
    clusterOf 2 = clusterOf 1 ∧ ((sSink {} 1).core 1).bad = [] ∧
    ((sSink {} 1).core 1).tile.wf = true ∧ Tab.get 0 ((sSink {} 1).core 1).tagCount 3 = 1 ∧
    InTile ((0x900 : Word).toNat % 2 ^ 20) 8 ∧ InTile 0x900 (8 * 1) := by decide +kernel

theorem test_sinks : ((next (exec .deposit (sSink (msgTo 1 false 0x4003 0x900 [5]) 1))).core 1).tile = [(0x900, 5)] ∧
    ((next (exec .deposit (sSink (msgTo 1 false 0x4003 0x900 [5]) 1))).core 1).tags = 8 ∧
    Tab.get 0 ((next (exec .combiningMessage (sSink (msgTo 4 false 0 0 [0x0002050100100900, 6]) 1))).core 1).sc 5 = 2 ∧
    ((next (exec .combiningMessage (sSink (msgTo 4 false 0 0 [0x0002050100100900, 6]) 1))).core 1).tile = [(0x900, 6)] ∧
    ((next (exec .atomicDeposit (sSink (msgTo 2 false 0 0x900 [0, 5, 0]) 1))).core 1).tile = [(0x900, 5)] ∧
    Tab.get 0 ((next (exec .counterMessage (sSink (msgTo 3 false 0 0 [4, 7]) 1))).core 1).sc 4 = 7 := by decide +kernel

/-- R382: a descriptor of 5 units in the rectangle of core (0, 0) of die 0, code at 0x100000, two constant words. -/
def desc0 : List Word :=
  [0x100000, 0x0000100000000000, 0x0002001800000005, 0, 0, 0, 0, 0, 0, 0, 0, 0, 0x01010000, 0x20000, 0x2000, 0x2800]

/-- The master has a request, from context 0 of core 0; die 0 maps virtual page 2 to physical page 5. -/
def sMaster (q : MasterReq) (launches : Tab Launch) : State :=
  { box {} { ctx0 with latch := .asked } with
    master := { launches, requests := [q] }
    dies := [(0, { tlb := [⟨0, 0x2000, 4096, 0xC700000000005000, 0⟩], coreMap := [some 0] })] }

/-- A launch request, and a cancel of launch 7. -/
def launchReq (desc : List Word) : MasterReq := { core := 0, ctx := 0, asid := 0, desc }

/-- A cancel of launch 7. -/
def cancelReq : MasterReq := { core := 0, ctx := 0, asid := 0, cancel := some (wrap (3 * 2 ^ 60 + 7 : Nat)) }

theorem meets_MasterSteps :
    ((sMaster (launchReq []) []).masterReady = true ∧ (sMaster (launchReq []) []).malformed (launchReq []) = true) ∧
    ((sMaster (launchReq desc0) []).malformed (launchReq desc0) = false ∧ (desc0.getD 2 0).getLsbD 35 = true ∧
      givesWith (masterRead 0 0 ((desc0.getD 12 0).toNat % 2 ^ 56)) (sMaster (launchReq desc0) []) (fun r _ => r.isSome) = true ∧
      (sMaster (launchReq desc0) []).closedFor 0 (descGraph desc0) 0 = false ∧
      (sMaster (launchReq desc0) []).master.freeId = some 1) ∧
    (cancelReq.cancel = some (wrap (3 * 2 ^ 60 + 7 : Nat)) ∧ (sMaster cancelReq []).launch? 7 = none ∧
      (sMaster cancelReq [(7, { state := .complete })]).masterReady = true) := by decide +kernel

/-- A launch request whose map names a core that the map lacks; the level of the descriptor is full; graph 5 is closed; and
every launch ID is taken. -/
theorem meets_MasterSteps_refusals :
    (sMaster (launchReq desc0) []).entryOk 4095 = false ∧ mapEntries [0xFF, 0x0F] 1 = [4095] ∧
    (let s := sMaster (launchReq desc0) []
     let t := { s with dies := [(0, { derrick := { levels := [(0, List.range 64)] } })] }
     64 ≤ (Tab.get [] (t.die 0).derrick.levels 0).length) ∧
    (let s := sMaster (launchReq desc0) []
     ({ s with master := { s.master with items := [{ cls := 4, asid := 0, num := 5, closed := true }] } } : State).closedFor 0 5 0 =
      true) ∧
    4096 ≤ (((List.range 4097).map fun i => (i, ({} : Launch))).filter fun p => p.1 != 0).length := by
  refine ⟨?_, ?_, ?_, ?_, ?_⟩ <;> decide +kernel

/-- A cancel of units 3 and 70 of launch 7, of which chunk 0 has been sent up to 4; and of a graph, a phase and a job. -/
theorem meets_MasterSteps_cancels :
    (let l : Launch := { desc := desc0, state := .running, dealt := 1, chunks := [(0, [{ number := 0, next := 4, count := 0 }])] }
     (sMaster cancelReq [(7, l)]).launch? 7 = some l ∧ l.units = 5 ∧ l.unitSent 3 = true ∧ l.unitSent 4 = false) ∧
    (∀ e ∈ itemNames 0 5 6, (sMaster cancelReq []).item? e.2.1 0 e.2.2.1 = none) ∧
    (let s := sMaster cancelReq []
     let t := { s with master := { s.master with items :=
       [{ cls := 4, asid := 0, num := 5 }, { cls := 5, asid := 0, num := 6, done := true }, { cls := 6, asid := 0, num := 0 }] } }
     (itemNames 0 5 6).map (fun e => (t.item? e.2.1 0 e.2.2.1).map (·.done)) = [some false, some true, some false]) := by
  refine ⟨⟨rfl, ?_⟩, ?_, ?_⟩
  · decide +kernel
  · simp only [itemNames, List.forall_mem_cons]; decide +kernel
  · rfl

/-- R367: the 2,048 bytes of a binding table can be read. -/
theorem meets_MasterSteps_image :
    givesWith (masterRead 0 2048 ((desc0.getD 15 0).toNat % 2 ^ 56)) (sMaster (launchReq desc0) []) (fun r _ => r.isSome) =
      true := by decide +kernel

/-- A filter on its way to core 0, a completion event of launch 7, and its release. -/
def sEvents (state : LaunchState) : State :=
  { box {} { ctx0 with latch := .asked } with
    master := { launches := [(7, { state })], filters := [{ lid := 7, core := 0, ctx := 0, left := [0] }], events := [7] }
    input := { n := 7 } }

theorem meets_MasterSteps_events :
    ((sEvents .running).master.filters = [{ lid := 7, core := 0, ctx := 0, left := [0] }] ∧
      7 ∈ (sEvents .running).master.events ∧ (sEvents .running).master.electing = false) ∧
    (∃ l, (sEvents .running).launch? (sEvents .running).input.n = some l) ∧
    ∃ l, ({ sEvents .complete with master := { (sEvents .complete).master with filters := [] } } : State).launch? 7 =
      some l ∧ l.state = .complete := by
  refine ⟨?_, ⟨_, rfl⟩, ⟨_, rfl, rfl⟩⟩; decide +kernel

/-- R36, R404: what a cancel answers and leaves. -/
theorem test_master : ((next (exec .masterLaunchRequest (sMaster (launchReq []) []))).ctx 0 0).latch =
      .answered 0x0200000000000000 ∧
    ((next (exec .masterCancelRequest (sMaster cancelReq [(7, { state := .complete })]))).ctx 0 0).latch = .answered 1 ∧
    (next (exec .masterCancelRequest (sMaster cancelReq [(7, { state := .running })]))).master.filters.map (·.lid) = [7] := by
  decide +kernel

/-- Launch 7 of 5 units, with a chunk dealt to die 0 or not, and its constant words filled at core 0 or not. -/
def sWork (chunk : Bool) (filled : List Nat) : State :=
  let l : Launch := { desc := desc0, state := .running, dealt := if chunk then 1 else 0,
                      chunks := if chunk then [(0, [{ number := 0, next := 0, count := 0 }])] else [], filled }
  let s := sMaster (launchReq []) [(7, l)]
  { s with
    input := { n := 7 }
    dies := [(0, { tlb := [⟨0, 0x2000, 4096, 0xC700000000005000, 0⟩], coreMap := [some 0], derrick := { levels := [(1, [7])] } })] }

theorem meets_DerrickSteps :
    (∃ l, (sWork false []).reviewAll.launch? 7 = some l ∧ l.sends false = true ∧ l.dealt < l.chunkCount ∧
      (sWork false []).reviewAll.ready.getLsbD 48 = true ∧ (sWork false []).reviewAll.chunkDie l l.dealt = some 0 ∧
      ({ sWork false [] with fenced := 1 } : State).launchDies l = []) ∧
    (((sWork true [0]).die 0).derrick.order = 7 :: [] ∧
      ∃ l, (sWork true [0]).sendable 0 7 = some (l, 0, 0, 0)) ∧
    (∃ l, (sWork true []).launch? 7 = some l ∧ (l.word 13).toNat / 2 ^ 16 % 256 = 2 ∧ l.sends false = true ∧
      (sWork true []).filling 0 7 0 = false ∧
      0 ∉ l.filled ∧ (sWork true []).takesUnits l 0 = true ∧
      givesWith (spanRead (dieMmu 0 0) (.engine 0 (4 * (7 * 4096 + 0) + 3)) 0 (sWork true []).hbmByte 16 ((l.word 14).toNat % 2 ^ 56)) (sWork true [])
        (fun r _ => match r with
          | .ok (bs, bad) => bs.length == 16 && !bad
          | .error _ => false) = true) ∧
    ((sWork true []).die 0).derrick.levels.find? (fun p => p.2.contains 7) = some (1, [7]) := by
  refine ⟨⟨_, rfl, ?_⟩, ⟨?_, ⟨_, rfl⟩⟩, ⟨_, rfl, ?_⟩, ?_⟩ <;> decide +kernel

/-- The last deposit of the two constant words, on its way from the Derrick of die 0 to core 1. -/
def sFill : State :=
  let m := { msgTo 1 false 0 0 [5, 6] with hdr1 := BitVec.ofNat 64 (4096 * 2 ^ 32 + 7 * 2 ^ 16 + 2 ^ 10 + 16) }
  { sWork true [] with hiFlights := [{ flightTo m with src := 4096 }], input := {} }

theorem meets_DerrickSteps_fill : ∃ f l, SinkFirst sFill f ∧ f.msg.kind = 1 ∧ f.msg.tag = 0 ∧ f.src = 4096 ∧
    sFill.launch? f.msg.lid = some l ∧ (l.word 13).toNat / 2 ^ 16 % 256 = 2 ∧ 8 * 2 ≤ f.msg.offset + f.msg.len := by
  refine ⟨_, _, ⟨rfl, rfl, rfl, rfl, ?_⟩, rfl, rfl, rfl, rfl, ?_, ?_⟩ <;> decide +kernel

/-- R129, R227: the Derrick sends the two words in one deposit, and the last deposit names the launch. -/
theorem test_fill : ((next (exec .constantFill (sWork true []))).hiFlights.map fun f => (f.dest, f.src, f.msg.len)) =
      [(0, 4096, 16)] ∧
    ((next (exec .deposit sFill)).core 1).fillLen = 2 ∧ ((next (exec .deposit sFill)).core 1).fillLid = 7 := by
  decide +kernel

/-- Core 0 holds a delta of 3 for launch 7, and a sweep waits for it or is over. -/
def sSweep (running : Bool) (left : List Nat) (delta : Tab Int) (zeros : Nat) : State :=
  { box { delta } ctx0 with
    master := { launches := [(7, { desc := desc0, state := .running, dealt := 1, zeros })], sweep := { running, left } } }

theorem meets_DerrickSteps_sweep :
    (((sSweep false [] [(7, 3)] 0).core 0).delta = [(7, 3)] ∧ (sSweep false [] [(7, 3)] 0).live 7 = true ∧
      (sSweep false [] [(7, 3)] 0).masterReady = true) ∧
    (0 ∈ (sSweep true [0] [] 0).master.sweep.left ∧ ((sSweep true [0] [] 0).core 0).delta = []) ∧
    ((sSweep true [] [] 1).master.sweep = { running := true, left := [] } ∧
      ∃ l, (sSweep true [] [] 1).master.launches = [(7, l)] ∧ l.state = .running ∧ l.unsent = false ∧ l.zeros = 1) ∧
    ((sSweep false [] [] 0).fenced.getLsbD 0 = false ∧
      ({ State.reset with fenced := 1, master := { electing := true } } : State).fenced ≠ 0xF) := by
  refine ⟨?_, ?_, ⟨?_, ⟨_, rfl, ?_⟩⟩, ?_⟩ <;> decide +kernel

/-- R32: the unit's index leads its message; R33: the second sweep with sum 0 makes the event due; R44: the election. -/
theorem test_derrick : (next (exec .derrickDispatch (sWork true [0]))).loFlights.map (fun f => f.msg.payload.head?) =
      [some 0] ∧ (next (exec .sweepComplete (sSweep true [] [] 1))).master.events = [7] ∧
    (next (exec .masterElection { State.reset with fenced := 1, master := { electing := true } })).master.die = 1 := by
  decide +kernel

/-! ## Tables and the Bench -/

/-- The SCALE bytes of `n` records from an offset on. -/
def scales : Nat → Nat → Memory
  | _, 0 => []
  | a, n + 1 => (a, 8) :: scales (a + 32) n

/-- A Bench image at an address (R213): version 1, dividers of 65,536, and cells whose SCALE is 8. -/
def imageAt (b : Nat) : Memory := [(b, 1), (b + 0x2A, 1), (b + 0x2E, 1), (b + 0x32, 1), (b + 0x36, 1)] ++ scales (b + 0x59) 256

/-- Core 0 with it in its tile, and s1 its address. -/
def sImage : State := box { tile := imageAt 0x1000 } { ctx0 with s := [(1, 0xF000000000001000)] }

theorem scales_read (n : Nat) : ∀ a o, Tab.get 0#8 (scales a n) o =
    if a ≤ o ∧ o < a + 32 * n ∧ (o - a) % 32 = 0 then 8#8 else 0#8 := by
  induction n with
  | zero => intro a o; rw [if_neg (by omega)]; rfl
  | succ n ih =>
    intro a o
    simp only [scales, Tab.get, ih]
    by_cases h1 : o < a
    · rw [if_pos h1, if_neg (by omega)]
    · by_cases h2 : o = a
      · rw [if_neg h1, if_pos h2, if_pos (by omega)]; rfl
      · rw [if_neg h1, if_neg h2]
        by_cases h3 : a + 32 ≤ o ∧ o < a + 32 + 32 * n ∧ (o - (a + 32)) % 32 = 0
        · rw [if_pos h3, if_pos (by omega)]
        · rw [if_neg h3, if_neg (by omega)]

theorem image_shift (b o : Nat) : Memory.read (imageAt b) (b + o) = Memory.read (imageAt 0) o := by
  have h : ∀ n a, Tab.get 0#8 (scales (b + a) n) (b + o) = Tab.get 0#8 (scales a n) o := by
    intro n a
    rw [scales_read, scales_read]
    by_cases c : a ≤ o ∧ o < a + 32 * n ∧ (o - a) % 32 = 0
    · rw [if_pos c, if_pos (by omega)]
    · rw [if_neg c, if_neg (by omega)]
  simp only [Memory.read, imageAt, List.cons_append, List.nil_append, Tab.get, h, Nat.zero_add, Nat.add_lt_add_iff_left,
    Nat.add_left_cancel_iff, Nat.add_eq_left, Nat.not_lt_zero]
  by_cases c : o = 0
  · subst c; simp
  · simp [c]

theorem image_read (o : Nat) (h : 0x37 ≤ o) : Memory.read (imageAt 0) o =
    if 0x59 ≤ o ∧ o < 0x59 + 32 * 256 ∧ (o - 0x59) % 32 = 0 then 8#8 else 0#8 := by
  rw [← scales_read 256]
  simp only [Memory.read, imageAt, List.cons_append, List.nil_append, Tab.get, Nat.zero_add]
  repeat rw [if_neg (by omega), if_neg (by omega)]

theorem upFrom_drop (k : Nat) : ∀ a n, (upFrom a n).drop k = upFrom (a + k) (n - k) := by
  induction k with
  | zero => intro a n; rfl
  | succ k ih =>
    intro a n
    cases n with
    | zero => simp [upFrom]
    | succ n => simp only [upFrom, List.drop_succ_cons, ih, Nat.succ_sub_succ]; congr 1; omega

theorem upFrom_take (k : Nat) : ∀ a n, k ≤ n → (upFrom a n).take k = upFrom a k := by
  induction k with
  | zero => intro a n _; rfl
  | succ k ih =>
    intro a n h
    cases n with
    | zero => omega
    | succ n => simp only [upFrom, List.take_succ_cons, ih (a + 1) n (by omega)]

theorem upFrom_range (n : Nat) : ∀ a, upFrom a n = (List.range n).map (a + ·) := by
  induction n with
  | zero => intro a; rfl
  | succ n ih =>
    intro a
    rw [upFrom, ih, List.range_succ_eq_map, List.map_cons, List.map_map]
    congr 1
    apply List.map_congr_left
    intro k _
    simp only [Function.comp]; omega

theorem wordsOf_getD (n : Nat) : ∀ (bs : List Byte) (i : Nat), i < n →
    (wordsOf n bs).getD i 0 = wordOf ((bs.drop (8 * i)).take 8) := by
  induction n with
  | zero => intro bs i h; omega
  | succ n ih =>
    intro bs i h
    cases i with
    | zero => rfl
    | succ i =>
      simp only [wordsOf, List.getD_cons_succ, ih _ i (by omega), List.drop_drop]
      congr 3; omega

/-- Word `i` of the image. -/
def imageWord (i : Nat) : Word := wordOf ((upFrom (8 * i) 8).map (Memory.read (imageAt 0)))

theorem image_words (b n i : Nat) (h : 8 * i + 8 ≤ n) (f : Nat → Byte) (hf : ∀ o, f (b + o) = Memory.read (imageAt b) (b + o)) :
    wordOf ((((upFrom b n).map f).drop (8 * i)).take 8) = imageWord i := by
  rw [← List.map_drop, ← List.map_take, upFrom_drop, upFrom_take _ _ _ (by omega), imageWord, upFrom_range, upFrom_range,
    List.map_map, List.map_map]
  congr 1
  apply List.map_congr_left
  intro o _
  simp only [Function.comp, Nat.add_assoc, hf, image_shift]

theorem image_record (n j : Nat) (hn : n < 256) (hj : j < 4) : imageWord (8 + 4 * n + j) = if j = 3 then 0x800 else 0 := by
  have e : (upFrom (8 * (8 + 4 * n + j)) 8).map (Memory.read (imageAt 0)) =
      (List.range 8).map fun k => if j = 3 ∧ k = 1 then 8#8 else 0#8 := by
    rw [upFrom_range, List.map_map]
    apply List.map_congr_left
    intro k hk
    have hk : k < 8 := by simpa using hk
    simp only [Function.comp]
    rw [image_read _ (by omega)]
    by_cases c : j = 3 ∧ k = 1
    · rw [if_pos c, if_pos (by omega)]
    · rw [if_neg c, if_neg (by omega)]
  rw [imageWord, e]
  rcases (show j = 0 ∨ j = 1 ∨ j = 2 ∨ j = 3 by omega) with rfl | rfl | rfl | rfl <;> decide

theorem image_good (bs : List Byte) (h : ∀ i, i < 1288 → wordOf ((bs.drop (8 * i)).take 8) = imageWord i) :
    imageFault (wordsOf 1288 bs) = none := by
  have hw : ∀ i, i < 1288 → (wordsOf 1288 bs).getD i 0 = imageWord i := fun i hi => by rw [wordsOf_getD _ _ _ hi, h i hi]
  simp only [imageFault, List.find?_eq_none]
  intro i hi
  have hi : i < 1288 := by
    rw [upFrom_range] at hi
    obtain ⟨k, hk, rfl⟩ := List.mem_map.mp hi
    have : k < 1288 := by simpa [imageWords] using hk
    omega
  simp only [Bool.not_eq_true, Bool.not_eq_false', imageWordOk, hw i hi]
  by_cases h8 : i < 8
  · rcases (show i = 0 ∨ i = 1 ∨ i = 2 ∨ i = 3 ∨ i = 4 ∨ i = 5 ∨ i = 6 ∨ i = 7 by omega) with
      rfl | rfl | rfl | rfl | rfl | rfl | rfl | rfl <;> norm_num <;> decide +kernel
  · by_cases h9 : i < 1032
    · rw [if_neg (by omega), if_neg (by omega), if_neg (by omega), if_neg (by omega), if_pos h9]
      have hr : ∀ j, j < 4 → (wordsOf 1288 bs).getD (8 + (i - 8) / 4 * 4 + j) 0 = if j = 3 then 0x800 else 0 := by
        intro j hj
        rw [hw _ (by omega), ← image_record ((i - 8) / 4) j (by omega) hj]
        congr 1; omega
      rcases (show (i - 8) % 4 = 0 ∨ (i - 8) % 4 = 1 ∨ (i - 8) % 4 = 2 ∨ (i - 8) % 4 = 3 by omega) with h | h | h | h <;>
        simp only [h, recordOk, hr 0 (by omega), hr 2 (by omega), hr 3 (by omega)] <;> decide
    · rw [if_neg (by omega), if_neg (by omega), if_neg (by omega), if_neg (by omega), if_neg h9]

/-- The image's bytes in the tile. -/
def imageBytes : List Byte := (upFrom 0x1000 10304).map (sImage.tileByte 0)

theorem image_tile (o : Nat) : sImage.tileByte 0 (0x1000 + o) = Memory.read (imageAt 0x1000) (0x1000 + o) := by
  have hi : identityAt (0x1000 + o) = false := by simp only [identityAt, decide_eq_false_iff_not]; omega
  simp only [State.tileByte, hi]
  rfl

theorem lanes_over (s : State) (k c : Nat) (bytes : List Nat) (hl : (s.core k).lanes = []) (hm : (s.core k).matrix = []) :
    s.waitOver k c (.laneReads bytes) = true ∧ s.waitOver k c (.laneBytes bytes) = true := by
  simp [State.waitOver, State.laneWrites, State.laneTouches, State.mstTile, hl, hm]

/-- R213: an image in order is read; one whose version is 0 has its fault in word 0. -/
theorem meets_BenchInstructions_image : Gives (readS 1) sImage (ownTile 0x1000) sImage ∧
    Gives (readBytes 10304 (ownTile 0x1000)) sImage imageBytes sImage ∧ imageBytes.length = 10304 ∧
    imageFault (wordsOf 1288 imageBytes) = none ∧ imageFault (wordsOf 1288 (List.replicate 10304 0)) = some 0 ∧
    WriteClear sImage 0x1000 10304 := by
  have h : ownTile 0x1000 = tileAddr 0x1000 := rfl
  refine ⟨by decide +kernel, ?_, ?_, image_good _ fun i hi => image_words _ _ _ (by omega) _ image_tile, rfl, (lanes_over sImage 0 0 _ rfl rfl).2⟩
  · rw [h]
    exact readBytes_own sImage 0x1000 10304 (by decide) (lanes_over sImage 0 0 _ rfl rfl).1 rfl
  · rw [imageBytes, upFrom_range, List.length_map, List.length_map, List.length_range]

/-- Core 0 of ASID 0 in context `c` with launch 7 running; s1 = 0x100, an own tile address in s2, the bytes there a record;
s3 names publish buffer 3 of die 0, s4 and s5 virtual page 2 and die 0's core 0. -/
def sTables (c : Nat) (latch : Latch) (rec : Memory) : State :=
  { boxAt c { tile := rec, utlb := [⟨0, 0x2000, 4096, 0xC700000000005000, 0⟩] }
      { ctx0 with launchId := 7, latch, s := [(1, 0x100), (2, 0xF000000000001000), (3, 3), (4, 0x2000), (5, 0)] } with
    master := { launches := [(7, { desc := desc0, state := .running })],
                regions := [(0, [0x8000000000010000, 0, 1, 0])] }
    dies := [(0, { coreMap := [none, some 9], publish := [(3, [0x8000000000000001, 0, 0, 0])] })] }

/-- A record of one page at virtual page `p`, in tile bytes from 0x1000 on (R369). -/
def regionRec (p : Byte) : Memory := (if p = 0 then [] else [(0x1002, p)]) ++ [(0x1010, 1)]

theorem meets_TableInstructions_handlers :
    Gives (readS 0) (sTables 0 .none []) 0 (sTables 0 .none []) ∧ Gives (readS 1) (sTables 0 .none []) 0x100 (sTables 0 .none []) ∧
    (self (sTables 0 .none [])).latch = .none ∧ (self (sTables 0 .none [])).launchId.toNat = 7 ∧
    (∃ l, (sTables 0 .none []).launch? 7 = some l ∧ l.asid = (selfCore (sTables 0 .none [])).asid.toNat ∧
      (0x100 : Word).toNat < (l.word 1).toNat / 2 ^ 33) ∧
    (∀ p ∈ (sTables 0 .none []).cores, Tab.find p.2.bindCache 7 = none) ∧
    (sTables 0 .none []).master.bindings ++ (sTables 0 .none []).master.regionChanges ++ (sTables 0 .none []).master.filters ++
      (sTables 0 .none []).master.exchanges = [] := by
  refine ⟨?_, ?_, ?_, ?_, ⟨_, rfl, ?_⟩, ?_, ?_⟩ <;> decide +kernel

/-- Core 1 caches launch 7's table; the fence of every die but 3 leaves its Derrick and that core. -/
theorem meets_TableInstructions_way :
    (let s := { (sTables 0 .none []).modCore 1 (fun x => { x with bindCache := [(7, [])] }) with fenced := 7 }
     OnTheWay s 7 4099 ∧ OnTheWay s 7 1 ∧ s.fenced.getLsbD 3 = false) ∧
    ({ ctx0 with latch := .asked } : Ctx).latch = .asked := by
  refine ⟨⟨Or.inl ⟨3, by decide, by decide, rfl⟩, Or.inr ⟨(1, { bindCache := [(7, [])] }), ?_, rfl, rfl⟩, by decide⟩, rfl⟩
  exact List.mem_cons_of_mem _ List.mem_cons_self

/-- A region that meets none, one that meets the region at page 0x10, and the entries of `unbind`. -/
theorem meets_TableInstructions_regions :
    (∀ p ∈ [(1 : Byte), 3], givesWith (tileRecord 0xF000000000001000 8 4) (sTables 15 .none (regionRec p)) (fun ws t =>
      regionOk ws && decide (Gives (writeS 6 (wrap (-2))) t () (after (writeS 6 (wrap (-2))) t)) &&
      (regionsMeet [0x8000000000010000, 0, 1, 0] (regionEntry ws (selfCore t).asid.toNat) == decide (p = 1))) = true) ∧
    Gives (readS 2) (sTables 15 .none (regionRec 3)) 0xF000000000001000 (sTables 15 .none (regionRec 3)) ∧
    regionValid (Tab.get [] (sTables 15 .none (regionRec 3)).master.regions 1) = false ∧
    (∀ j, j < 1 → regionValid (Tab.get [] (sTables 15 .none (regionRec 3)).master.regions j) = true) ∧
    Gives (readS 5) (sTables 15 .none []) 0 (sTables 15 .none []) ∧ Gives (readS 3) (sTables 15 .none []) 3 (sTables 15 .none []) ∧
    (self (sTables 15 (.answered 9) [])).latch = .answered 9 := by decide +kernel

/-- `publish` of buffer 3, which is the ASID's; a record of one page, for buffer 0, which has no entry. -/
theorem meets_TableInstructions_publish :
    (regionValid ((sTables 15 .none []).publishEntry 3) = true ∧
      (((sTables 15 .none []).publishEntry 3).getD 0 0).toNat / 2 ^ 48 % 2 ^ 13 = (selfCore (sTables 15 .none [])).asid.toNat ∧
      (sTables 15 .none []).waitOver 0 15 (.copies 0 3 true) = true ∧ (sTables 15 .none []).waitOver 0 15 .written = true ∧
      (selfCore (sTables 15 .none [])).nt = [] ∧
      (sTables 15 .none []).waitOver 0 15 (.copies 0 3 false) = true) ∧
    givesWith (tileRecord 0xF000000000001000 1 4) (sTables 15 .none [(0x1000, 1)]) (fun ws t =>
      publishOk ws && !regionValid (t.publishEntry 0)) = true := by decide +kernel

theorem meets_TableInstructions_translations :
    (∀ p ∈ (sTables 0 .none []).cores, p.2.nt = []) ∧
    (∀ w ∈ [(some 0, some 0x2000), (some 0, none), (none, none)], (sTables 0 .none []).translationsDone w.1 w.2 = true) ∧
    (sTables 0 .none []).waitOver 0 0 .written = true ∧
    Removed (some 0) (some 0x2000) ⟨0, 0x2000, 4096, 0xC700000000005000, 0⟩ ∧
    ¬Removed (some 0) (some 0x3000) ⟨0, 0x2000, 4096, 0xC700000000005000, 0⟩ ∧
    (∃ e, (sTables 0 .none []).lookup 0 0 0x2000 = (.leaf e, (sTables 0 .none []).lookup 0 0 0x2000 |>.2) ∧
      ((sTables 0 .none []).lookup 0 0 0x2000).2.placeOf e 0 0x2000 .any = .ok (.here 0x5000) ∧
      e.covers 0 0x2000 = true ∧ (∀ d, d < 4 → ((sTables 0 .none []).lookup 0 0 0x2000).2.canPin d e 0x2000 = true) ∧
      ∀ d, d < 4 → ∀ y ∈ (((sTables 0 .none []).lookup 0 0 0x2000).2.die d).tlb, y.covers 0 0x2000 = true →
        y.va = e.va ∧ y.size = e.size) ∧
    (sTables 0 .none []).pins 0 0 0x2000 = 0 ∧ Gives (readS 4) (sTables 0 .none []) 0x2000 (sTables 0 .none []) ∧
    (sTables 0 .none []).fenced.getLsbD 0 = false ∧ ((sTables 0 .none []).die 0).coreMap.getD 1 none = some 9 ∧
    ((sTables 0 .none []).die 0).coreMap.getD 0 none = none ∧ (sTables 0 .none []).iss.ctx ≠ 15 := by
  refine ⟨?_, ?_, ?_, ?_, ?_, ⟨_, rfl, ?_⟩, ?_⟩
  · decide +kernel
  · decide +kernel
  · decide +kernel
  · exact ⟨Or.inr rfl, fun v h => by cases h; rfl⟩
  · exact fun h => absurd (h.2 _ rfl) (by decide)
  · decide +kernel
  · decide +kernel

/-- A pin that cannot rise, one that can fall, and the core map that holds site 9 at index 1. -/
theorem meets_TableInstructions_pins :
    (let pinned := fun (n : Nat) => ({ sTables 0 .none [] with dies := (List.range 4).map fun d =>
        (d, { coreMap := [none, some 9], tlb := [⟨0, 0x2000, 4096, 0xC700000000005000, n⟩] }) } : State)
     (pinned 65535).canPin 0 ⟨0, 0x2000, 4096, 0xC700000000005000, 65535⟩ 0x2000 = false ∧ (pinned 2).pins 0 0 0x2000 ≠ 0 ∧
      (next (exec (.tlbpin 6 4 1) (pinned 2))).pins 3 0 0x2000 = 1) ∧
    (sTables 0 .none []).enabled ((9 * 2 ^ 14 : Word).toNat / 2 ^ 14 % 2 ^ 12) = true ∧
    ((sTables 0 .none []).die 0).coreMap[1]? = some (some 9) ∧ some 8 ∉ ((sTables 0 .none []).die 0).coreMap ∧
    Gives (writeS 6 1) (sTables 0 .none []) () (after (writeS 6 1) (sTables 0 .none [])) ∧
    ((sTables 0 .none []).die 0).coreMap.countP Option.isSome = 1 := by decide +kernel

/-- R386: the offset with V; R387: entry 1 is the first that is not valid; R391. -/
theorem test_tables :
    Tab.get 0 ((next (exec (.bindh 0 1 2) (sTables 0 .none []))).launchOf 7).bindings 2 = 0x8000000000000100 ∧
    (self (next (exec (.bind 6 2) (sTables 15 .none (regionRec 3))))).latch = .answered 1 ∧
    (self (next (exec (.bind 6 2) (sTables 15 .none (regionRec 1))))).scalar 6 = 0xFFFFFFFFFFFFFFFE ∧
    (next (exec (.tlbpin 6 4 0) (sTables 0 .none []))).pins 2 0 0x2000 = 1 ∧
    (next (exec (.tlbinv 0 1) (sTables 0 .none []))).cores.map (·.2.utlb) = [[]] := by decide +kernel

/-- Steps by which tables change: core 0 caches launch 7's table, die 0 has a region change and an exchange to apply. -/
def sSteps (cached : Bool) : State :=
  let e : Change := { lid := 7, slot := 2, entry := 9, words := [1], core := 0, ctx := 0, left := [0] }
  { sDispatch 9 with
    cores := [(0, { loInbox := [{ msgTo 0 false 0 9 [5, 6] with hdr1 := 0x00000002_00070010 }],
                    bindCache := if cached then [(7, [])] else [], utlb := [] })]
    dies := [(0, { tlb := [⟨0, 0x2000, 4096, 0xC700000000005000, 0⟩], publish := [(3, [0x8000000000000001, 0, 0, 0])] })]
    input := { n := if cached then 3 else 7, word := 0x2000, sites := [some 4, none] }
    master := { launches := [(7, {})], bindings := [e], regionChanges := [e], exchanges := [{ e with slot := 3 }] } }

theorem meets_TableSteps :
    (∃ e, (sSteps true).master.bindings = [e] ∧ (sSteps true).input.flag = false ∧ e.left = [(sSteps true).input.core] ∧
      Tab.find ((sSteps true).core (sSteps true).input.core).bindCache e.lid = some []) ∧
    (∃ m l, ((sSteps false).core (sSteps false).input.core).loInbox = m :: [] ∧ m.kind = 0 ∧ (sSteps false).input.n = m.lid ∧
      (sSteps false).launch? m.lid = some l ∧ Tab.find ((sSteps false).core (sSteps false).input.core).bindCache m.lid = none ∧
      ((sSteps false).core (sSteps false).input.core).bindCache.length < 8) ∧
    (∃ e, (sSteps true).master.regionChanges = [e] ∧ e.left = [(sSteps true).input.die]) ∧
    (∃ e, (sSteps true).master.exchanges = e :: [] ∧ e.slot = 1024 * (sSteps true).input.die + (sSteps true).input.n) ∧
    ((∀ e ∈ ((sSteps true).core 0).utlb, e.covers 0 0x2000 = false) ∧
      ((sSteps true).die 0).tlb.find? (fun x => x.covers 0 0x2000) = some ⟨0, 0x2000, 4096, 0xC700000000005000, 0⟩ ∧
      (((sSteps true).die 0).tlb.filter fun x => x.set == 2 && x.pins != 0).length < 8) ∧
    ((sSteps true).input.sites.length ≤ 1024 ∧ ∀ e ∈ (sSteps true).input.sites, ∀ n, e = some n → n < 1024) := by
  refine ⟨⟨_, rfl, ?_⟩, ⟨_, _, rfl, ?_, ?_, rfl, ?_⟩, ⟨_, rfl, ?_⟩, ⟨_, rfl, ?_⟩, ?_, ?_⟩
  on_goal 7 => simp [sSteps]
  all_goals decide +kernel

/-- The tables of ASID 0 from address 0x1000 on: virtual addresses below 2^30 are the same physical ones. -/
def sWalk : State :=
  { sSteps true with
    asids := [(0, 0x8000000000001000)], dies := []
    hbm := [(0x1001, 0x20), (0x1007, 0x80), (0x2001, 0x30), (0x2007, 0x80), (0x3007, 0xC7)] }

theorem meets_TableSteps_walk : (sWalk.core 0).utlb = [] ∧ (sWalk.die 0).tlb = [] ∧ sWalk.hbm.wf = true ∧
    sWalk.input.word = 0x2000 ∧ (sWalk.core 0).asid = 0 ∧
    (sWalk.walk 0 0 0x2000).1 = .leaf ⟨0, 0, 2 ^ 30, 0xC700000000000000, 0⟩ := by decide +kernel

/-- R375, R378: three entries are read, and the leaf goes to both tables. -/
theorem test_page_walk : (let t := next (exec .pageWalk sWalk)
     ((t.core 0).utlb.map (·.size), (t.die 0).tlb.map (·.leaf))) = ([2 ^ 30], [0xC700000000000000]) := by decide +kernel

/-- A change that has yet to reach die 0's Derrick, which has a table of launch 7, before core 0. -/
def sChange : State :=
  let s := sSteps true
  { s with
    dies := [(0, { bindings := [(7, [(0, 5)])] })], input := { flag := true }
    master := { s.master with bindings := [{ lid := 7, slot := 2, entry := 9, core := 0, ctx := 0, left := [4096, 0] }] } }

theorem meets_TableSteps_derrick : ∃ e, sChange.master.bindings = [e] ∧ sChange.input.flag = true ∧ e.left = [4096, 0] ∧
    4096 + sChange.input.die ∉ [0] ∧ Tab.find (sChange.die sChange.input.die).bindings e.lid = some [(0, 5)] ∧
    ({ sChange with input := {} } : State).input.flag = false ∧ 4096 + 0 / 1024 ∈ e.left := by
  refine ⟨_, rfl, ?_⟩; decide +kernel

/-- R368: the change of slot 2 stands in the Derrick's copy first. -/
theorem test_binding_change : Tab.find ((next (exec .bindingChangeApply sChange)).die 0).bindings 7 = some [(0, 5), (2, 9)] ∧
    (next (exec .bindingChangeApply sChange)).master.bindings.map (·.left) = [[0]] := by decide +kernel

/-- Cell 0 takes the step clock of domain 0 as dx, Y = 300 and SCALE 8; cell 1 is as after reset. -/
def cell0 : Cell := { cfg := 1, y := 300, patch := 0x1FF7FD00 }

/-- Core 0 with it. s1 names cell 0 and selector `sel`, s2 holds a value, s3 an own tile address, s5 domain 1, s6 the
trigger of cell 0 with mode 5, s7 cells 0 to 255 of `isnap`, s8 a HDR0. -/
def sCells (sel : Nat) (v : Word) : State :=
  box { bench := { cells := [(0, cell0)] } }
    { ctx0 with launchId := 7, s := [(1, BitVec.ofNat 64 (sel * 256)), (2, v), (3, 0xF000000000001000), (5, 1), (6, 0x500),
                                     (7, 0x10000), (8, 0x9000000004000)] }

/-- No image is on its way, or context 3 has one. -/
theorem meets_BenchInstructions_free : NoImage (sCells 0 0) ∧
    ¬NoImage ((sCells 0 0).modCore 0 fun x => { x with ctxs := x.ctxs ++ [(3, { imaging := true })] }) := by
  unfold NoImage; decide +kernel

/-- Context 0 finds context 3's image on its way. -/
def sImaging : State := (sCells 0 0).modCore 0 fun x => { x with ctxs := x.ctxs ++ [(3, { imaging := true })] }

/-- The operands of `istep` there. -/
theorem meets_BenchInstructions_waits : ¬NoImage sImaging ∧ (self sImaging).latch = .none ∧
    Gives (readS 2) sImaging 0 sImaging ∧ Gives (readS 5) sImaging 1 sImaging := by
  unfold NoImage; decide +kernel

/-- R213. -/
theorem test_image_wait : ∀ i ∈ [Instr.iget 9 1, .isave 3, .istep 9 2 5],
    (self (next (exec i sImaging))).waitOn = some .image ∧ (next (exec i sImaging)).iss.retired = false := by
  decide +kernel

/-- Values that `iset` takes and refuses for the cell, by selector. -/
theorem meets_BenchInstructions_iset :
    ((8 ≤ (8 : Word).toNat % 32 ∧ cell0.rs.toInt.natAbs < 2 ^ ((8 : Word).toNat % 32)) ∧ ¬8 ≤ (7 : Word).toNat % 32) ∧
    ((∀ i, i < 3 → (0x15 : Word).toNat / 2 ^ (2 * i) % 4 ≠ 2) ∧ ¬∀ i, i < 3 → (0x08 : Word).toNat / 2 ^ (2 * i) % 4 ≠ 2) ∧
    ((3 : Word).toNat % 4 ≠ 2 ∧ ¬(2 : Word).toNat % 4 ≠ 2) := by decide

/-- The first and last selector of `iget`, and residues at either end for `iset`. -/
theorem meets_BenchInstructions :
    (Gives (readS 1) (sCells 0 0) 0 (sCells 0 0) ∧ Gives (readS 1) (sCells 12 0) 0xC00 (sCells 12 0) ∧
      Gives (writeS 9 300) (sCells 0 0) () (after (writeS 9 300) (sCells 0 0)) ∧
      Gives (writeS 9 0) (sCells 12 0) () (after (writeS 9 0) (sCells 12 0))) ∧
    (Gives (readS 2) (sCells 1 (-255)) (-255) (sCells 1 (-255)) ∧ Gives (readS 2) (sCells 1 256) 256 (sCells 1 256) ∧
      ((-255 : Word).setWidth 32).toInt.natAbs < 2 ^ cell0.scale.toNat ∧
      ((255 : Word).setWidth 32).toInt.natAbs < 2 ^ cell0.scale.toNat ∧
      2 ^ cell0.scale.toNat ≤ ((-256 : Word).setWidth 32).toInt.natAbs ∧
      2 ^ cell0.scale.toNat ≤ ((256 : Word).setWidth 32).toInt.natAbs) ∧
    ∀ n ∈ [0, 1, 5, 12, 9, 10, 11], (BitVec.ofNat 64 (n * 256)).toNat / 2 ^ 8 % 16 = n := by decide +kernel

/-- Commands of `iclk` with a divider at either end; patch entries; modes 0 and 5 of `ibind`. -/
theorem meets_BenchInstructions_clocks :
    (Gives (readS 2) (sCells 0 0x40003) 0x40003 (sCells 0 0x40003) ∧ (0x40003 : Word).toNat < 2 ^ 33 ∧
      (0x40003 : Word).toNat / 4 % 2 ^ 14 = 0 ∧ (0x40003 : Word).toNat / 2 ^ 16 = 4 ∧
      (0x100000003 : Word).toNat < 2 ^ 33 ∧ (0x100000003 : Word).toNat / 4 % 2 ^ 14 = 0 ∧
      (0x100000003 : Word).toNat / 2 ^ 16 = 65536) ∧
    Gives (readS 5) (sCells 0 0) 1 (sCells 0 0) ∧
    (PatchLegal 0x1FF7FD04 ∧ PatchLegal 0 ∧ ¬PatchLegal 0x105 ∧ ¬PatchLegal 0x40000000) ∧
    (Gives (readS 6) (sCells 0 0) 0x500 (sCells 0 0) ∧ Gives (readS 8) (sCells 0 0) 0x9000000004000 (sCells 0 0) ∧
      (0x500 : Word).toNat / 2 ^ 8 % 8 = 5 ∧ (0x9000000004000 : Word).toNat % 2 ^ 13 = 0 ∧
      ((bench (sCells 0 0)).cell 0).armed = false ∧ (self (sCells 0 0)).launchId ≠ 0) := by decide +kernel

/-- `isnap` of all the cells, and the room for `isave`. -/
theorem meets_BenchInstructions_tile :
    (Gives (readS 3) (sCells 0 0) (ownTile 0x1000) (sCells 0 0) ∧ Gives (readS 7) (sCells 0 0) 0x10000 (sCells 0 0) ∧
      (0x10000 : Word).toNat / 2 ^ 8 % 2 ^ 9 = 256 ∧ (self (sCells 0 0)).latch = .none ∧ InTile 0x1000 (4 * 256) ∧ (selfCore (sCells 0 0)).tile.wf = true ∧
      (selfCore (sCells 0 0)).bad = []) ∧
    WriteClear (sCells 0 0) 0x1000 (4 * 256) ∧ WriteClear (sCells 0 0) 0x1000 10304 :=
  ⟨by decide +kernel, (lanes_over (sCells 0 0) 0 0 _ rfl rfl).2, (lanes_over (sCells 0 0) 0 0 _ rfl rfl).2⟩

/-- Core 0 after the last of seven ticks of an `istep`. -/
def sStepped : State :=
  (sCells 0 0).modCore 0 fun x =>
    { x with ctxs := [(0, { ctx0 with latch := .asked, s := [(5, 1)] })]
             bench := { domains := [(0, { stepper := some 0, stepDone := 7 })] } }

/-- `istep` of one tick of domain 0, whose tick would step cell 0; and one that has ended. -/
theorem meets_BenchInstructions_step :
    Gives (readS 5) (sCells 0 0) 1 (sCells 0 0) ∧ (self (sCells 0 0)).latch = .none ∧ Gives (readS 2) (sCells 0 0) 0 (sCells 0 0) ∧
    ((bench (sCells 0 0)).domain 0).dstate ≠ 1 ∧ ((bench (sCells 0 0)).domain 0).stepper = none ∧
    (bench (sCells 0 0)).cells = [(0, cell0)] ∧ cell0.enabled = true ∧ cell0.dom = 0 ∧ cell0.armed = false ∧
    (bench (sCells 0 0)).step cell0 = .done 300 44 1 ∧
    (((bench sStepped).domain 0).stepLeft = 0 ∧ (self sStepped).latch = .asked ∧ Gives (readS 2) sStepped 0 sStepped ∧
      Gives (readS 5) sStepped 1 sStepped) :=
  ⟨by decide +kernel, by decide +kernel, by decide +kernel, by decide +kernel, by decide +kernel, rfl, rfl, rfl, rfl, rfl,
    by decide +kernel⟩

/-- R202: the tick that `istep` asks for comes: 300 at SCALE 8 emits one and leaves 44, and the step is done. R211: the
instruction then gives the number of ticks. R389; R210 at the port's end. -/
theorem test_istep : (let s := (next (exec (.istep 9 2 5) (sCells 0 0))).modCore 0 fun x => { x with cycle := 4 }
     let t := next (exec .stepClockTick s)
     ((bench t).cell 0).rs = 44 ∧ ((bench t).domain 0).stepDone = 1) ∧
    (self (next (exec (.istep 9 2 5) sStepped))).scalar 9 = 7 := by decide +kernel

theorem test_bench :
    (self (next (exec (.ipatch 9 5 0) (sCells 0 0)))).scalar 9 = 0x1FF7FD00 ∧
    ((bench (next (exec (.iin 1 2) (sCells 0 40000)))).cell 0).extin = 0x7FFF ∧
    (bench (next (exec (.iin 1 2) (sCells 0 40000)))).bstat = 1 := by decide +kernel

/-- A cell that overruns by its residue and one by its integrand. -/
def cellOver (y : BitVec 32) : Cell := { cell0 with y, patch := if y = 512 then 0x1FF7FD00 else 0x1FF40100 }

/-- Domain 1 of core 0 runs and is due; a message stands in the trigger queue. -/
def sTick : State :=
  { box { bench := { domains := [(1, { dstate := 1, divider := 4 })],
                     triggers := [(false, msgTo 0 false 0 9 [5])] } } ctx0 with input := {} }

theorem meets_BenchSteps :
    ((bench (sCells 0 0)).step cell0 = .done 300 44 1 ∧ (bench (sCells 0 0)).step (cellOver 512) = .overrun 0 ∧
      (bench (sCells 0 0)).step (cellOver 0x7FFFFFFF) = .overrun 1) ∧
    (((sTick.core 0).bench.domain 1).dstate = 1 ∧ (∀ e, e < 4 → e ≠ 1 → ((sTick.core 0).bench.domain e).dstate ≠ 1) ∧
      ((sTick.core 0).bench.domain 1).due ≤ (sTick.core 0).cycle ∧ sTick.tripped = false ∧
      ∀ p ∈ (sTick.core 0).bench.cells, p.2.enabled = false) ∧
    (∃ f, SinkFirst (sSink (msgTo 1 false 0xB000 0 [5]) 1) f ∧ f.msg.kind = 1 ∧ f.msg.tag = 0xB000 ∧ f.msg.payload = [5]) ∧
    (∃ m, (sTick.core 0).bench.triggers = (false, m) :: [] ∧ (sTick.core 0).outbox.length < 16 ∧
      (sTick.core 0).tipFull = false ∧ sTick.destinationOk m.hdr0 = true) := by
  refine ⟨⟨rfl, rfl, rfl⟩, ?_, ⟨flightTo (msgTo 1 false 0xB000 0 [5]), ?_⟩, ⟨_, rfl, ?_⟩⟩ <;> decide +kernel

/-- Domain 0 of core 0 runs, is due and has one cell; and one whose `istep` has ticks left. -/
def sOne (c : Cell) : State := box { bench := { cells := [(0, c)], domains := [(0, { dstate := 1, divider := 4 })] } } ctx0

theorem meets_BenchSteps_ticks :
    (∀ c ∈ [cell0, cellOver 512], Alone ((sOne c).core 0).bench 0 ∧ (((sOne c).core 0).bench.domain 0).dstate = 1 ∧
      ((sOne c).core 0).bench.cells = [(0, c)] ∧ c.enabled = true ∧ c.dom = 0 ∧ c.armed = false) ∧
    (let b : Bench := { domains := [(2, { stepper := some 0, stepLeft := 3 })] }
     (b.domain 2).stepper.isSome = true ∧ (b.domain 2).stepLeft = 2 + 1 ∧ (b.domain 2).stepDue ≤ 0 ∧
      ∀ e, e < 4 → (b.domain e).dstate ≠ 1 ∧ (e ≠ 2 → (b.domain e).stepper = none)) ∧
    ((sSink (msgTo 1 false 0xB000 0 [5]) 1).core 1).bench.ticked = false := by
  refine ⟨?_, ?_, ?_⟩ <;> (try unfold Alone) <;> decide +kernel

/-- R202, R205: a cell that does not overrun gives 44 and one emission; one that does makes its domain FAULTED. -/
theorem test_tick : (((next (exec .stepClockTick (sOne cell0))).core 0).bench.cell 0).rs = 44 ∧
    (((next (exec .stepClockTick (sOne (cellOver 512)))).core 0).bench.domain 0).dstate = 2 ∧
    ((next (exec .stepClockTick (sOne (cellOver 512)))).core 0).activations.map (·.cause) = [0x12] := by decide +kernel

theorem test_bench_steps : ((next (exec .stepClockTick sTick)).core 0).bench.domains.map (fun p => p.2.due) = [4] ∧
    ((next (exec .benchDeposit (sSink (msgTo 1 false 0xB000 0 [0xFFFFFFFE00000002]) 1))).core 1).bench.cells.map
      (fun p => (p.1, p.2.extin)) = [(2, 0xFFFE)] ∧
    ((next (exec .triggerQueueTransfer sTick)).core 0).outbox.length = 1 := by decide +kernel

/-! ## Links, requests of other nodes, and network engines -/

/-- Die 0 maps virtual page 2 to physical page 5 for its units. -/
def die0 (e : Engine) : Die := { tlb := [⟨0, 0x2000, 4096, 0xC700000000005000, 0⟩], coreMap := [some 0], engine := e }

/-- Port 0 in a state, with an input. -/
def sPort (p : Port) (i : Input) : State :=
  { State.reset with ready := BitVec.allOnes 54, dies := [(0, die0 {})], ports := [(0, p)], input := i }

/-- A load of 8 bytes by node 3. -/
def loadPacket : Packet := { kind := 0x10, txid := 9, src := 3, len := 8, word1 := 0x2008 }

theorem meets_LinkSteps :
    (∀ f ∈ [({ ftype := 1, fseq := 1, packet := loadPacket } : Flit), { crcOk := false }, { ack := 3 }, { ftype := 3 }],
      ((sPort { up := true } { flit := f }).port 0).up = true ∧ ((sPort { up := true } { flit := f }).port 0).out = [] ∧
      ((sPort { up := true } { flit := f }).port 0).training = false ∧
      f.fseq < 1024 ∧ ((f.crcOk = true ∧ f.ack = 0 ∧ f.ftype = 1 ∧ f.fseq = (0 + 1) % 1024 ∧ f.packet.ok = true) ∨
        f.crcOk = false ∨ 3 ≤ f.ack ∨ 3 ≤ f.ftype)) ∧
    (((sPort { up := true, spareUsed := true } { flag := true, flag2 := true }).port 0).training = false ∧
      ((sPort { up := true, wanted := true } {}).port 0).wanted = true) ∧
    (((sPort { up := true, training := true } { m := 21600 }).port 0).training = true ∧
      ((sPort { up := true, training := true } { m := 21600 }).port 0).broken = false) ∧
    ((sPort { up := true, lost := [5] } {}).port 0).lost = 5 :: [] ∧ (sPort { up := true, lost := [5] } {}).node ≠ 5 := by
  decide +kernel

/-- ACK and ASEQ of the flits that a port has sent: bits 27:26 and 37:28 of the link-layer field at byte 236 (R424). -/
def acksSent (s : State) : List (Nat × Nat) :=
  (s.port 0).wire.map fun b => (little ((b.drop 236).take 6) / 2 ^ 26 % 4, little ((b.drop 236).take 6) / 2 ^ 28 % 2 ^ 10)

/-- R424: the acknowledgements; R429, R430. -/
theorem test_links :
    acksSent (next (exec .flitReceive (sPort { up := true } { flit := { ftype := 1, fseq := 1, packet := loadPacket } }))) =
      [(1, 1)] ∧ acksSent (next (exec .flitReceive (sPort { up := true } { flit := { crcOk := false } }))) = [(2, 0)] ∧
    ((next (exec .linkDown (sPort { up := true, training := true } {}))).port 0).up = false ∧
    (next (exec .lostNodeFlit (sPort { up := true, lost := [5] } {}))).path 5 = 0 := by decide +kernel

/-- A request of node 3 has come. -/
def sAsks (q : Packet) : State := sPort { up := true, inbound := [{ packet := q }] } {}

/-- The state after its packet is taken and its bytes are found. -/
def placesOf (kind n : Nat) (acc : Access) (q : Packet) (p : List Nat → State → Bool) : Bool :=
  givesWith (takePacket 0 2 kind) (sAsks q) fun q' s1 => q' == q &&
    givesWith (ingressRefs 0 q.asid (q.word1.toNat % 2 ^ 56 / (if kind = 0x13 then 8 else 1) * (if kind = 0x13 then 8 else 1)) n acc)
      s1 fun r s2 => match r with
        | .ok pas => decide (Gives (awaitStacks pas) s2 () s2) && p pas s2
        | .error _ => false

/-- A store of two bytes, an atomic (`amo.add`), and an `acq`. -/
def storePacket : Packet := { kind := 0x11, txid := 9, src := 3, len := 2, word1 := 0x2008, data := [7, 8] }
def atomicPacket : Packet := { kind := 0x12, txid := 9, src := 3, len := 16, word1 := 0x2008, data := List.replicate 16 1 }
def lockPacket : Packet := { kind := 0x13, txid := 9, src := 3, word1 := 0x2009 }

theorem meets_LinkRequests :
    placesOf 0x10 8 .read loadPacket (fun pas s => pas == upFrom 0x5008 8 && pas.all fun pa => !s.badByte pa) = true ∧
    placesOf 0x11 2 .write storePacket (fun pas s => pas == [0x5008, 0x5009] && s.hbm.wf &&
      pas.all fun pa => !s.failedStacks.contains (stackOf pa)) = true ∧
    placesOf 0x12 8 .both atomicPacket (fun pas _ => pas.head? == some 0x5008) = true ∧
    placesOf 0x13 8 .both lockPacket (fun pas _ => pas.head? == some 0x5008) = true := by decide +kernel

/-- R425: the answer to a load; what the store leaves. -/
theorem test_requests : ((next (exec .ldreq (sAsks loadPacket))).port 0).out.map (fun f => (f.packet.kind, f.packet.txid)) =
      [(0x20, 9)] ∧ (next (exec .streq (sAsks storePacket))).hbm = [(0x5008, 7), (0x5009, 8)] ∧
    ((next (exec .streq (sAsks storePacket))).port 0).out.map (fun f => f.packet.kind) = [0x21, 0x22] := by decide +kernel

/-- A message of node 3's launch 4 for core (0, 0), with that launch imported as 7. -/
def sMessage : State :=
  let p : Packet := { kind := 1, src := 3, len := 24, data := bytesOf 8 0 ++ bytesOf 8 0x00040008 ++ bytesOf 8 5 }
  { sPort { up := true, inbound := [{ packet := p }] } {} with
    imports := [(0, 0x8000000700030004)] }

theorem meets_LinkRequests_message : givesWith (takePacket 0 1 1) sMessage (fun q s1 => s1.resolve q.message.hdr0 == some 0 &&
    s1.importLid q.src q.message.lid == some 7 && !s1.fenced.getLsbD 0) = true := by decide +kernel

/-- The same while launch 7 runs. -/
def sCounting : State := { sMessage with master := { launches := [(7, { desc := desc0, state := .running })] } }

theorem meets_LinkRequests_counted : sCounting.live 7 = true ∧ givesWith (takePacket 0 1 1) sCounting (fun q s1 =>
    s1.resolve q.message.hdr0 == some 0 && s1.importLid q.src q.message.lid == some 7 && !s1.fenced.getLsbD 0) = true := by
  decide +kernel

/-- R428: the arrival raises launch 7's delta. -/
theorem test_message_counted : Tab.get 0 ((next (exec .msg sCounting)).die 0).derrick.delta 7 = 1 := by decide +kernel

/-- A response of a kind has come to a request of an owner. -/
def sAnswer (kind : Nat) (w : Word) (r : Request) : State :=
  { sPort { up := true, inbound := [{ packet := { kind, word1 := w, len := 1, data := [6] } }] } {} with requests := [(0, r)] }

/-- A request of context 0 of core 0, or of a matrix entry. -/
def askedFor (ask : Ask) : Request := { owner := .ctx 0 0, query := { node := 3, asid := 0, va := 0, ask }, port := 0 }
def matrixAsk : Request := { owner := .matrix 0 0 1, query := { node := 3, asid := 0, va := 0, ask := .load 1 }, port := 0 }

theorem meets_LinkRequests_responses :
    (∀ p ∈ [(0x20, askedFor (.load 1)), (0x20, matrixAsk), (0x23, askedFor (.atomic 0 0 0)), (0x24, askedFor (.acquire true)),
        (0x2F, askedFor (.load 1)), (0x21, askedFor (.store [1])), (0x22, { askedFor (.store [1]) with translated := true })],
      givesWith (takePacket 0 3 p.1) (sAnswer p.1 0 p.2) (fun q s1 => Tab.find s1.requests q.txid == some p.2 &&
        decide (Tab.sorted s1.requests = true ∧ s1.diverts p.2 = none) && q.word1 == 0 && p.2.expects && !p.2.late) = true) ∧
    (sAnswer 0x20 0 (askedFor (.load 1))).fetches (askedFor (.load 1)) = false ∧
    Tab.find (sAnswer 0x20 0 (askedFor (.load 1))).requests (sAnswer 0x20 0 (askedFor (.load 1))).input.n =
      some (askedFor (.load 1)) ∧ (askedFor (.load 1)).translated = false ∧ (askedFor (.load 1)).expects = true := by
  decide +kernel

/-- Data come for context 0, which is being saved. -/
def sDiverted : State := (sAnswer 0x20 0 (askedFor (.load 1))).modCtx 0 0 fun t => { t with state := .saving }

theorem meets_LinkRequests_diverted : givesWith (takePacket 0 3 0x20) sDiverted (fun q s1 => q.word1 == 0 &&
    Tab.find s1.requests q.txid == some (askedFor (.load 1)) && decide ((s1.ctx 0 0).state = .saving)) = true ∧
    ((next (exec .matrixFetchReply sDiverted)).core 0).spill.map (fun e => (e.1, e.2.data)) = [(0, [6])] := by decide +kernel

theorem test_responses : (next (exec .ldrsp (sAnswer 0x20 0 (askedFor (.load 1))))).answers.map (fun a => a.2.2) =
      [{ status := 0, data := [6] }] ∧
    (next (exec .stxlt (sAnswer 0x21 0 (askedFor (.store [1]))))).requests.map (fun r => r.2.translated) = [true] ∧
    (next (exec .requestTimeout (sAnswer 0 0 (askedFor (.load 1))))).answers.map (fun a => a.2.2.status) = [5] := by
  decide +kernel

/-- s1 is the address of an image in the tile, s2 the word of a SEND of 64 bytes to peer 0, s3 a virtual address; the
image has that SEND or an any-peer RECV. -/
def sUe (w0 : Word) : State :=
  box { tile := (bytesOf 8 w0.toNat ++ bytesOf 8 0x2000).zipIdx.filterMap fun p => if p.1 = 0 then none else some (0x1000 + p.2, p.1) }
    { ctx0 with s := [(1, 0xF000000000001000), (2, 0x4000000000), (3, 0x2000)] }

theorem meets_NetworkEngines :
    (Gives (readS 3) (sUe 0x4000000000) 0x2000 (sUe 0x4000000000) ∧
      Gives (readS 1) (sUe 0x4000000000) (ownTile 0x1000) (sUe 0x4000000000) ∧ InTile 0x1000 64 ∧
      Gives (readS 2) (sUe 0x4000000000) 0x4000000000 (sUe 0x4000000000) ∧ ueWordOk 0x4000000000 = true ∧
      (selfCore (sUe 0x4000000000)).tile.wf = true ∧ ueSpot (ownTile 0x1000) = true) ∧
    givesWith (readBytes 64 0xF000000000001000) (sUe 0x4000000000) (fun bs s2 => ueImageOk (wordsOf 8 bs) &&
      ueOp ((wordsOf 8 bs).getD 0 0) != 3 && s2.waitOver 0 0 (.engine 0 false) && (selfCore s2).nt.isEmpty && s2.waitOver 0 0 .written) = true ∧
    givesWith (readBytes 64 0xF000000000001000) (sUe 0x40000FFF03) (fun bs s2 => ueImageOk (wordsOf 8 bs) &&
      ueOp ((wordsOf 8 bs).getD 0 0) == 3 && uePeer ((wordsOf 8 bs).getD 0 0) == 0xFFF &&
      s2.waitOver 0 0 (.engine 0 true) && (selfCore s2).nt.isEmpty && s2.waitOver 0 0 .written) = true ∧
    (givesWith (readBytes 64 0xF000000000001000) (sUe 0x4000000003) (fun bs s2 => ueImageOk (wordsOf 8 bs) &&
      ueOp ((wordsOf 8 bs).getD 0 0) == 3 && uePeer ((wordsOf 8 bs).getD 0 0) == 0 &&
      s2.waitOver 0 0 (.engine 0 true) && (selfCore s2).nt.isEmpty && s2.waitOver 0 0 .written) = true ∧
      ((sUe 0).die 0).engine.recvQ = [] ∧ (((sUe 0).die 0).engine.peer 0).assigned = [] ∧ ((sUe 0).die 0).engine.recvNum < 2 ^ 32) := by decide +kernel

/-- A request of 64 bytes with an operation. -/
def ueReq (op : Nat) : UeRequest :=
  { num := 1, w0 := BitVec.ofNat 64 (64 * 2 ^ 32 + op), va := 0x2000, key := 0, offset := 0, asid := 0, message := some (0, 2) }

/-- Peer 0 is valid, with the address of the default packet. -/
def engine0 : Engine := { peers := [(0, [0, 0, 0, 0, 0, 0, 0, 0x8000000000000000])] }

/-- Die 0's engine in a state, and an input. -/
def sEngine (e : Engine) (i : Input) : State :=
  { State.reset with ready := BitVec.allOnes 54, dies := [(0, die0 e)], input := i }

theorem meets_NetworkEngines_requests :
    (∀ op ∈ [0, 1], givesWith (engineRead 0 (.send 1) 0 (0x2000 + (ueReq op).sent) (min 4096 (ueLen (ueReq op).w0 - (ueReq op).sent)))
      (sEngine { engine0 with sendQ := [ueReq op] } {}) (fun r _ => r.isSome) = true) ∧
    (∀ op ∈ [0, 1, 2], ueOp (ueReq op).w0 = op ∧ ({ engine0 with sendQ := [ueReq op] } : Engine).turnOf (ueReq op) = true ∧
      ({ engine0 with sendQ := [ueReq op] } : Engine).allows (ueReq op) = true ∧ (ueReq op).sent < ueLen (ueReq op).w0) ∧
    (let q : UeRequest := { ueReq 3 with placed := 64, total := some 64 }
     ({ engine0 with recvQ := [q] } : Engine).recvQ[0]? = some q ∧
      (Tab.get 0 engine0.counters (ueCnt q.w0)).toNat % 2 ^ 48 + 1 < 2 ^ 48) := by decide +kernel

/-- A data packet of a SEND for the RECV, its acknowledgement, and a packet in flight. -/
def uePacket0 : UePacket := { message := 2, total := 64, data := [4, 5] }
def ueFlight0 (tries : Nat) : UeFlight := { peer := 0, psn := 0, request := 1, packet := uePacket0, tries }

theorem meets_NetworkEngines_packets :
    (({ engine0 with recvQ := [ueReq 3] } : Engine).sender uePacket0 = some 0 ∧ uePacket0.wellFormed = true ∧
      uePacket0.psn = (engine0.peer 0).rxPsn ∧ (engine0.peer 0).rxAbove = [] ∧ (ueReq 3).message = some (0, uePacket0.message) ∧
      uePacket0.total ≤ ueLen (ueReq 3).w0 ∧
      givesWith (engineWrite 0 (.place 0 0) 0 (0x2000 + 0) [4, 5])
        ((sEngine { engine0 with recvQ := [ueReq 3] } {}).modDie 0 fun y =>
          { y with engine := ({ engine0 with recvQ := [ueReq 3] } : Engine).bump 1 }) (fun ok _ => ok) = true) ∧
    (let q : UeRequest := { ueReq 0 with sent := 64, psns := [0] }
     engine0.peerValid 0 = true ∧ (0 + 1) % 2 ^ 32 = 1 ∧ q.psns = [(ueFlight0 1).psn] ∧ ueOp q.w0 ≠ 2 ∧ ueLen q.w0 ≤ q.sent ∧
      uePeer q.w0 = 0) ∧
    ([ueFlight0 7].find? (fun f => f.peer == 0 && f.psn == 0) = some (ueFlight0 7) ∧ (ueFlight0 7).tries < 8) := by
  decide +kernel

/-- The acknowledgement of the one packet of a SEND comes. -/
def sAcked : State :=
  let q : UeRequest := { ueReq 0 with sent := 64, psns := [0] }
  sEngine { engine0 with sendQ := [q], flights := [ueFlight0 1] } { ueAck := { cumulative := 1 } }

/-- R442: the data stand at the RECV's buffer; R365, R431. -/
theorem test_engines :
    (next (exec .ueDataPacket (sEngine { engine0 with recvQ := [ueReq 3] } { uePacket := uePacket0 }))).hbm =
      [(0x5000, 4), (0x5001, 5)] ∧
    ((next (exec .ueAcknowledgement sAcked)).die 0).engine.counters = [(0, 1)] ∧
    ((next (exec .ueSend (sEngine { engine0 with sendQ := [ueReq 0] } {}))).die 0).engine.packets.map (·.data.length) = [64] ∧
    (self (next (exec (.uewPost 6 1) (sUe 0x4000000000)))).scalar 6 = 0 := by decide +kernel

/-! ## Save records, core errors, the mailbox, bring-up -/

/-- A page of 2 MiB at virtual and physical address 0. -/
def bigPage : TlbEntry := ⟨0, 0, 2 ^ 21, 0xC700000000000000, 0⟩

theorem big_maps (s : State) (acc : Access) (hu : (s.core 0).utlb = [bigPage])
    (hs : s.modCore 0 (fun x => { x with utlb := [bigPage] }) = s) (ha : acc.allowed bigPage.leaf = true) (va n : Nat)
    (h : va + n ≤ 2 ^ 21) : Maps (coreMmu 0 0) acc s va va n := by
  refine ⟨rfl, fun a h1 h2 => ?_⟩
  have hc : bigPage.covers 0 a = true := by simp [TlbEntry.covers, bigPage]; omega
  have hf : toFront (fun e => TlbEntry.covers e 0 a) [bigPage] = [bigPage] := by simp [toFront, hc]
  have hl : s.lookup 0 0 a = (.leaf bigPage, s) := by
    have e : s.modCore 0 (fun x => { x with utlb := toFront (fun e => e.covers 0 a) x.utlb }) = s := by
      rw [State.modCore, hu, hf]
      exact hs
    simp only [State.lookup, hu, List.find?_cons, hc, e]
  have hx : excluded a = false := by simp only [excluded, Bool.or_eq_false_iff, Bool.and_eq_false_iff, decide_eq_false_iff_not]; omega
  have hp : s.placeOf bigPage 0 a acc = .ok (.here a) := by
    have h0 : addrOf bigPage.leaf / bigPage.size * bigPage.size + a % bigPage.size = a := by
      have : addrOf bigPage.leaf = 0 := rfl
      rw [this]
      simp only [bigPage]; omega
    have h1 : bit bigPage.leaf 60 = false := rfl
    have h2 : bit bigPage.leaf 59 = false := rfl
    simp only [State.placeOf, ha, h0, h1, h2, hx]
    rfl
  have e : a - va + va = a := by omega
  rw [e]
  simp only [coreMmu, show a < 2 ^ 56 by omega, if_true]
  unfold Machine.translate
  rw [M.run_bind_ok (M.run_get s)]
  simp only [hl]
  rw [M.run_bind_ok (M.run_set s s), hp]
  rfl

theorem stacks_ready (s : State) (h : s.ready = BitVec.allOnes 54) (pa : Nat) : s.stackWaits pa = false := by
  have h8 : ∀ i, i < 8 → (BitVec.allOnes 54).getLsbD (4 + i) = true := by decide +kernel
  simp only [State.stackWaits, State.stackReady, h, h8 _ (show stackOf pa < 8 by simp only [stackOf, homeDie]; omega)]
  rfl

theorem no_mst (s : State) (k : Nat) (refs : List ByteRef) (h : (s.core k).matrix = []) : s.mstWill k refs = false := by
  simp [State.mstWill, State.mstTile, State.mstPa, State.mstNode, h]

/-- Context 0 of core 0, whose records lie from address 0 on in that page; context 15 acts. -/
def sRecord (x : Core) (t : Ctx) (hbm : Memory) : State :=
  { (box { x with utlb := [bigPage] } t) with hbm }

/-- Core 0 with a pre-emption that is due; a context to be saved, with and without its page. -/
theorem meets_RecordsAndErrors_saves :
    (let s := sRecord { preq := 1, cycle := 65536 } { ctx0 with preqSince := some 0 } []
     (s.core 0).preq.getLsbD 0 = true ∧ (s.core 0).saveMap ≠ 0xFFFF ∧ (s.ctx 0 0).state = .ready ∧ (s.ctx 0 0).latch = .none ∧
      (s.ctx 0 0).checks = [] ∧ (s.core 0).stopped = false ∧ s.spillRoom 0 0 = true ∧ s.answers = [] ∧
      (s.ctx 0 0).waitOn = none ∧ (s.ctx 0 0).gang = .alone ∧ (s.ctx 0 0).preqSince = some 0 ∧ 0 + 65536 ≤ (s.core 0).cycle) ∧
    (let s := sRecord { saveMap := 1 } { ctx0 with state := .saving, save := some { index := none, forced := false } } []
     s.saveReady 0 0 = true ∧ (s.core 0).activations = [] ∧ (s.core 0).saveMap.getLsbD 1 = false ∧
      (s.core 0).saveMap.getLsbD 0 = true ∧ Gives (spanPages (coreMmu 0 0) .write 0x4000 4) s none s ∧
      Gives (liveMap 0 0 { index := none, forced := false }) s LiveMap.full s ∧
      givesWith (writeSegments (coreMmu 0 0) (.core 0) 0 0x4000 (s.recordSegments 0 0 LiveMap.full)) s (fun r _ => r.isNone) =
        true) ∧
    (let s := box {} { ctx0 with state := .saving, save := some { index := none, forced := false } }
     givesWith (spanPages (coreMmu 0 0) .write 0 4) s (fun r _ => r == some (0, 0)) = true) := by decide +kernel

/-- A record at 0x4000 that holds s1 and its PC, to be restored; and a misaligned address. -/
def sRestore (a : Word) : State :=
  sRecord { restoring := some a } {} [(0x4000, 1), (0x4007, 0x80), (0x4010, 2), (0x4041, 0x10), (0x40C8, 9)]

theorem record_bytes (base n off : Nat) (h : off + 8 ≤ n) (f : Nat → Byte) :
    recordWord ((upFrom base n).map f) off = wrap (little ((upFrom (base + off) 8).map f)) := by
  rw [recordWord, ← List.map_drop, ← List.map_take, upFrom_drop, upFrom_take _ _ _ (by omega)]

theorem meets_RecordsAndErrors_restore :
    ((sRestore 0x4000).core 0).restoring = some 0x4000 ∧ (0x4000 : Word).toNat % 2 ^ 14 = 0 ∧
    Gives (spanPages (coreMmu 0 0) .read 0x4000 4) (sRestore 0x4000) none (sRestore 0x4000) ∧
    (∃ bs s2, Gives (readRecord 0 0x4000 0x4000) (sRestore 0x4000) (some bs) s2 ∧
      (recordWord bs 0).getLsbD 63 = true ∧ (recordWord bs 0).toNat % 256 = 1 ∧ recordWord bs 0x28 = 0 ∧
      (recordWord bs 0).getLsbD 10 = false ∧ (recordWord bs 0).getLsbD 11 = false ∧
      (recordWord bs 0x80).getLsbD 63 = false ∧ (s2.core 0).asid = 0 ∧ (s2.core 0).spoil = [] ∧
      (s2.ctx 0 0).state = .free) ∧
    ((sRestore 0x4008).core 0).restoring = some 0x4008 ∧ (0x4008 : Word).toNat % 2 ^ 14 ≠ 0 := by
  refine ⟨rfl, rfl, by decide +kernel, ⟨_, _, readRecord_maps (big_maps _ .read rfl rfl rfl 0x4000 0x4000 (by omega))
    (stacks_ready _ rfl) (no_mst _ _ _ rfl), ?_⟩, rfl, by decide⟩
  simp only [State.ctx, State.touchAll_core]
  simp only [record_bytes 0x4000 0x4000 _ (by omega : 0 + 8 ≤ 0x4000), record_bytes 0x4000 0x4000 _ (by omega : 0x28 + 8 ≤ 0x4000),
      record_bytes 0x4000 0x4000 _ (by omega : 0x80 + 8 ≤ 0x4000)]
  decide +kernel

/-- R193: s1, the PC and RESTORE's status; R189: the slot and the freed context. -/
theorem test_records : (let s := sRecord { preq := 1, cycle := 65536 } { ctx0 with preqSince := some 0 } []
      ((next (exec .forcedSave s)).ctx 0 0).state = .saving) ∧
    ((next (exec .restoreStart (sRestore 0x4008))).core 0).restoreStat = 3 := by decide +kernel

theorem upFrom_length (a n : Nat) : (upFrom a n).length = n := by rw [upFrom_range, List.length_map, List.length_range]

theorem flatMap_length {α β : Type} (f : α → List β) (n : Nat) (h : ∀ a, (f a).length = n) (l : List α) :
    (l.flatMap f).length = n * l.length := by
  induction l with
  | nil => rfl
  | cons a l ih => rw [List.flatMap_cons, List.length_append, h, ih, List.length_cons]; ring

theorem bytes_length (n : Nat) : ∀ v, (bytesOf n v).length = n := by
  induction n with
  | zero => intro v; rfl
  | succ n ih => intro v; exact congrArg (· + 1) (ih _)

/-- R195, R320: the core record has 0x8880 bytes. -/
theorem record_length (x : Core) : x.record.length = 0x8880 := by
  have h8 : ∀ w, (wordBytes w).length = 8 := fun w => bytes_length 8 _
  have hrow : ∀ (p : Plane) d, (p.rowImage d).length = 64 := by
    intro p d
    rw [Plane.rowImage]
    simp only [List.length_take, List.length_append, List.length_replicate]
    omega
  have hp : ∀ p : Plane, p.image.length = 0x440 := by
    intro p
    rw [Plane.image]
    simp only [List.length_append, h8, List.length_replicate, flatMap_length _ 64 (hrow p), upFrom_length]
  have hb : x.bench.image.length = 1288 := by
    rw [Bench.image]
    simp only [List.length_append, List.length_map, upFrom_length, List.length_cons, List.length_nil,
      flatMap_length (fun n => (x.bench.cell n).record) 4 (fun _ => rfl)]
  rw [Core.record]
  simp only [List.length_append, h8, hp, List.length_replicate, flatMap_length _ 8 h8, hb, upFrom_length,
    flatMap_length (fun c => bytesOf 4 (Tab.get 0 x.cb c).toNat) 4 (fun _ => bytes_length 4 _)]

/-- Core 0 with a job-switch command; the core record at 0x40000 has the Bench image. -/
def sJob (cmd : BitVec 2) : State := sRecord { jobBusy := true, jobsw := cmd } {} (imageAt 0x40040)

theorem job_sees (pa : Nat) : (sJob 2).superSees 0 pa = Memory.read (imageAt 0x40040) pa := rfl

theorem meets_RecordsAndErrors_jobs :
    (((sJob 1).core 0).jobBusy = true ∧ (∀ p ∈ ((sJob 1).core 0).ctxs, p.1 < 15 → p.2.state = .free) ∧
      (((sJob 1).core 0).saveBase + 0x40000).toNat = 0x40000 ∧
      ((sJob 1).core 0).matrix = [] ∧ ((sJob 1).core 0).copies = [] ∧ ((sJob 1).core 0).stores = [] ∧
      ((sJob 1).core 0).jobSent = false ∧ (∀ r ∈ (sJob 1).requests, r.2.owner ≠ .core 0) ∧
      Gives (spanConfirm (coreMmu 0 0) (.core 0) 0 0x40000 ((sJob 1).core 0).record.length) (sJob 1)
        (.ok (hbmRefs 0x40000 ((sJob 1).core 0).record.length)) (sJob 1) ∧
      Gives (needStacks (hbmRefs 0x40000 ((sJob 1).core 0).record.length)) (sJob 1) () (sJob 1) ∧
      (∀ n, nodeRuns (hbmRefs 0x40000 n) = []) ∧ (∀ n, (refPas (hbmRefs 0x40000 n)).Nodup) ∧ (sJob 1).hbm.wf = true) ∧
    (∃ e s1, Gives (spanConfirm (coreMmu 0 0) (.core 0) 0 0x40000 8) (box {} ctx0) (.error e) s1) ∧
    (∃ p ∈ ((sRecord { jobBusy := true, jobsw := 1 } ctx0 []).core 0).ctxs, p.1 < 15 ∧ p.2.state ≠ .free) ∧
    ∃ bs t, Gives (readRecord 0 0x40000 coreRecordBytes) (sJob 2) (some bs) t ∧ recordWord bs 8 = 0 ∧
      imageFault (wordsOf 1288 (bs.drop 0x40)) = none ∧ (∃ a, Plane.ofImage ((bs.drop 0x8000).take 0x440) = some a) ∧
      ∃ b, Plane.ofImage ((bs.drop 0x8440).take 0x440) = some b := by
  refine ⟨⟨rfl, by decide +kernel, rfl, rfl, rfl, rfl, rfl, by decide,
      spanConfirm_maps (big_maps _ .write rfl rfl rfl _ _ ?_) _ _, needStacks_ready _ _ (stacks_ready _ rfl),
      fun n => by simp only [nodeRuns, hbmRefs, runsOf_hbm, List.reverse_nil], fun n => ?_, by decide +kernel⟩,
    ⟨_, _, rfl⟩, ⟨_, List.mem_singleton.mpr rfl, by decide, by decide⟩,
    ⟨_, _, readRecord_maps (big_maps _ .read rfl rfl rfl 0x40000 coreRecordBytes (by decide)) (stacks_ready _ rfl)
      (no_mst _ _ _ rfl), ?_, ?_, ?_, ?_⟩⟩
  · rw [record_length]; omega
  · rw [hbmRefs, refPas_hbm, upFrom_range]
    exact List.nodup_range.map fun a b h => by simpa using h
  · rw [record_bytes _ _ _ (by decide)]; decide +kernel
  · apply image_good
    intro i hi
    rw [← List.map_drop, upFrom_drop]
    exact image_words _ _ _ (by simp only [coreRecordBytes]; omega) _ fun o => job_sees _
  all_goals
    rw [← List.map_drop, ← List.map_take, upFrom_drop, upFrom_take _ _ _ (by decide)]
    simp only [Plane.ofImage, wordAt, List.drop_zero, ← List.map_take, upFrom_take 8 _ _ (show 8 ≤ 0x440 by omega)]
    rw [if_neg (by decide +kernel)]
    exact ⟨_, rfl⟩

/-- R224 and R225: a bank, a stripe with a symbol that can be corrected and two that cannot; R180, R184: contexts. -/
theorem meets_RecordsAndErrors_errors :
    (let s := { box { bank := 0x83 } ctx0 with input := { flag := true, n := 17 } }
     s.enabled 0 = true ∧ (s.core 0).bank.getLsbD 7 = true ∧ (s.core 0).bank.toNat % 32 ≠ 17 ∧
       ((box {} ctx0).core 0).bank.getLsbD 7 = false) ∧
    (8191 < 8192 ∧ ((box {} ctx0).ctx 0 0).state = .ready ∧ ((box {} ctx0).ctx 0 15).state = .free) := by decide +kernel

theorem test_errors :
    ((next (exec .jobswSave (sRecord { jobBusy := true, jobsw := 1 } ctx0 []))).core 0).jobErr = true ∧
    ((next (exec .scrubStripe (box { bad := [⟨0, 3, 1⟩] } ctx0))).core 0).bad = [] ∧
    ((next (exec .registerSoftError (box {} ctx0))).ctx 0 0).checks = [(2, 0)] ∧
    ((next (exec .coreReset (box { stopped := true } ctx0))).core 0).stopped = false := by decide +kernel

/-- The mailbox holds a command; the input is given. -/
def sBox (ws : List Word) (i : Input) : State :=
  { sEngine {} i with mailbox := { commands := [ws] } }

/-- A command of an operation with a record and words 1 to 7. -/
def cmd (op : Nat) (ws : List Word) : List Word := BitVec.ofNat 64 (7 * 2 ^ 32 + 0x100 + op) :: (ws ++ List.replicate 7 0).take 7

/-- Window writes with room, into a full queue and as two TLPs; sizes of the ring at either end and beyond. -/
theorem meets_HostCommands_window :
    (let s := sEngine {} { flag := true, words := List.replicate 8 0 }
     s.fenced.getLsbD 0 = false ∧ s.input.words.length = 8 ∧ s.ready.getLsbD 52 = true ∧ s.mailbox.commands.length < 256) ∧
    (let s := { State.reset with input := { flag := true, words := List.replicate 8 0 } }
     s.ready.getLsbD 52 = false) ∧
    (Tab.get {} (sEngine {} { flag := true, n := 16 * 63 + 8 }).mailbox.vectors 63 = {} ∧ (16 * 63 + 8 : Nat) / 16 = 63) ∧
    ((64 : Word).toNat = 2 ^ 6 ∧ (65536 : Word).toNat = 2 ^ 16 ∧
      (0x100080 : Word).toNat % 2 ^ 17 = 2 ^ 7 ∧
      ∀ i ∈ List.range 17, (131072 : Word).toNat % 2 ^ 17 ≠ 2 ^ i ∧ (100 : Word).toNat % 2 ^ 17 ≠ 2 ^ i) ∧
    ((sBox (cmd 12 []) { n := 0x1018 }).mailbox.commands ≠ []) := by decide +kernel

/-- R416: an unmasked vector whose bit is pending is signalled with its data. -/
theorem test_vectors :
    (next (exec .hostRegisterWrite { sEngine {} { flag := true, n := 0x38, word := 9 } with mailbox := { pending := 8 } })).mailbox.posts =
      [.msix 3 0 9] := by decide +kernel

/-- R417: the size is one of the bits 16:0. -/
theorem test_ring_size : (next (exec .hostRegisterWrite (sEngine {} { n := 0x1018, word := 0x100080 }))).mailbox.cqSize = 128 := by
  decide +kernel

/-- A command of each operation is ready, one with a reserved bit is not clean, and two have no operation. -/
theorem meets_HostCommands_ready :
    (∀ p ∈ operationTable, CommandReady (sBox (cmd p.2 []) {}) (cmd p.2 []) p.2 ∧ CommandClean (cmd p.2 []) ∧
      CommandReady (sBox (cmd (0x10000 + p.2) []) {}) (cmd (0x10000 + p.2) []) p.2 ∧
      ¬CommandClean (cmd (0x10000 + p.2) [])) ∧
    CommandReady (sBox (cmd 0 []) {}) (cmd 0 []) 0 ∧ CommandReady (sBox (cmd 13 []) {}) (cmd 13 []) 13 := by decide +kernel

/-- The premises of a write of device memory: its pages confirm, their stacks are ready, and it stores in one part. -/
def deviceMeets (ws : List Word) (i : Input) (asid : Nat) (data : List Byte) : Bool :=
  givesWith (spanConfirm (dieMmu 0 asid) .mailbox asid (ws.getD 2 0).toNat data.length) (sBox ws i) fun r s1 =>
    match r with
    | .ok refs => decide (Gives (needStacks refs) s1 () s1 ∧ ∀ pa ∈ refPas refs, stackOf pa ∉ s1.failedStacks) &&
        givesWith (storeAscending .mailbox asid refs data 0 (nodeRuns refs)) s1 fun r _ => r == some 0
    | .error _ => false

/-- WRITEI of 2 bytes, WRITED of 3, and READ of 2, at virtual page 2. -/
theorem meets_HostCommands_transfers :
    (let ws := cmd 1 [0x20000, 0x2000, 0x0605]
     let data := (ws.drop 3).flatMap fun w => lowBytes 8 w.toNat
     CommandReady (sBox ws {}) ws 1 ∧ (ws.getD 1 0).toNat = 2 * 2 ^ 16 + 0 ∧ (ws.getD 2 0).toNat < 15 * 2 ^ 60 ∧
     data.drop 2 = List.replicate 38 0 ∧ deviceMeets ws {} 0 (data.take 2) = true) ∧
    (let ws := cmd 2 [0, 0x2000, 0, 3]
     let s := sBox ws { flag := true, bytes := [1, 2, 3] }
     CommandReady s ws 2 ∧ (ws.getD 1 0).toNat < 2 ^ 13 ∧ (ws.getD 4 0).toNat = 3 ∧ ws.drop 5 = [0, 0, 0] ∧
     deviceMeets ws { flag := true, bytes := [1, 2, 3] } 0 s.input.bytes = true) ∧
    (let ws := cmd 3 [0, 0x2000, 0x9000, 2]
     CommandReady (sBox ws {}) ws 3 ∧ (ws.getD 4 0).toNat = 2 ∧ ws.drop 5 = [0, 0, 0] ∧
     givesWith (spanRead (dieMmu 0 0) .mailbox 0 (sBox ws {}).hbmByte 2 0x2000) (sBox ws {}) (fun r _ => match r with
       | .ok _ => true
       | .error _ => false) = true) := by decide +kernel

/-- LAUNCH and CANCEL before and after the master's answer; the queries and the tables. -/
theorem meets_HostCommands_others :
    (let ws := cmd 4 [0, 0x2000]
     CommandReady (sBox ws {}) ws 4 ∧ ws.drop 3 = List.replicate 5 0 ∧ (sBox ws {}).mailbox.taken = false ∧
     (sBox ws {}).ready.getLsbD (48 + (sBox ws {}).master.die) = true ∧
     givesWith (mailboxRead 0 0x2000 128) (sBox ws {}) (fun r _ => match r with
       | .ok _ => true
       | .error _ => false) = true) ∧
    (nameOk 0x3000000000000007 true = true ∧ 2 ≤ (0x3000000000000007 : Word).toNat / 2 ^ 60) ∧
    (let m : Measurement := { component := 1, image := {} }
     ({ sBox (cmd 7 []) {} with log := [m] } : State).log[0]? = some m ∧ (sBox (cmd 7 []) {}).log[0]? = none ∧
     (sBox (cmd 7 []) {}).ready.getLsbD 53 = true) ∧
    (0x1000000000000309 : Word).toNat = 2 ^ 60 + 3 * 2 ^ 8 + 9 ∧
    ((0x8000000000001000 : Word).toNat % 2 ^ 12 = 0 ∧ (0x8000000000001000 : Word).getLsbD 39 = false ∧
      (0x8000000000001000 : Word).toNat / 2 ^ 42 % 2 ^ 21 = 0 ∧ ∀ d, d < 4 → (sBox [] {}).ready.getLsbD d = true) ∧
    ((0x8000000700030004 : Word).toNat / 2 ^ 22 % 2 ^ 10 = 0 ∧ (0x8000000700030004 : Word).toNat / 2 ^ 48 % 2 ^ 15 = 0) ∧
    ((cmd 11 [0x300, 5, 9, 0, 0, 0x10001, 0x8000000000000000]).getD 7 0 = 0x8000000000000000 ∧
      (cmd 11 [0x1300, 5, 0x8000000000031FFF]).getD 3 0 = 0x8000000000031FFF) ∧
    (let s := { sEngine {} {} with mailbox := { done := completionFor (cmd 12 []) 0 0 } }
     s.mailbox.done.length = 1 ∧ s.requests = [] ∧ s.mailbox.ringRoom = true) := by decide +kernel

/-- R421: what a WRITEI leaves; R422: P is 1 in the first round. -/
theorem test_mailbox : (next (exec .writei (sBox (cmd 1 [0x20000, 0x2000, 0x0605]) {}))).hbm = [(0x5000, 5), (0x5001, 6)] ∧
    (next (exec .writei (sBox (cmd 1 [0x20000, 0x2000, 0x0605]) {}))).mailbox.done.map (fun c => (c.status, c.result)) = [(0, 2)] ∧
    (next (exec .asidset (sBox (cmd 9 [5, 0x8000000000001000]) {}))).asids = [(5, 0x8000000000001000)] ∧
    (next (exec .completionRecord { sEngine {} {} with mailbox := { done := completionFor (cmd 12 []) 0 0 } })).mailbox.posts =
      [.write 0 (bytesOf 8 0x800000000000000C ++ bytesOf 8 7 ++ List.replicate 16 0)] := by decide +kernel

/-- A function and its index, with the log's components. -/
def sBoot (log : List Nat) (i : Input) : State :=
  { State.reset with input := i, ready := BitVec.ofNat 54 (2 ^ 53 + 2 ^ 48 + 1)
                     log := log.map fun c => { component := c, image := { verified := true } } }

theorem meets_BringUp :
    (∀ p ∈ [(1, ([] : List Nat)), (4, []), (11, []), (12, [3]), (43, [3]), (44, [2]), (47, [2]), (49, [1]), (51, [1]), (52, [])],
      let s := sBoot p.2 { n := p.1, flag := decide (44 ≤ p.1 ∧ p.1 < 48) }
      s.ready.getLsbD p.1 = false ∧ s.mayBeReady p.1 = true) ∧
    (let s : State := { State.reset with log := [{ component := 0, image := {} }] }
     s.ready.getLsbD 53 = false ∧ ∃ m ∈ s.log, m.component = 0) ∧
    (sBoot [] {}).ready.getLsbD 53 = true := by
  refine ⟨by decide +kernel, ⟨by decide, _, List.mem_singleton.mpr rfl, rfl⟩, by decide⟩

theorem meets_BringUp_management :
    MayManage (sBoot [] {}) (.region 4095 [0x1000, 0, 1, 0]) ∧ MayManage (sBoot [] {}) (.publish 3 1023 [1, 0, 0, 0]) ∧
    MayManage (sBoot [] {}) (.asid 8191 0) ∧ MayManage (sBoot [] {}) (.route 63 0) ∧ MayManage (sBoot [] {}) (.node 63) ∧
    MayManage (sBoot [] {}) (.jobStart 8191) ∧ MayManage (sBoot [] {}) (.coreAsid 0 5) ∧
    MayManage (sBoot [] {}) (.measured 3 { verified := true }) ∧ MayManage (sBoot [] {}) (.jobSwitch 0 8191 3) ∧
    MayManage (sBoot [] {}) (.stepClock 900) := by
  simp only [MayManage]; decide +kernel

/-- R432, R434, R393, R433. -/
theorem test_bring_up :
    (next (exec .functionReady (sBoot [3] { n := 12 }))).ready.getLsbD 12 = true ∧
    (next (exec .powerOn State.reset)).reports = [.firmwareFailed] ∧
    (next (exec .managementTableWrite (sBoot [] { mgmt := .node 5 }))).node = 5 ∧
    (next (exec .thermalStepDown State.reset)).clock = 1700 ∧
    (next (exec .getVersion (sBoot [] {}))).reports = [.spdm [0x12, 0x13]] ∧
    (next (exec .negotiateAlgorithms (sBoot [] { flag := true, flag2 := true }))).spdmReady = true := by decide +kernel

end Sys2Proof.Tests
end

section
/-! SUPPORT. The decoder's equations (R87 to R92, R96, R104): the cut of a word into its format's fields, the branch of
the decoder that each length and major takes, and the statement about words written out from the formats. -/

namespace Sys2Proof.Proofs

open Sys2Proof.Claims

/-! ## The fields of a word, by format (R96) -/

theorem fields_RRR {w : BitVec 32} {top : BitVec 7} {rb ra rd major : BitVec 6}
    (hw : w = top ++ rb ++ ra ++ rd ++ major ++ 1#1) :
    w.extractLsb' 1 6 = major ∧ w.extractLsb' 7 6 = rd ∧ w.extractLsb' 13 6 = ra ∧ w.extractLsb' 19 6 = rb ∧
    w.extractLsb' 25 7 = top := by
  subst hw
  simp only [BitVec.extractLsb'_append_eq_ite]
  simp

theorem fields_RRI {w : BitVec 32} {imm : BitVec 13} {ra rd major : BitVec 6}
    (hw : w = imm ++ ra ++ rd ++ major ++ 1#1) :
    w.extractLsb' 1 6 = major ∧ w.extractLsb' 7 6 = rd ∧ w.extractLsb' 13 6 = ra ∧ w.extractLsb' 19 13 = imm := by
  subst hw
  simp only [BitVec.extractLsb'_append_eq_ite]
  simp

theorem fields_RRK {w : BitVec 32} {fn5 : BitVec 5} {k : BitVec 8} {ra rd major : BitVec 6}
    (hw : w = fn5 ++ k ++ ra ++ rd ++ major ++ 1#1) :
    w.extractLsb' 1 6 = major ∧ w.extractLsb' 7 6 = rd ∧ w.extractLsb' 13 6 = ra ∧ w.extractLsb' 19 8 = k ∧
    w.extractLsb' 27 5 = fn5 := by
  subst hw
  simp only [BitVec.extractLsb'_append_eq_ite]
  simp

theorem fields_LX {w : BitVec 32} {la : BitVec 4} {fn3 : BitVec 3} {rb ra rd major : BitVec 6}
    (hw : w = la ++ fn3 ++ rb ++ ra ++ rd ++ major ++ 1#1) :
    w.extractLsb' 1 6 = major ∧ w.extractLsb' 7 6 = rd ∧ w.extractLsb' 13 6 = ra ∧ w.extractLsb' 19 6 = rb ∧
    w.extractLsb' 25 3 = fn3 ∧ w.extractLsb' 28 4 = la := by
  subst hw
  simp only [BitVec.extractLsb'_append_eq_ite]
  simp

theorem fields_M {w : BitVec 32} {la : BitVec 4} {fn3 : BitVec 3} {rs : BitVec 6} {hb ha hd : BitVec 4}
    {major : BitVec 6} (hw : w = la ++ fn3 ++ rs ++ hb ++ ha ++ hd ++ major ++ 1#1) :
    w.extractLsb' 1 6 = major ∧ w.extractLsb' 7 4 = hd ∧ w.extractLsb' 11 4 = ha ∧ w.extractLsb' 15 4 = hb ∧
    w.extractLsb' 19 6 = rs ∧ w.extractLsb' 25 3 = fn3 ∧ w.extractLsb' 28 4 = la := by
  subst hw
  simp only [BitVec.extractLsb'_append_eq_ite]
  simp

theorem fields_B {w : BitVec 32} {disp : BitVec 16} {ra : BitVec 6} {cond : BitVec 3} {major : BitVec 6}
    (hw : w = disp ++ ra ++ cond ++ major ++ 1#1) :
    w.extractLsb' 1 6 = major ∧ w.extractLsb' 7 3 = cond ∧ w.extractLsb' 10 6 = ra ∧ w.extractLsb' 16 16 = disp := by
  subst hw
  simp only [BitVec.extractLsb'_append_eq_ite]
  simp

/-! ## The majors (R104) -/

theorem decodeFields_major00 (top : BitVec 7) (rb ra rd : BitVec 6) :
    decodeFields (top ++ rb ++ ra ++ rd ++ 0x00#6 ++ 1#1) = decodeMajor00 top rb ra rd := by
  obtain ⟨hmajor, hrd, hra, hrb, htop⟩ := fields_RRR (w := top ++ rb ++ ra ++ rd ++ 0x00#6 ++ 1#1) rfl
  simp only [decodeFields, hmajor, hrd, hra, hrb, htop]
  rfl

theorem decodeFields_major02 (imm : BitVec 13) (ra rd : BitVec 6) :
    decodeFields (imm ++ ra ++ rd ++ 0x02#6 ++ 1#1) = decodeMajor02 imm ra rd := by
  obtain ⟨hmajor, hrd, hra, himm⟩ := fields_RRI (w := imm ++ ra ++ rd ++ 0x02#6 ++ 1#1) rfl
  simp only [decodeFields, hmajor, hrd, hra, himm]
  rfl

theorem decodeFields_major08 (disp : BitVec 16) (ra : BitVec 6) (cond : BitVec 3) :
    decodeFields (disp ++ ra ++ cond ++ 0x08#6 ++ 1#1) = decodeMajor08 disp ra cond := by
  obtain ⟨hmajor, hcond, hra, hdisp⟩ := fields_B (w := disp ++ ra ++ cond ++ 0x08#6 ++ 1#1) rfl
  simp only [decodeFields, hmajor, hcond, hra, hdisp]
  rfl

theorem decodeFields_major0C (fn5 : BitVec 5) (k : BitVec 8) (ra rd : BitVec 6) :
    decodeFields (fn5 ++ k ++ ra ++ rd ++ 0x0C#6 ++ 1#1) = decodeMajor0C fn5 k ra rd := by
  obtain ⟨hmajor, hrd, hra, hk, hfn⟩ := fields_RRK (w := fn5 ++ k ++ ra ++ rd ++ 0x0C#6 ++ 1#1) rfl
  simp only [decodeFields, hmajor, hrd, hra, hk, hfn]
  rfl

theorem decodeFields_major1C (la : BitVec 4) (fn3 : BitVec 3) (rs : BitVec 6) (hb ha hd : BitVec 4) :
    decodeFields (la ++ fn3 ++ rs ++ hb ++ ha ++ hd ++ 0x1C#6 ++ 1#1) = decodeMajor1C la fn3 rs hb ha hd := by
  obtain ⟨hmajor, hhd, hha, hhb, hrs, hfn, hla⟩ :=
    fields_M (w := la ++ fn3 ++ rs ++ hb ++ ha ++ hd ++ 0x1C#6 ++ 1#1) rfl
  simp only [decodeFields, hmajor, hhd, hha, hhb, hrs, hfn, hla]
  rfl

theorem decodeFields_major28 (la : BitVec 4) (fn3 : BitVec 3) (rb ra rd : BitVec 6) :
    decodeFields (la ++ fn3 ++ rb ++ ra ++ rd ++ 0x28#6 ++ 1#1) = decodeMajor28 la fn3 rb ra rd := by
  obtain ⟨hmajor, hrd, hra, hrb, hfn, hla⟩ := fields_LX (w := la ++ fn3 ++ rb ++ ra ++ rd ++ 0x28#6 ++ 1#1) rfl
  simp only [decodeFields, hmajor, hrd, hra, hrb, hfn, hla]
  rfl

/-- R88: no row has major 0x3F. -/
theorem decodeFields_major3F {w : BitVec 32} (hmajor : w.extractLsb' 1 6 = 0x3F#6) : decodeFields w = none := by
  simp only [decodeFields, hmajor]
  rfl

/-! ## The decoder by the length bit (R87, R90, R92) -/

/-- R88: major 0x3F is permanently illegal, whatever the rest of the word holds. -/
theorem decode_major3F {w : BitVec 32} (hlen : w.getLsbD 0 = true) (hmajor : w.extractLsb' 1 6 = 0x3F#6) :
    decode (.long w) = .error .permanentlyIllegal := by
  simp [decode, hlen, decodeWord, decodeFields_major3F hmajor, hmajor]

theorem decode_long_of_fields {x : BitVec 31} {i : Instr} (hi : decodeFields (x ++ 1#1) = some i)
    (hwf : i.illForm = none) : decode (.long (x ++ 1#1)) = .ok i := by
  have hlen : (x ++ 1#1).getLsbD 0 = true := by rw [BitVec.getLsbD_append]; rfl
  simp only [decode, hlen, if_true, decodeWord, hi, hwf]

theorem decode_short_of_fields {h : BitVec 16} {i : Instr} (hlen : h.getLsbD 0 = false)
    (hi : (if h.getLsbD 15 then decodeShort h else decodeLane16 h) = some i) (hwf : i.illForm = none) :
    decode (.short h) = .ok i := by
  simp only [decode, hlen, decodeHalf, hi, hwf, Bool.false_eq_true, if_false]

/-- R88: the zero halfword has the fields of `vadd` h0, h0, which no encoding may hold. -/
theorem decode_zeroHalfword : decode (.short 0x0000#16) = .error .permanentlyIllegal := by
  have hlane : decodeLane16 0x0000#16 = some (.vadd16 0 0) := rfl
  have hill : (Instr.vadd16 0 0).illForm = some .zeroHalfword := rfl
  have hlen : (0x0000#16).getLsbD 0 = false := rfl
  have h15 : (0x0000#16).getLsbD 15 = false := rfl
  simp only [decode, hlen, decodeHalf, h15, hlane, hill, Bool.false_eq_true, if_false]

/-- R88: a word whose first halfword is 0xFFFF has length bit 1 and major 0x3F. -/
theorem decode_high_FFFF (high : BitVec 16) : decode (.long (high ++ 0xFFFF#16)) = .error .permanentlyIllegal := by
  have hlen : (high ++ 0xFFFF#16).getLsbD 0 = true := by rw [BitVec.getLsbD_append]; rfl
  have hmajor : (high ++ 0xFFFF#16).extractLsb' 1 6 = 0x3F#6 := by
    rw [BitVec.extractLsb'_append_eq_of_add_le (by decide)]
    rfl
  exact decode_major3F hlen hmajor

/-- Settles O1: each word is cut by its format's field lemma, and its major's branch names the instruction. -/
theorem decodeWords : Obligations.DecodeWords := by
  unfold Obligations.DecodeWords
  have hB : 0xFFF83091#32 = 0xFFF8#16 ++ 12#6 ++ 1#3 ++ 0x08#6 ++ 1#1 := by decide
  refine ⟨⟨decode_zeroHalfword, decode_high_FFFF⟩, ?vadd16, ?vmul16, ?nopShort, ?endShort, ?rep, ?bNe, ?sub, ?addi,
    ?ldk, ?ldD, ?vadd⟩
  case vadd16 | vmul16 | nopShort | endShort | rep => exact decode_short_of_fields rfl rfl rfl
  case bNe => rw [hB]; exact decode_long_of_fields ((decodeFields_major08 ..).trans rfl) rfl
  case sub => exact decode_long_of_fields ((decodeFields_major00 ..).trans rfl) rfl
  case addi => exact decode_long_of_fields ((decodeFields_major02 ..).trans rfl) rfl
  case ldk => exact decode_long_of_fields ((decodeFields_major0C ..).trans rfl) rfl
  case ldD => exact decode_long_of_fields ((decodeFields_major28 ..).trans rfl) rfl
  case vadd => exact decode_long_of_fields ((decodeFields_major1C ..).trans rfl) rfl

end Sys2Proof.Proofs
end

section
/-! SUPPORT. The scalar instructions of two sources, the branches and the jumps (R99, R123, R124, R130 to R133): the
model's word operations as the integers modulo 2^64 that the tables state, each row's meaning as one shared operation,
and what that operation does. -/

namespace Sys2Proof.Proofs

open Sys2Proof.Claims Sys2Proof.Machine

/-! ## Integers modulo 2^64 -/

theorem wrap_natCast (n : Nat) : wrap n = word n := BitVec.ofInt_natCast 64 n

theorem wrap_toNat (a : Word) : wrap a.toNat = a := by
  rw [wrap_natCast, word, BitVec.ofNat_toNat, BitVec.setWidth_eq]

theorem wrap_toInt (a : Word) : wrap a.toInt = a := BitVec.ofInt_toInt

theorem wrap_add (i j : Int) : wrap (i + j) = wrap i + wrap j := BitVec.ofInt_add i j

theorem wrap_mul (i j : Int) : wrap (i * j) = wrap i * wrap j := BitVec.ofInt_mul i j

theorem wrap_sub (i j : Int) : wrap (i - j) = wrap i - wrap j := by
  rw [Int.sub_eq_add_neg, wrap_add, BitVec.sub_eq_add_neg, wrap, wrap, wrap, BitVec.ofInt_neg]

theorem signExtend_eq_wrap {n : Nat} (x : BitVec n) : x.signExtend 64 = wrap x.toInt := rfl

/-! ## Word operations as the tables state them (R123, R124) -/

theorem add_eq_wrap (a b : Word) : a + b = wrap (a.toNat + b.toNat) := by
  rw [wrap_add, wrap_toNat, wrap_toNat]

theorem sub_eq_wrap (a b : Word) : a - b = wrap (a.toNat - b.toNat) := by
  rw [wrap_sub, wrap_toNat, wrap_toNat]

theorem mul_eq_wrap (a b : Word) : a * b = wrap (a.toNat * b.toNat) := by
  rw [wrap_mul, wrap_toNat, wrap_toNat]

theorem mulHigh_eq_wrap (a b : Word) : mulHigh a b = wrap (a.toInt * b.toInt / 2 ^ 64) := rfl

theorem mulHighU_eq_wrap (a b : Word) : mulHighU a b = wrap (a.toNat * b.toNat / 2 ^ 64) := rfl

theorem quotient_eq_wrap (a b : Word) :
    quotient a b = if b = 0 then wrap (-1) else wrap (a.toInt.tdiv b.toInt) := rfl

theorem quotientU_eq_wrap (a b : Word) : quotientU a b = if b = 0 then wrap (-1) else wrap (a.toNat / b.toNat) := rfl

/-- R124: the model has no case for a zero divisor, since `tmod` by 0 leaves the dividend. -/
theorem remainder_eq_wrap (a b : Word) : remainder a b = if b = 0 then a else wrap (a.toInt.tmod b.toInt) := by
  split
  · next hb => subst hb; exact (congrArg wrap (Int.tmod_zero a.toInt)).trans (wrap_toInt a)
  · rfl

/-- R124: likewise of `%` on unsigned values. -/
theorem remainderU_eq_wrap (a b : Word) : remainderU a b = if b = 0 then a else wrap (a.toNat % b.toNat) := by
  split
  · next hb => subst hb; exact (congrArg word (Nat.mod_zero a.toNat)).trans (wrap_toNat a)
  · rfl

theorem shiftLeft_eq_wrap (a : Word) (n : Nat) : a <<< n = wrap (a.toNat * 2 ^ n) := by
  have hshift : a <<< n = word (a.toNat * 2 ^ n) := BitVec.eq_of_toNat_eq (by simp [word, Nat.shiftLeft_eq])
  rw [hshift, ← wrap_natCast]
  push_cast
  rfl

theorem ushiftRight_eq_wrap (a : Word) (n : Nat) : a >>> n = wrap (a.toNat / 2 ^ n) := by
  rw [← wrap_toNat (a >>> n), BitVec.toNat_ushiftRight, Nat.shiftRight_eq_div_pow]
  push_cast
  rfl

theorem sshiftRight_eq_wrap (a : Word) (n : Nat) : a.sshiftRight n = wrap (a.toInt / 2 ^ n) := by
  rw [BitVec.sshiftRight, Int.shiftRight_eq_div_pow, wrap]
  push_cast
  rfl

theorem rotateLeft_eq_or (a b : Word) :
    a.rotateLeft (shiftBy b) = (a <<< (b.toNat % 64)) ||| (a >>> (64 - b.toNat % 64)) := by
  rw [BitVec.rotateLeft_def, shiftBy, Nat.mod_mod]

/-! ## Comparisons as the tables state them (R123, R130) -/

/-- The model compares by `<` and the tables by `≤`, which differ where the two sides are equal alone. -/
theorem ite_lt_eq_ite_le {α β : Type} [LinearOrder α] {x y : α} {u v : β} (h : x = y → u = v) :
    (if x < y then u else v) = if x ≤ y then u else v := by
  obtain hlt | heq | hgt := lt_trichotomy x y
  · rw [if_pos hlt, if_pos hlt.le]
  · rw [h heq, ite_self, ite_self]
  · rw [if_neg hgt.not_gt, if_neg hgt.not_ge]

theorem ite_slt_eq_ite_toInt_le (a b : Word) : (if a.slt b then a else b) = if a.toInt ≤ b.toInt then a else b :=
  (if_congr BitVec.slt_iff_toInt_lt rfl rfl).trans (ite_lt_eq_ite_le BitVec.eq_of_toInt_eq)

theorem ite_slt_eq_ite_toInt_le_swap (a b : Word) : (if a.slt b then b else a) = if a.toInt ≤ b.toInt then b else a :=
  (if_congr BitVec.slt_iff_toInt_lt rfl rfl).trans (ite_lt_eq_ite_le fun h => (BitVec.eq_of_toInt_eq h).symm)

theorem ite_ult_eq_ite_toNat_le (a b : Word) : (if a.ult b then a else b) = if a.toNat ≤ b.toNat then a else b :=
  (if_congr BitVec.ult_iff_lt rfl rfl).trans (ite_lt_eq_ite_le BitVec.eq_of_toNat_eq)

theorem ite_ult_eq_ite_toNat_le_swap (a b : Word) : (if a.ult b then b else a) = if a.toNat ≤ b.toNat then b else a :=
  (if_congr BitVec.ult_iff_lt rfl rfl).trans (ite_lt_eq_ite_le fun h => (BitVec.eq_of_toNat_eq h).symm)

theorem flagWord_decide (p : Prop) [Decidable p] : flagWord (decide p) = oneIf p := by
  simp only [flagWord, oneIf, decide_eq_true_eq]; rfl

theorem beq_zero_eq_decide (a : Word) : (a == 0) = decide (a.toNat = 0) :=
  (beq_eq_decide a 0).trans (decide_eq_decide.2 BitVec.toNat_eq)

/-! ## What two reads and a write come to (R123) -/

theorem scalar2_gives (f : Word → Word → Word) {rd ra rb : BitVec 6} {s s1 s2 s3 : State} {a b : Word}
    (ha : Gives (readS ra) s a s1) (hb : Gives (readS rb) s1 b s2) (hd : Gives (writeS rd (f a b)) s2 () s3) :
    Gives (scalar2 f rd ra rb) s () (retires s3) := by
  unfold Gives scalar2
  rw [M.run_bind_ok ha, M.run_bind_ok hb, M.run_bind_ok hd, retire_run]
  rfl

theorem scalar3_gives (f : Word → Word → Word → Word) {rd ra rb : BitVec 6} {s s0 s1 s2 s3 : State} {old a b : Word}
    (hold : Gives (readS rd) s old s0) (ha : Gives (readS ra) s0 a s1) (hb : Gives (readS rb) s1 b s2)
    (hd : Gives (writeS rd (f old a b)) s2 () s3) : Gives (scalar3 f rd ra rb) s () (retires s3) := by
  unfold Gives scalar3
  rw [M.run_bind_ok hold, M.run_bind_ok ha, M.run_bind_ok hb, M.run_bind_ok hd, retire_run]
  rfl

/-! ## The rows of the two-source table (R123, R124) -/

/-- The instruction reads two registers and writes `f` of them. -/
def Computes (op : BitVec 6 → BitVec 6 → BitVec 6 → Instr) (f : Word → Word → Word) : Prop :=
  ∀ (rd ra rb : BitVec 6) (s : State), exec (op rd ra rb) s = runM (scalar2 f rd ra rb) s

theorem Computes.of_eq {op : BitVec 6 → BitVec 6 → BitVec 6 → Instr} {f g : Word → Word → Word} (hop : Computes op f)
    (h : ∀ a b, f a b = g a b) : Computes op g :=
  (funext fun a => funext (h a) : f = g) ▸ hop

theorem scalarTable_computes : ∀ p ∈ scalarTable, Computes p.1 p.2 := by
  simp only [scalarTable, List.forall_mem_cons]
  refine ⟨?add, ?sub, ?mul, ?mulh, ?mulhu, ?div, ?divu, ?rem, ?remu, ?and, ?or, ?xor, ?andn, ?shl, ?shr, ?sar, ?rol,
    ?min, ?max, ?minu, ?maxu, ?slt, ?sltu, ?seq, List.forall_mem_nil _⟩
  case add => exact .of_eq (fun _ _ _ _ => rfl) add_eq_wrap
  case sub => exact .of_eq (fun _ _ _ _ => rfl) sub_eq_wrap
  case mul => exact .of_eq (fun _ _ _ _ => rfl) mul_eq_wrap
  case mulh => exact .of_eq (fun _ _ _ _ => rfl) mulHigh_eq_wrap
  case mulhu => exact .of_eq (fun _ _ _ _ => rfl) mulHighU_eq_wrap
  case div => exact .of_eq (fun _ _ _ _ => rfl) quotient_eq_wrap
  case divu => exact .of_eq (fun _ _ _ _ => rfl) quotientU_eq_wrap
  case rem => exact .of_eq (fun _ _ _ _ => rfl) remainder_eq_wrap
  case remu => exact .of_eq (fun _ _ _ _ => rfl) remainderU_eq_wrap
  case and | or | xor | andn => exact fun _ _ _ _ => rfl
  case shl => exact .of_eq (fun _ _ _ _ => rfl) fun a b => shiftLeft_eq_wrap a (shiftBy b)
  case shr => exact .of_eq (fun _ _ _ _ => rfl) fun a b => ushiftRight_eq_wrap a (shiftBy b)
  case sar => exact .of_eq (fun _ _ _ _ => rfl) fun a b => sshiftRight_eq_wrap a (shiftBy b)
  case rol => exact .of_eq (fun _ _ _ _ => rfl) rotateLeft_eq_or
  case min => exact .of_eq (fun _ _ _ _ => rfl) ite_slt_eq_ite_toInt_le
  case max => exact .of_eq (fun _ _ _ _ => rfl) ite_slt_eq_ite_toInt_le_swap
  case minu => exact .of_eq (fun _ _ _ _ => rfl) ite_ult_eq_ite_toNat_le
  case maxu => exact .of_eq (fun _ _ _ _ => rfl) ite_ult_eq_ite_toNat_le_swap
  case slt => exact .of_eq (fun _ _ _ _ => rfl) fun _ _ => flagWord_decide _
  case sltu => exact .of_eq (fun _ _ _ _ => rfl) fun _ _ => flagWord_decide _
  case seq => exact .of_eq (fun _ _ _ _ => rfl) fun _ _ => flagWord_decide _

/-- `sel` keeps s[rb] where rd stood at 0 (R123). -/
theorem exec_sel (rd ra rb : BitVec 6) (s : State) :
    exec (.sel rd ra rb) s = runM (scalar3 (fun old a b => if old ≠ 0 then a else b) rd ra rb) s := by
  have h : (fun old a b : Word => if old = 0 then b else a) = fun old a b => if old ≠ 0 then a else b := by
    funext old a b
    exact (ite_not ..).symm
  exact h ▸ rfl

/-- Settles O9: every row computes its table's function, and so do two reads, a write and retiring. -/
theorem scalarResults : Obligations.ScalarResults := by
  unfold Obligations.ScalarResults
  refine ⟨?table, ?sel⟩
  case table =>
    intro p hp rd ra rb s s1 s2 s3 a b ha hb hd
    rw [scalarTable_computes p hp rd ra rb s]
    exact runM_ok (scalar2_gives p.2 ha hb hd)
  case sel =>
    intro rd ra rb s s0 s1 s2 s3 old a b hold ha hb hd
    rw [exec_sel]
    exact runM_ok (scalar3_gives _ hold ha hb hd)

/-! ## The context after a write and after retiring (R95, R115) -/

theorem writeS_iss {r : BitVec 6} {v : Word} {s t : State} (h : Gives (writeS r v) s () t) : t.iss = s.iss := by
  by_cases hr : r = 61#6
  · subst hr
    by_cases hroom : (s.ctx s.iss.core s.iss.ctx).pushed < 16
    · cases (writeS_push v s hroom).symm.trans h; rfl
    · cases (writeS_full v s hroom).symm.trans h
  · cases (writeS_run r v s hr).symm.trans h; rfl

theorem retiredTo_iss (s : State) (next : Word) : (s.retiredTo next).iss = { s.iss with retired := true } := by
  simp only [State.retiredTo]; split <;> rfl

theorem self_retiredTo (s : State) (next : Word) :
    self (s.retiredTo next) = (self s).retired next s.iss.forwarded := by
  rw [self, retiredTo_iss, State.ctx, State.retiredTo_core, Core.bump_ctx, Core.ctx_setCtx, self]

/-- R28: a follower of a gang keeps its PC. -/
theorem self_retiredTo_pc_of_forwarded {s : State} (hs : s.iss.forwarded = true) (next : Word) :
    (self (s.retiredTo next)).pc = (self s).pc := by
  rw [self_retiredTo, hs]; rfl

/-! ## Branches (R99, R130, R133) -/

theorem target_eq_wrap (pc : Word) {n : Nat} (disp : BitVec n) : target pc disp = pc + wrap (2 * disp.toInt) := by
  rw [target, signExtend_eq_wrap, wrap_mul, BitVec.shiftLeft_eq_mul_twoPow, BitVec.mul_comm]
  rfl

theorem branch_gives (taken : Word → Bool) {ra : BitVec 6} (disp : BitVec 16) {s s1 : State} {a : Word}
    (hs : s.iss.forwarded = false) (ha : Gives (readS ra) s a s1) :
    Gives (branch taken ra disp) s ()
      (if taken a then s1.retiredTo (s.iss.pc + wrap (2 * disp.toInt)) else retires s1) := by
  unfold Gives branch
  rw [M.run_bind_ok (M.run_get s), if_neg (by simp [hs]), M.run_bind_ok ha, target_eq_wrap]
  split <;> rfl

/-- R133: a follower consults no register. -/
theorem branch_gives_of_forwarded (taken : Word → Bool) (ra : BitVec 6) (disp : BitVec 16) {s : State}
    (hs : s.iss.forwarded = true) : Gives (branch taken ra disp) s () (retires s) := by
  unfold Gives branch
  rw [M.run_bind_ok (M.run_get s), if_pos hs, retire_run]
  rfl

/-- The instruction is a branch under the condition `taken`. -/
def BranchesIf (op : BitVec 6 → BitVec 16 → Instr) (taken : Word → Bool) : Prop :=
  ∀ (ra : BitVec 6) (disp : BitVec 16) (s : State), exec (op ra disp) s = runM (branch taken ra disp) s

theorem BranchesIf.of_eq {op : BitVec 6 → BitVec 16 → Instr} {f g : Word → Bool} (hop : BranchesIf op f)
    (h : ∀ a, f a = g a) : BranchesIf op g :=
  (funext h : f = g) ▸ hop

theorem branchTable_branchesIf : ∀ p ∈ branchTable, BranchesIf p.1 p.2 := by
  simp only [branchTable, List.forall_mem_cons]
  refine ⟨?bEq, ?bNe, ?bLt, ?bGe, ?bLtu, ?bGeu, List.forall_mem_nil _⟩
  case bEq => exact .of_eq (fun _ _ _ => rfl) beq_zero_eq_decide
  case bNe => exact .of_eq (fun _ _ _ => rfl) fun a => by rw [bne, beq_zero_eq_decide, ← decide_not]
  case bLt => exact .of_eq (fun _ _ _ => rfl) fun a => by simp [BitVec.slt_eq_decide]
  case bGe => exact .of_eq (fun _ _ _ => rfl) fun a => by simp [BitVec.slt_eq_decide, ← decide_not]
  case bLtu => exact .of_eq (fun _ _ _ => rfl) fun a => by simp [BitVec.ult_eq_decide]
  case bGeu => exact .of_eq (fun _ _ _ => rfl) fun a => by simp [BitVec.ult_eq_decide]

/-! ## Jumps (R131 to R133) -/

/-- The link is written, and `next` follows. -/
def linkTo (rd : BitVec 6) (link next : Word) : M Unit := do
  writeS rd link
  retireTo next

theorem linkTo_gives {rd : BitVec 6} {link : Word} (next : Word) {s s1 : State}
    (hlink : Gives (writeS rd link) s () s1) : Gives (linkTo rd link next) s () (s1.retiredTo next) :=
  M.run_bind_ok hlink

theorem exec_j (disp : BitVec 25) (s : State) :
    exec (.j disp) s = .next (s.retiredTo (s.iss.pc + wrap (2 * disp.toInt))) :=
  (runM_ok (retireTo_run _ s)).trans (by rw [target_eq_wrap])

theorem exec_jal (disp : BitVec 25) {s s1 : State} (hlink : Gives (writeS 62#6 (s.iss.pc + 4#64)) s () s1) :
    exec (.jal disp) s = .next (s1.retiredTo (s.iss.pc + wrap (2 * disp.toInt))) := by
  rw [← target_eq_wrap]
  exact runM_ok (linkTo_gives _ hlink)

/-- A follower jumps from 0 where any other context reads s[ra]. -/
theorem exec_jalr_eq (rd ra : BitVec 6) (imm : BitVec 13) (s : State) :
    exec (.jalr rd ra imm) s = runM (
      if s.iss.forwarded then linkTo rd (s.iss.pc + 4#64) ((0 + wrap imm.toInt) &&& ~~~1#64)
      else readS ra >>= fun a => linkTo rd (s.iss.pc + 4#64) ((a + wrap imm.toInt) &&& ~~~1#64)) s := rfl

theorem exec_jalr {rd ra : BitVec 6} (imm : BitVec 13) {s s1 s2 : State} {a : Word} (hs : s.iss.forwarded = false)
    (ha : Gives (readS ra) s a s1) (hlink : Gives (writeS rd (s.iss.pc + 4#64)) s1 () s2) :
    exec (.jalr rd ra imm) s = .next (s2.retiredTo ((a + wrap imm.toInt) &&& ~~~1#64)) := by
  rw [exec_jalr_eq, if_neg (by simp [hs])]
  exact runM_ok ((M.run_bind_ok ha).trans (linkTo_gives _ hlink))

theorem exec_jalr_of_forwarded {rd : BitVec 6} (ra : BitVec 6) (imm : BitVec 13) {s s1 : State}
    (hs : s.iss.forwarded = true) (hlink : Gives (writeS rd (s.iss.pc + 4#64)) s () s1) :
    exec (.jalr rd ra imm) s = .next (s1.retiredTo ((0 + wrap imm.toInt) &&& ~~~1#64)) := by
  rw [exec_jalr_eq, if_pos hs]
  exact runM_ok (linkTo_gives _ hlink)

/-- Settles O11: every row of the branch table branches under its condition, and each jump writes its link, if it has
one, and retires to its target; a follower's PC does not move. -/
theorem branchesAndJumps : Obligations.BranchesAndJumps := by
  unfold Obligations.BranchesAndJumps
  refine ⟨?branch, ?branchFollower, exec_j, fun disp _ _ => exec_jal disp, ?jalr, ?jalrFollower⟩
  case branch =>
    intro p hp ra disp s s1 a hs ha
    rw [branchTable_branchesIf p hp ra disp s]
    exact runM_ok (branch_gives p.2 disp hs ha)
  case branchFollower =>
    intro p hp ra disp s hs
    rw [branchTable_branchesIf p hp ra disp s]
    exact runM_ok (branch_gives_of_forwarded p.2 ra disp hs)
  case jalr =>
    intro rd ra imm s s1 s2 a hs ha hlink
    exact exec_jalr imm hs ha hlink
  case jalrFollower =>
    intro rd ra imm s s1 hs hlink
    have hs1 : s1.iss.forwarded = true := by rw [writeS_iss hlink, hs]
    exact ⟨_, exec_jalr_of_forwarded ra imm hs hlink, State.retiredTo_retired _ _,
      self_retiredTo_pc_of_forwarded hs1 _⟩

end Sys2Proof.Proofs
end

section
/-! SUPPORT. Effective addresses (R219 to R221) and the operand fault of a scalar load or store (R180, R235, R236):
where each kind of address lies, what reading the operands keeps of the issue slot, and how a failing lowest byte stops
the access. -/

namespace Sys2Proof.Proofs

open Sys2Proof.Claims Sys2Proof.Machine

/-! ## Where an effective address lies (R219 to R221) -/

theorem ownTile_eq_tileAddr (off : Nat) : ownTile off = tileAddr off := wrap_natCast (0xF000000000000000 + off)

theorem toNat_peerAddress {cc off : Nat} (hcc : cc < 32) (hoff : off < 2 ^ 20) :
    (wrap (0xF100000000000000 + cc * 2 ^ 48 + off)).toNat = 0xF100000000000000 + cc * 2 ^ 48 + off := by
  have hnat : wrap (0xF100000000000000 + cc * 2 ^ 48 + off) = word (0xF100000000000000 + cc * 2 ^ 48 + off) := by
    rw [← wrap_natCast]; push_cast; rfl
  rw [hnat, word, BitVec.toNat_ofNat]
  omega

theorem region_peer {s : State} {k cc off : Nat} {a : Word} (hcc : cc < 32) (hoff : off < 2 ^ 20)
    (ha : a.toNat = 0xF100000000000000 + cc * 2 ^ 48 + off) :
    s.region k a = if s.enabled (peerOf k cc) then .tile (peerOf k cc) off else .outside := by
  have hspace : field a 63 60 = 0xF := by simp only [field, ha]; omega
  have hown : field a 59 20 ≠ 0 := by simp only [field, ha]; omega
  have hform : field a 59 56 = 1 := by simp only [field, ha]; omega
  have hhigh : field a 55 53 = 0 := by simp only [field, ha]; omega
  have hlow : field a 47 20 = 0 := by simp only [field, ha]; omega
  have hpeer : field a 52 48 = cc := by simp only [field, ha]; omega
  have hoffset : field a 19 0 = off := by simp only [field, ha]; omega
  simp [State.region, zeroBits, hspace, hown, hform, hhigh, hlow, hpeer, hoffset]

/-- R220: in tile space, what is neither the own tile nor of a peer's form. -/
theorem region_outside {s : State} {k : Nat} {a : Word} (hspace : field a 63 60 = 0xF) (hown : field a 59 20 ≠ 0)
    (hpeer : field a 59 56 = 1 → field a 55 53 = 0 → field a 47 20 ≠ 0) : s.region k a = .outside := by
  have hform : (decide (field a 59 56 = 1) && zeroBits a 55 53 && zeroBits a 47 20) = false := by
    simpa [zeroBits] using hpeer
  simp [State.region, hspace, hown, hform]

theorem region_outside_of_beyondOwn {s : State} {k : Nat} {a : Word} (hlow : 0xF * 2 ^ 60 + 2 ^ 20 ≤ a.toNat)
    (hhigh : a.toNat < 0xF1 * 2 ^ 56) : s.region k a = .outside := by
  have hspace : field a 63 60 = 0xF := by simp only [field]; omega
  have hoffset : field a 59 20 ≠ 0 := by simp only [field]; omega
  have hform : field a 59 56 = 0 := by simp only [field]; omega
  exact region_outside hspace hoffset fun hpeer => by omega

theorem region_outside_of_beyondPeer {s : State} {k : Nat} {a : Word} (hlow : 0xF1 * 2 ^ 56 ≤ a.toNat)
    (hhigh : a.toNat < 0xF1 * 2 ^ 56 + 32 * 2 ^ 48) (hoff : 2 ^ 20 ≤ a.toNat % 2 ^ 48) : s.region k a = .outside := by
  have hspace : field a 63 60 = 0xF := by simp only [field]; omega
  have hown : field a 59 20 ≠ 0 := by simp only [field]; omega
  have hoffset : field a 47 20 ≠ 0 := by simp only [field]; omega
  exact region_outside hspace hown fun _ _ => hoffset

theorem region_outside_of_beyondPeers {s : State} {k : Nat} {a : Word}
    (hlow : 0xF1 * 2 ^ 56 + 32 * 2 ^ 48 ≤ a.toNat) : s.region k a = .outside := by
  have hspace : field a 63 60 = 0xF := by simp only [field]; omega
  have hown : field a 59 20 ≠ 0 := by simp only [field]; omega
  have hcc : field a 59 56 = 1 → field a 55 53 ≠ 0 := by simp only [field]; omega
  exact region_outside hspace hown fun hform hhigh => absurd hhigh (hcc hform)

theorem region_virtual {s : State} {k : Nat} {a : Word} (ha : a.toNat < 2 ^ 56) :
    s.region k a = .virtual a.toNat := by
  have hspace : field a 63 60 ≠ 0xF := by simp only [field]; omega
  have hhigh : field a 63 56 = 0 := by simp only [field]; omega
  simp [State.region, zeroBits, hspace, hhigh]

theorem region_unmapped {s : State} {k : Nat} {a : Word} (hlow : 2 ^ 56 ≤ a.toNat) (hhigh : a.toNat < 0xF * 2 ^ 60) :
    s.region k a = .unmapped := by
  have hspace : field a 63 60 ≠ 0xF := by simp only [field]; omega
  have hnonzero : field a 63 56 ≠ 0 := by simp only [field]; omega
  simp [State.region, zeroBits, hspace, hnonzero]

/-! ## What reading the operands keeps of the issue slot -/

/-- The same context holds the slot, and its core translates under the same ASID. -/
def SameIssuer (s t : State) : Prop := t.iss = s.iss ∧ (selfCore t).asid = (selfCore s).asid

theorem SameIssuer.refl (s : State) : SameIssuer s s := ⟨rfl, rfl⟩

theorem SameIssuer.trans {s t u : State} (hst : SameIssuer s t) (htu : SameIssuer t u) : SameIssuer s u :=
  ⟨htu.1.trans hst.1, htu.2.trans hst.2⟩

/-- The computation, where it answers, leaves the slot to the same issuer. -/
def KeepsIssuer {α : Type} (m : M α) : Prop := ∀ (s t : State) (v : α), Gives m s v t → SameIssuer s t

theorem gives_bind {α β : Type} {m : M α} {f : α → M β} {s t : State} {b : β} (h : Gives (m >>= f) s b t) :
    ∃ a u, Gives m s a u ∧ Gives (f a) u b t := by
  cases hm : m.run s with
  | error e => cases (M.run_bind_error hm).symm.trans h
  | ok r => exact ⟨r.1, r.2, hm, (M.run_bind_ok hm).symm.trans h⟩

theorem KeepsIssuer.bind {α β : Type} {m : M α} {f : α → M β} (hm : KeepsIssuer m) (hf : ∀ a, KeepsIssuer (f a)) :
    KeepsIssuer (m >>= f) := by
  intro s t b h
  obtain ⟨a, u, ha, hb⟩ := gives_bind h
  exact (hm s u a ha).trans (hf a u t b hb)

theorem keepsIssuer_pure {α : Type} (v : α) : KeepsIssuer (pure v : M α) := by
  intro s t w h
  cases h
  exact .refl s

theorem keepsIssuer_throw {α : Type} (e : Stop) : KeepsIssuer (throw e : M α) := by
  intro s t v h
  cases h

theorem keepsIssuer_myCtx : KeepsIssuer myCtx := by
  intro s t v h
  cases h
  exact .refl s

theorem keepsIssuer_modMyCtx (f : Ctx → Ctx) : KeepsIssuer (modMyCtx f) := by
  intro s t v h
  cases (modMyCtx_run f s).symm.trans h
  exact ⟨rfl, by simp [selfCore]⟩

/-- A head that has not arrived, or an empty queue, stops the read, so that it has nothing to keep. -/
theorem keepsIssuer_popLoad : KeepsIssuer popLoad := by
  refine keepsIssuer_myCtx.bind fun t => ?_
  split
  case h_1 => exact keepsIssuer_throw _
  case h_2 =>
    split
    case h_1 => exact keepsIssuer_throw _
    case h_2 v _ => exact (keepsIssuer_modMyCtx _).bind fun _ => keepsIssuer_pure v

theorem keepsIssuer_readS (r : BitVec 6) : KeepsIssuer (readS r) := by
  unfold readS
  split
  · exact keepsIssuer_popLoad
  · exact keepsIssuer_myCtx.bind fun _ => keepsIssuer_pure _

theorem keepsIssuer_storeData (rd : BitVec 6) : KeepsIssuer (storeData rd) := by
  unfold storeData
  split
  · refine keepsIssuer_myCtx.bind fun t => ?_
    split
    case h_1 => exact keepsIssuer_throw _
    case h_2 v _ _ => exact (keepsIssuer_modMyCtx _).bind fun _ => keepsIssuer_pure v
  · exact keepsIssuer_readS rd

theorem keepsIssuer_makeRoom : KeepsIssuer makeRoom := by
  refine keepsIssuer_myCtx.bind fun t => ?_
  split
  · exact keepsIssuer_pure ()
  · split
    case h_1 => exact keepsIssuer_pure ()
    case h_2 =>
      split
      case h_1 => exact keepsIssuer_throw _
      case h_2 =>
        split
        · exact keepsIssuer_throw _
        · exact keepsIssuer_modMyCtx _

theorem keepsIssuer_makeRoomFor (d : Dest) : KeepsIssuer (makeRoomFor d) := by
  unfold makeRoomFor
  split
  · exact keepsIssuer_pure ()
  · exact keepsIssuer_makeRoom

/-! ## A failing lowest byte stops the access (R180, R235, R236) -/

/-- The translation of the byte at `a` fails in `s` with `kind` for the issuer, which leaves `t`. -/
def ByteFails (acc : Access) (a : Word) (kind : Nat) (s t : State) : Prop :=
  Gives (refByte s.iss.core (selfCore s).asid.toNat acc a) s (.error kind) t

/-- Operands may be read before the address is translated: the byte fails for the same issuer. -/
theorem SameIssuer.byteFails {acc : Access} {a : Word} {kind : Nat} {s u t : State} (hsu : SameIssuer s u)
    (h : Gives (refByte s.iss.core (selfCore s).asid.toNat acc a) u (.error kind) t) : ByteFails acc a kind u t := by
  obtain ⟨hiss, hasid⟩ := hsu
  rw [ByteFails, hiss, hasid]
  exact h

/-- R180: the operand fault of a byte at `a`. -/
def operandTrap (a : Word) (kind : Nat) : Trap := { cause := 0x06, addr := a, info := word kind }

section
variable {acc : Access} {a : Word} {kind : Nat} {s t : State}

theorem refBytes_of_byteFails {k asid : Nat} (n : Nat) (h : Gives (refByte k asid acc a) s (.error kind) t) :
    Gives (refBytes k asid acc (n + 1) a) s ([], some (a, kind)) t := by
  unfold Gives refBytes
  rw [M.run_bind_ok h]
  rfl

/-- No byte stands below the lowest, so that no other node is asked before the fault. -/
theorem accessRefs_of_byteFails {n : Nat} (hn : 0 < n) (write : Bool) (h : ByteFails acc a kind s t) :
    Stops (accessRefs acc n a write) s (.walked (operandTrap a (kind + if write then 4 else 0)) t) := by
  obtain ⟨m, rfl⟩ := Nat.exists_eq_succ_of_ne_zero hn.ne'
  have hasid : Gives myAsid s (selfCore s).asid.toNat s := rfl
  unfold Stops accessRefs
  rw [M.run_bind_ok (here_run s), M.run_bind_ok hasid, M.run_bind_ok (refBytes_of_byteFails m h)]
  cases write <;> rfl

/-- The fault comes before the wait for room in s60 (log 104), so that a full load-data queue makes no difference. -/
theorem loadInto_of_byteFails {n : Nat} (hn : 0 < n) (d : Dest) (form : LoadForm) (nt : Bool)
    (h : ByteFails .read a kind s t) : Stops (loadInto d form nt n a) s (.walked (operandTrap a kind) t) := by
  have hasid : Gives myAsid s (selfCore s).asid.toNat s := rfl
  unfold Stops loadInto
  rw [M.run_bind_ok (here_run s), M.run_bind_ok hasid]
  exact M.run_bind_error (accessRefs_of_byteFails hn false h)

theorem storeBytes_of_byteFails {data : List Byte} (hn : 0 < data.length) (h : ByteFails .write a kind s t) :
    Stops (storeBytes a data) s (.walked (operandTrap a (kind + 4)) t) := by
  have hasid : Gives myAsid s (selfCore s).asid.toNat s := rfl
  unfold Stops storeBytes
  rw [M.run_bind_ok (here_run s), M.run_bind_ok hasid]
  exact M.run_bind_error (accessRefs_of_byteFails hn true h)

theorem storeNonTemporal_of_byteFails {data : List Byte} (hn : 0 < data.length) (h : ByteFails .write a kind s t) :
    Stops (storeNonTemporal a data) s (.walked (operandTrap a (kind + 4)) t) := by
  have hasid : Gives myAsid s (selfCore s).asid.toNat s := rfl
  unfold Stops storeNonTemporal
  rw [M.run_bind_ok (here_run s), M.run_bind_ok hasid]
  exact M.run_bind_error (accessRefs_of_byteFails hn true h)

end

theorem length_bytesOf (n v : Nat) : (bytesOf n v).length = n := by
  unfold bytesOf
  induction n generalizing v with
  | zero => rfl
  | succ n ih => rw [natBytes, List.length_cons, ih]

theorem scalarLoad_stops {form : LoadForm} {nt : Bool} {n kind : Nat} (hn : 0 < n) {rd ra rb : BitVec 6} {la : BitVec 4}
    {s s0 s1 s2 s3 : State} {a b : Word} (hroom : Gives (makeRoomFor (scalarDest rd la)) s () s0)
    (ha : Gives (readS ra) s0 a s1) (hb : Gives (readS rb) s1 b s2)
    (hfail : Gives (refByte s.iss.core (selfCore s).asid.toNat .read (a + b)) s2 (.error kind) s3) :
    Stops (scalarLoad form nt n rd ra rb la) s (.walked (operandTrap (a + b) kind) s3) := by
  have hsame : SameIssuer s s2 := ((keepsIssuer_makeRoomFor _ _ _ _ hroom).trans (keepsIssuer_readS ra _ _ _ ha)).trans
    (keepsIssuer_readS rb _ _ _ hb)
  unfold Stops scalarLoad
  rw [← scalarDest, M.run_bind_ok hroom, M.run_bind_ok ha, M.run_bind_ok hb]
  exact loadInto_of_byteFails hn _ form nt (hsame.byteFails hfail)

theorem scalarStore_stops (nt : Bool) {n kind : Nat} (hn : 0 < n) {rd ra rb : BitVec 6} {s s0 s1 s2 s3 : State}
    {d a b : Word} (hd : Gives (storeData rd) s d s0) (ha : Gives (readS ra) s0 a s1) (hb : Gives (readS rb) s1 b s2)
    (hfail : Gives (refByte s.iss.core (selfCore s).asid.toNat .write (a + b)) s2 (.error kind) s3) :
    Stops (scalarStore nt n rd ra rb) s (.walked (operandTrap (a + b) (kind + 4)) s3) := by
  have hsame : SameIssuer s s2 := ((keepsIssuer_storeData rd _ _ _ hd).trans (keepsIssuer_readS ra _ _ _ ha)).trans
    (keepsIssuer_readS rb _ _ _ hb)
  have hbyte : ByteFails .write (a + b) kind s2 s3 := hsame.byteFails hfail
  have hlen : 0 < (bytesOf n d.toNat).length := by rwa [length_bytesOf]
  unfold Stops scalarStore
  rw [M.run_bind_ok hd, M.run_bind_ok ha, M.run_bind_ok hb]
  cases nt
  case false => exact M.run_bind_error (storeBytes_of_byteFails hlen hbyte)
  case true => exact M.run_bind_error (storeNonTemporal_of_byteFails hlen hbyte)

/-! ## The rows of the load and store tables (R233, R234) -/

theorem loadTable_loads : ∀ p ∈ loadTable, 0 < p.2.2.1 ∧ ∀ (rd ra rb : BitVec 6) (la : BitVec 4) (s : State),
    exec (p.1 rd ra rb la) s = runM (scalarLoad p.2.1 p.2.2.2 p.2.2.1 rd ra rb la) s := by
  simp only [loadTable, List.forall_mem_cons]
  refine ⟨?ldB, ?ldBu, ?ldH, ?ldHu, ?ldW, ?ldWu, ?ldD, ?ldNt, List.forall_mem_nil _⟩
  case ldB | ldBu | ldH | ldHu | ldW | ldWu | ldD | ldNt => exact ⟨by decide, fun _ _ _ _ _ => rfl⟩

/-- `st.nt` alone is non-temporal. -/
theorem storeTable_stores : ∀ p ∈ storeTable, 0 < p.2 ∧ ∃ nt, ∀ (rd ra rb : BitVec 6) (s : State),
    exec (p.1 rd ra rb) s = runM (scalarStore nt p.2 rd ra rb) s := by
  simp only [storeTable, List.forall_mem_cons]
  refine ⟨?stB, ?stH, ?stW, ?stD, ?stNt, List.forall_mem_nil _⟩
  case stB | stH | stW | stD => exact ⟨by decide, false, fun _ _ _ _ => rfl⟩
  case stNt => exact ⟨by decide, true, fun _ _ _ _ => rfl⟩

/-- Settles O28: each range of addresses by the fields that tell it apart; a load or store whose lowest byte fails stops
with what the walk left, since reading its operands keeps the issuer. -/
theorem addressSpaces : Obligations.AddressSpaces := by
  unfold Obligations.AddressSpaces
  refine ⟨fun s k a => ⟨?own, ?peer, region_virtual, region_unmapped, region_outside_of_beyondOwn,
    region_outside_of_beyondPeer, region_outside_of_beyondPeers⟩, ?load, ?store⟩
  case own =>
    rintro off hoff rfl
    rw [ownTile_eq_tileAddr]
    exact State.region_own s k off hoff
  case peer =>
    rintro cc off hcc hoff rfl
    exact region_peer hcc hoff (toNat_peerAddress hcc hoff)
  case load =>
    intro p hp rd ra rb la s s0 s1 s2 s3 a b kind hroom ha hb hfail
    obtain ⟨hn, hexec⟩ := loadTable_loads p hp
    rw [hexec, wrap_natCast]
    exact runM_error (scalarLoad_stops hn hroom ha hb hfail)
  case store =>
    intro p hp rd ra rb s s0 s1 s2 s3 d a b kind hd ha hb hfail
    obtain ⟨hn, nt, hexec⟩ := storeTable_stores p hp
    rw [hexec, wrap_natCast]
    exact runM_error (scalarStore_stops nt hn hd ha hb hfail)

end Sys2Proof.Proofs
end
